-- ==== Sys2Proof/Word.lean ====
section
/-!
DEFINITION. The word types of the KS4 model: the widths the manual gives to the values it treats as bits.
Quantities that are only counted or compared (sizes, indexes, times) are `Nat` elsewhere.
-/
namespace Sys2Proof

/-- One byte of memory (R4). -/
abbrev Byte := BitVec 8
/-- The bit pattern of an FP32 or INT32 value: one vector lane, one accumulator element (R120, R97). -/
abbrev W32 := BitVec 32
/-- An 8-byte word: a flag, a consumed-count word, a register slot (R174, R181, R504). -/
abbrev W64 := BitVec 64
/-- A slug: 64 bytes read as one little-endian value (R160). -/
abbrev SlugWord := BitVec 512
/-- A tensor descriptor: 64 bytes read as one little-endian value (R165). -/
abbrev TDWord := BitVec 512
/-- A data-service job: 128 bytes read as one little-endian value (R356). -/
abbrev JobWord := BitVec 1024
/-- An engine number E00–E63 (R18). -/
abbrev EngineNo := BitVec 6
/-- A forme number F0–F3 (R18). -/
abbrev FormeNo := BitVec 2
/-- A fabric port number P0–P15 (R18). -/
abbrev PortNo := BitVec 4
/-- A Broadsheet device id (R15). -/
abbrev DeviceId := BitVec 16

end Sys2Proof
end

