-- ==== Sys2Proof/Machine/Types.lean ====
section
/-!
DEFINITION. The plain data that several units share: statuses (R183 and the class tables), severities (R477), sparse tables,
memory as canonical cells with the regions whose contents the manual leaves undefined, and the origin of a slug.
-/
namespace Sys2Proof.Machine

/-- The completion statuses of R183, R229, R237, R322, R350, R359 and the UPDATE class. -/
inductive Status
  | success | reservedEncoding | formatIllegal | shapeIllegal | placeIllegal | operandOverlap | accRange
  | stageRange | levelLocked | nestDepth
  | addrUnmapped | addrRefused | memUe | bufferUe | pathReset | upstreamAbort | galleyMismatch | waitTimeout
  | flushed | operatorAbsent
  | roleMoved | linkLost | routeFail | collMismatch | collTimeout | mgmtRefused
  | hostLost | hostPoison | ringInvalid
  | spikeUnderflow | spikeMismatch | spikeOverflow | spikeLost | updateSkipped
  | stateUnreachable | replicaDiverged | fpTimeout | fpRecordMismatch | repairUnstable | imageMismatch
  | imageCorrupt | stepOrder
  | storageError | targetLost | channelBusy | channelLimit | channelLost | connectFailed
  deriving DecidableEq, Repr

/-- The 8-bit codes of the statuses. -/
def Status.code : Status → Nat
  | .success => 0x00 | .reservedEncoding => 0x01 | .formatIllegal => 0x02 | .shapeIllegal => 0x03
  | .placeIllegal => 0x04 | .operandOverlap => 0x05 | .accRange => 0x06 | .stageRange => 0x07
  | .levelLocked => 0x08 | .nestDepth => 0x09 | .addrUnmapped => 0x10 | .addrRefused => 0x11
  | .memUe => 0x12 | .bufferUe => 0x13 | .pathReset => 0x14 | .upstreamAbort => 0x15
  | .galleyMismatch => 0x16 | .waitTimeout => 0x17 | .flushed => 0x18 | .operatorAbsent => 0x19
  | .roleMoved => 0x40 | .linkLost => 0x41 | .routeFail => 0x42 | .collMismatch => 0x43
  | .collTimeout => 0x44 | .mgmtRefused => 0x45 | .hostLost => 0x48 | .hostPoison => 0x49
  | .ringInvalid => 0x4A | .spikeUnderflow => 0x50 | .spikeMismatch => 0x51 | .spikeOverflow => 0x52
  | .spikeLost => 0x53 | .updateSkipped => 0x54 | .stateUnreachable => 0x58 | .replicaDiverged => 0x59
  | .fpTimeout => 0x5A | .fpRecordMismatch => 0x5B | .repairUnstable => 0x5C | .imageMismatch => 0x5D
  | .imageCorrupt => 0x5E | .stepOrder => 0x5F
  | .storageError => 0x80 | .targetLost => 0x81 | .channelBusy => 0x82 | .channelLimit => 0x83 | .channelLost => 0x84
  | .connectFailed => 0x85

/-- Every status. -/
def Status.all : List Status :=
  [.success, .reservedEncoding, .formatIllegal, .shapeIllegal, .placeIllegal, .operandOverlap, .accRange, .stageRange, .levelLocked, .nestDepth,
   .addrUnmapped, .addrRefused, .memUe, .bufferUe, .pathReset, .upstreamAbort, .galleyMismatch, .waitTimeout, .flushed, .operatorAbsent,
   .roleMoved, .linkLost, .routeFail, .collMismatch, .collTimeout, .mgmtRefused, .hostLost, .hostPoison, .ringInvalid,
   .spikeUnderflow, .spikeMismatch, .spikeOverflow, .spikeLost, .updateSkipped, .stateUnreachable, .replicaDiverged, .fpTimeout,
   .fpRecordMismatch, .repairUnstable, .imageMismatch, .imageCorrupt, .stepOrder,
   .storageError, .targetLost, .channelBusy, .channelLimit, .channelLost, .connectFailed]

/-- The severities of R477, in increasing order. -/
inductive Severity
  | note | corrected | deferred | fatalEngine | fatalForme | fatalDevice
  deriving DecidableEq, Repr

def Severity.code : Severity → Nat
  | .note => 0 | .corrected => 1 | .deferred => 2 | .fatalEngine => 3 | .fatalForme => 4 | .fatalDevice => 5

/-- A rejection of R184: codes 0x01 to 0x09 and 0x19. -/
def Status.isRejection (s : Status) : Bool :=
  (1 ≤ s.code && s.code ≤ 9) || s.code == 0x19

/-- The severity at which a status is recorded (R184, R229, R322, R350 and the UPDATE class). -/
def Status.severity : Status → Severity
  | .success | .reservedEncoding | .formatIllegal | .shapeIllegal | .placeIllegal | .operandOverlap | .accRange
  | .stageRange | .levelLocked | .nestDepth | .operatorAbsent
  | .pathReset | .upstreamAbort | .flushed | .mgmtRefused | .updateSkipped | .imageMismatch | .stepOrder
  | .channelBusy | .channelLimit => .note
  | _ => .deferred

/-- A sparse table: pairs of key and value in strictly rising order of key, every other key holding a default. -/
abbrev Tab (α : Type) := List (Nat × α)

/-- The entry of a key, if the table lists one. -/
def Tab.find? {α : Type} (k : Nat) : Tab α → Option α
  | [] => none
  | (j, v) :: t => if j = k then some v else Tab.find? k t

/-- The value of a key, `d` where the table lists none. -/
def Tab.get {α : Type} (d : α) (t : Tab α) (k : Nat) : α := (Tab.find? k t).getD d

/-- The table with a key set, in order. -/
def Tab.set {α : Type} (k : Nat) (v : α) : Tab α → Tab α
  | [] => [(k, v)]
  | (j, w) :: t => if k < j then (k, v) :: (j, w) :: t else if k = j then (k, v) :: t else (j, w) :: Tab.set k v t

/-- The table without a key. -/
def Tab.erase {α : Type} (k : Nat) (t : Tab α) : Tab α := t.filter fun p => p.1 != k

/-- A region of an address space whose contents the manual leaves undefined, or which was zeroed whole. -/
inductive Region
  | range (lo hi : Nat)          -- addresses lo to hi − 1
  | stack (m : Nat)              -- the bytes of HBM stack Hm under the interleave of R207
  deriving DecidableEq, Repr

/-- `fill = none`: the region was set to zero. `fill = some n`: its contents are undefined, and each byte is the free
value `Config.freeByte n a`. -/
structure Hole where
  region : Region
  fill   : Option Nat
  deriving DecidableEq, Repr

/-- Memory: the listed bytes, strictly rising by address and none equal to what its address reads as unlisted, over the
holes, newest first. -/
structure Mem where
  cells : List Host.Cell := []
  holes : List Hole := []
  deriving DecidableEq, Repr

/-- Where a slug of an engine's stream comes from: the host ring of a session, a list, the operator firmware's
expansion of a CALL, or the firmware itself (R157, R185, R191). -/
inductive Origin
  | ring | list | call | firmware
  deriving DecidableEq, Repr

/-- The seven queues of R158. -/
inductive QId
  | move | matrix | vector | fabric | host | spike | update
  deriving DecidableEq, Repr

def QId.all : List QId := [.move, .matrix, .vector, .fabric, .host, .spike, .update]

end Sys2Proof.Machine
end

