-- ==== Sys2Proof/Machine/RecState.lean ====
section
/-!
DEFINITION. Events and their records, episodes, the folio store, alarms and traces (chapter 17), and what the device sends to
the world outside.
-/
namespace Sys2Proof.Machine

/-- The domains of R478; `shared` is used by alarm slots only. -/
inductive Dom
  | engine (e : Nat)
  | forme (f : Nat)
  | device
  | shared
  deriving DecidableEq, Repr

/-- An event on its way to the recorder (R477, R483). -/
structure Event where
  code      : Nat
  sev       : Severity
  source    : Nat                -- SOURCE code of R483
  dom       : Dom
  ticks     : W64 := 0
  detail    : List W64 := []
  nested    : Bool := false
  escalated : Bool := false
  episode   : Nat := 0
  deriving DecidableEq, Repr

/-- An episode in progress (R479 to R481). `addrs` holds the addresses whose uncorrectable errors have counted. -/
structure Episode where
  num    : Nat
  dom    : Dom
  level  : Severity
  count  : Nat := 1
  addrs  : List Nat := []
  deriving DecidableEq, Repr

/-- What a unit error asks of the reset controllers (R477, R481). -/
inductive Handling
  | handle (level : Severity) (dom : Dom)
  | stop
  deriving DecidableEq, Repr

/-- What a capsule of the NVMe over Fabrics initiator asks of its target (R360). DESIGN CHOICE, log entry 71. -/
inductive NvmeOp
  | connect (qid depth cntlid : Nat) (hostNqn subNqn : List Byte)   -- Connect of a queue, with the controller ID it asks for
  | getCap | getCsts | setEnable         -- Property Get of CAP and CSTS, Property Set of CC.EN
  | identify (cns : Nat)
  | getLogPage
  | keepAlive
  | read (lba blocks : Nat)
  deriving DecidableEq, Repr

/-- A capsule: its identifier, its operation, and the keyed data block of its answer (R360, R362). -/
structure NvmeCmd where
  cid  : Nat
  op   : NvmeOp
  nsid : Nat := 0
  cdw  : List (BitVec 32) := []          -- CDW10 to CDW13 of an ADMIN job, unchanged (R364)
  key  : Nat := 0
  len  : Nat := 0
  deriving DecidableEq, Repr

/-- DMTF measurement value types (R465). -/
inductive MeasType
  | rom | firmware | hardwareConfig | firmwareConfig
  deriving DecidableEq, Repr

/-- A measurement block: its index, its value type, whether the value is a raw bit stream and no digest, and the value (R465). -/
structure MeasBlock where
  index : Nat
  kind  : MeasType
  raw   : Bool := false
  value : List Byte
  deriving DecidableEq, Repr

/-- An SPDM response, by its fields (R349, R465); its bytes are the outside standard's (PRESUMED, log entry 33). -/
inductive SpdmResp
  | version
  | capabilities (ctExponent : Nat)                       -- with CERT_CAP, CHAL_CAP and MEAS_CAP with signatures
  | algorithms                                            -- ECDSA P-521, SHA-512, measurement hash SHA-512
  | digests (slot0 : Option (List Byte))
  | certificate (portion : List Byte) (remainder : Nat)
  | challengeAuth (chainDigest : List Byte) (nonce signature : Nat)
  | measurements (total : Nat) (blocks : List MeasBlock) (nonce : Nat) (signature : Option Nat)
  | invalidRequest | unexpectedRequest | unsupportedRequest
  deriving DecidableEq, Repr

/-- The CXL.cache requests that the device issues (R323). -/
inductive HostOp
  | rdCurr | rdShared | rdOwn | rdOwnNoData | itoMWr | dirtyEvict | cleanEvict | cleanEvictNoData
  deriving DecidableEq, Repr

/-- What leaves the device, in the order it leaves; the list in the state is newest first. DESIGN CHOICE, log entry 71. -/
inductive Sent
  | frame (port : Nat) (f : List Byte)                    -- a frame on an Adeane link
  | mgmt (dst : Nat) (mtype seq part : Nat) (payload : BitVec 512)   -- a management message (R319)
  | msix (vector : Nat) (addr : W64) (data : BitVec 32)    -- an MSI-X message (R517)
  | hostReq (op : HostOp) (line : Nat) (data : Option (BitVec 512))   -- a CXL.cache request, with the data it carries (R323, R329)
  | snoopData (line : Nat) (data : BitVec 512)             -- data returned to a snoop (R330)
  | snoopMiss (line : Nat)
  | i3c (bytes : List Byte)                                -- bytes returned on the management bus (R472)
  | i3cIbi (byte : Byte)                                   -- an in-band interrupt (R472, R495)
  | spdm (r : SpdmResp)                                    -- an SPDM response (R349)
  | pvid (forme : Nat) (frame : BitVec 32)                 -- a PVID frame to the regulator (R521)
  | thermtrip                                              -- THERMTRIP_N asserted (R446)
  | qpOpen (ctrl qp port : Nat) (addr : BitVec 128) (service : Nat)   -- a queue pair is opened to TRADDR and TRSVCID (R361)
  | nvme (ctrl qp port prio ecn : Nat) (cmd : NvmeCmd)     -- a capsule to a storage target, by its port, priority and ECN field (R352, R361)
  | rdmaNak (ctrl qp : Nat)                                -- a remote access error (R362)
  | nvmeClose (ctrl : Nat)                                 -- the queue pairs of a controller close (R361, R363)
  | eth (port : Nat) (frame : List Byte)                   -- an Ethernet frame (R352)
  deriving DecidableEq, Repr

end Sys2Proof.Machine
end

