-- ==== Sys2Proof/Machine/DataState.lean ====
section
/-!
DEFINITION. The state of the data service: job rings and jobs (R354 to R359), the NVMe over Fabrics initiator (R360 to R363), channels,
the demultiplexer and the readers (R365 to R379).
-/
namespace Sys2Proof.Machine

/-- A job ring: its registers of R355 and its counts (R354). -/
structure JobRing where
  base       : Nat := 0
  cq         : Nat := 0
  log2       : Nat := 0
  space      : Nat := 0
  enable     : Bool := false
  halted     : Bool := false
  sqTail     : BitVec 32 := 0    -- line 0 as last read
  cqConsumed : BitVec 32 := 0
  sqHead     : BitVec 32 := 0    -- line 1 as the device holds it
  cqWritten  : BitVec 32 := 0
  session    : Nat := 0          -- session under which a HOST ring takes jobs
  due        : Bool := false     -- line 1 of a HOST ring has changed and cannot be written yet (R327)
  deriving DecidableEq, Repr

/-- How far a job has come: it has begun, its operation is performed, or it waits to complete (R357, R358). -/
inductive JobStage
  | begun | running | ended
  deriving DecidableEq, Repr

/-- Where a LOAD_SAMPLES stands with its current sample (R367). -/
inductive LoadStep
  | next | entry | space | reading
  deriving DecidableEq, Repr

/-- A job that has begun; it holds one of the 64 slots (R357). -/
structure Job where
  ring    : Nat
  order   : Nat                  -- order in which jobs began
  word    : JobWord
  session : Nat := 0
  stage   : JobStage := .begun
  status  : Status := .success
  nvme    : Nat := 0             -- NVMe status field of the failing completion
  bytes   : Nat := 0             -- READ: bytes written
  step    : Nat := 0             -- CONNECT: steps done
  load    : LoadStep := .next
  pos     : Nat := 0             -- LOAD_SAMPLES: samples dealt with
  queued  : Nat := 0
  failed  : Nat := 0
  entry   : BitVec 256 := 0      -- the sample table entry in hand
  deriving DecidableEq, Repr

/-- Where the data of a command goes. -/
inductive NDest
  | local_ (addr skip len : Nat)         -- bytes skip to skip + len − 1 of the data go to a LOCAL address
  | input (ch pos skip len : Nat)        -- to a channel's input ring at a position
  | entry (pos skip len : Nat)           -- to the sample table entry that the job reads, from byte pos
  | staging                              -- kept by the initiator
  deriving DecidableEq, Repr

/-- A command of the initiator that has not completed. -/
structure NCmd where
  num     : Nat := 0             -- order of issue
  ctrl    : Nat
  qp      : Nat
  cmd     : NvmeCmd
  slot    : Option Nat           -- the job it serves
  dest    : NDest := .staging
  sent    : Bool := false
  retried : Bool := false
  buf     : List Host.Cell := [] -- staged data by offset
  deriving DecidableEq, Repr

/-- A run of namespace bytes that a job has asked for and that waits for the namespace's block size (R362). -/
structure NWait where
  slot : Nat
  ctrl : Nat
  nsid : Nat
  off  : Nat
  len  : Nat
  dest : NDest
  deriving DecidableEq, Repr

/-- The life of a controller (R361, R363). -/
inductive CtrlPhase
  | connecting | live | reconnecting
  deriving DecidableEq, Repr

/-- A queue pair: the port it runs on, its depth and its sending rate in thousandths of the line rate (R352). -/
structure QPair where
  port  : Nat
  depth : Nat
  rate  : Nat := 1000
  deriving DecidableEq, Repr

/-- A connected controller; queue pair 0 is its admin queue pair (R360, R361). -/
structure Ctrl where
  target   : BitVec 2304         -- the target descriptor as CONNECT read it
  portMask : Nat
  numIoq   : Nat
  qdepth   : Nat
  phase    : CtrlPhase := .connecting
  qps      : List QPair := []
  mpsMin   : Nat := 0            -- CAP.MPSMIN
  mdts     : Nat := 0
  cntlid   : Nat := 0xFFFF       -- controller ID that the target has given
  turn     : Nat := 0            -- I/O commands issued, for the rotation
  blocks   : Tab Nat := []       -- by NSID: log2 of the logical-block size
  closing  : Bool := false
  deriving DecidableEq, Repr

/-- A sample on a channel's queue (R367). -/
structure Sample where
  j   : Nat
  s   : Nat
  len : Nat
  deriving DecidableEq, Repr

/-- An access unit, or a PES packet being gathered: its PTS and its bytes (R370). -/
structure AccessUnit where
  pts  : Nat
  data : List Byte
  deriving DecidableEq, Repr

/-- A decoded picture as its standard's decoding process gives it: the display area in planes of rows (R371, R376). -/
structure Picture where
  width      : Nat
  height     : Nat
  depth      : Nat := 8
  luma       : List Nat
  cb         : List Nat
  cr         : List Nat
  interlaced : Bool := false
  bottomFirst : Bool := false
  matrix     : Nat := 0          -- colour matrix the stream signals: 0 none, else as COLOUR
  range      : Nat := 0          -- range the stream signals: 0 none, 1 LIMITED, 2 FULL
  deriving DecidableEq, Repr

/-- What decoding the next access unit gives: the decoding processes of R371 are outside standards, and their results come with the
command (DESIGN CHOICE, log entry 21). -/
structure DecUnit where
  pic       : Picture
  codedW    : Nat                -- largest coded picture of the sequence
  codedH    : Nat
  supported : Bool := true       -- profile, level and chroma format are those of R371
  damaged   : Bool := false      -- a syntax error, or a reference to a missing or dropped picture
  order     : Nat := 0           -- place in display order within the sample
  release   : Nat := 0           -- pictures that become due for output after it
  deriving DecidableEq, Repr

/-- A picture that waits in the decoder for its turn in display order. -/
structure HeldPic where
  order : Nat
  pts   : Nat
  pic   : Picture
  deriving DecidableEq, Repr

/-- The demultiplexer's context of a channel within one sample (R370, R379). -/
structure Demux where
  pmtPid   : Option Nat := none
  video    : Option Nat := none          -- PID of the video stream
  codec    : Nat := 0                    -- its stream_type
  audio    : List Nat := []              -- PIDs, at most four
  sections : Tab (List Byte) := []       -- PSI section in formation by PID
  cc       : Option Nat := none          -- last continuity_counter of the video PID
  pes      : Option AccessUnit := none   -- video PES in formation
  spoiled  : Bool := false               -- the PES in formation is discarded
  audioPes : Tab (List Byte) := []       -- audio PES in formation by PID
  deriving DecidableEq, Repr

/-- An open channel: its descriptor and its progress. -/
structure Channel where
  desc     : BitVec 1024
  reader   : Nat
  inWr     : Nat := 0                    -- bytes appended to the input ring
  inRd     : Nat := 0                    -- bytes taken from it
  samples  : List Sample := []
  used     : Nat := 0                    -- bytes of the current sample that the demultiplexer has taken
  demux    : Demux := {}
  units    : List AccessUnit := []       -- complete access units that wait for the reader
  dropping : Bool := true                -- pictures are dropped up to the next random access point (R372)
  leading  : Bool := false               -- decoding began at the last IRAP: its RASL pictures are dropped
  seed     : W64 := 0                    -- the job seed as the sample's decoding began (R275)
  held     : List HeldPic := []
  outs     : Nat := 0                    -- pictures output in this sample
  frames   : Nat := 0                    -- frames written in this sample
  decoded  : Nat := 0
  dropped  : Nat := 0
  skip     : Bool := false               -- the rest of the sample is skipped
  err      : Nat := 0
  records  : Nat := 0                    -- the channel's record count w (R374)
  waiting  : List (List Byte × List Byte) := []   -- records (header, payload) that wait for a slot
  audioWr  : Nat := 0                    -- bytes written to the audio ring
  closing  : Option (Nat × Bool) := none -- slot of the CHANNEL_CLOSE and its DRAIN
  deriving DecidableEq, Repr

/-- The data service. -/
structure DataSvc where
  rings     : List JobRing := List.replicate 4 {}
  lastRing  : Nat := 3           -- ring served last (R357)
  jobs      : Tab Job := []      -- by slot 0 to 63
  nextOrder : Nat := 0
  ctrls     : Tab Ctrl := []     -- by CTRL 0 to 15
  cmds      : List NCmd := []    -- oldest first
  waits     : List NWait := []
  nextCmd   : Nat := 0
  nextCid   : Nat := 0           -- identifiers and keys are given as commands are sent
  nextKey   : Nat := 1
  chans     : Tab Channel := []  -- by channel 0 to 511
  lastChan  : List Nat := List.replicate 8 511   -- channel each reader served last (R373)
  held      : List (Option Nat × List Host.Cell) := []   -- writes that wait for a bed domain, with the job they serve (R380)
  ethUp     : List Bool := List.replicate 4 false
  paused    : List Bool := List.replicate 4 false   -- the port's priority is paused by the far end (R351)
  stopped   : Bool := false      -- no new work begins (R445)
  ethDiscard : BitVec 48 := 0
  rdmaRefused : BitVec 48 := 0
  tsDiscard : BitVec 48 := 0
  audioDropped : BitVec 48 := 0
  lumaSamples : BitVec 48 := 0
  deriving DecidableEq, Repr

end Sys2Proof.Machine
end

