-- ==== Sys2Proof/Syntax.lean ====
section
/-!
DEFINITION. The commands of the block: one constructor of `Instr` for each row of the opcode table, and the types of their operands.
-/
namespace Sys2Proof

/-- Where the slug of a row comes from: the head of the unit's queue, or a slug that the operator firmware issues now. -/
inductive SlugSrc
  | queued
  | issued (w : SlugWord)
  deriving DecidableEq, Repr

def SlugSrc.word : SlugSrc → Option SlugWord
  | .queued => none
  | .issued w => some w

/-- The frame that a target row performs: the oldest delivered frame of the row's opcode, or a frame that arrives now. -/
inductive FrameSrc
  | delivered
  | arrives (thdr : BitVec 256) (payload : List Byte)
  deriving DecidableEq, Repr

/-- A management message of the row's type: the head of the overseer's queue is acted on, or a message arrives and is queued. -/
inductive MsgSrc
  | queued
  | arrives (src : DeviceId) (port : PortNo) (linkLocal : Bool) (seq : BitVec 16) (payload : BitVec 512)
  deriving DecidableEq, Repr

/-- The two ends of the access paths to registers, and the core's own path (R504, R513). -/
inductive Path
  | host | mgmt | core
  deriving DecidableEq, Repr

/-- A phase of link recovery (R345): the link leaves L0, or returns to it at a rate in GT/s and a width. -/
inductive LinkPhase
  | leaves
  | returns (rate : BitVec 8) (width : BitVec 5)
  deriving DecidableEq, Repr

/-- The resets that R346 calls host resets. -/
inductive HostResetKind
  | conventional | hot | linkDisable | flr | cxl
  deriving DecidableEq, Repr

/-- What a pattern test measures on a bundle (R389). -/
structure BundleTest where
  bundle   : BitVec 8
  centre   : BitVec 66 := 0             -- lanes with a bit error at the centre position
  windows  : List (BitVec 7) := []      -- error-free window of each lane from 0, in hundredths of the unit interval; 100 past the list
  deriving DecidableEq, Repr

/-- What the overseer samples for one loop (R439, R442, R455): the 112 junction and platen readings, forme × 28 + index, the measured
power in W, the folio store's sensor, the ticker rates of the engines in kHz, a rail sensor found faulty, and a late beginning. -/
structure LoopIn where
  temps     : List (BitVec 12)
  rails     : List (List (BitVec 16 × BitVec 24)) := []   -- samples of the window by rail, in the order of R520: mV and mA
  folioTemp : BitVec 12
  tickKhz   : List (BitVec 32)
  loadMoved : BitVec 13 := 0         -- rails whose load has changed within the window
  late      : Bool := false
  revokeKey : Option (BitVec 2) := none   -- a key that the running OVS_FW tells the device to revoke (R463)
  flashFails : Bool := false         -- the flash does not carry out this loop's erase, program or read-back (R469)
  deriving DecidableEq, Repr

/-- A domain of R478. -/
inductive ErrDom
  | engine (e : EngineNo)
  | forme (f : FormeNo)
  | device
  deriving DecidableEq, Repr

/-- The parts of the overseer's SRAM (R454): the imposition store, the event recorder ring, and the working SRAM. -/
inductive OvsMem
  | imposition | ring | working
  deriving DecidableEq, Repr

/-- 64-bit words of a part: 32, 1 and 4 MiB. -/
def OvsMem.words : OvsMem → Nat
  | .imposition => 0x400000
  | .ring => 0x20000
  | .working => 0x80000

/-- What a unit finds, or what an upset leaves in a protected word (R118, R193, R200, R208, R328, R481, R535). -/
inductive UnitErr
  | reported (code : BitVec 12) (source : Byte) (dom : ErrDom) (addr : Option (BitVec 48))   -- a unit error of R502 arrives
  | corrected (a : BitVec 48)                        -- a corrected error in HBM, a platen slice or an operand buffer
  | correctedWord (e : EngineNo)                     -- one in a word of the galley, the vector registers or the staging of an engine
  | uncorrectable (a : BitVec 48)                    -- the protected unit now holds an uncorrectable error
  | cacheLine (e : EngineNo) (space : BitVec 2) (a : BitVec 64)   -- a double-bit error in a platen cache line
  | spikeRecord (e : EngineNo) (frame : BitVec 4) (i : BitVec 16)   -- one in a resident spike record, counted from the top
  | galley (e : EngineNo) (i : BitVec 4) (word : BitVec 9)   -- one in a word of a galley entry, counted from the head
  | register (e : EngineNo) (word : BitVec 11)       -- one in a vector register word
  | hostLine (line : BitVec 46)                      -- one in a line of the host line cache
  | ovsWord (mem : OvsMem) (word : BitVec 22) (double : Bool)   -- one or two bits of a 64-bit word of the overseer's SRAM
  deriving DecidableEq, Repr

/-- Where the job of a row comes from: the oldest begun job of a ring, or a job that begins now. -/
inductive JobSrc
  | queued
  | issued (w : JobWord)
  deriving DecidableEq, Repr

def JobSrc.word : JobSrc → Option JobWord
  | .queued => none
  | .issued w => some w

/-- What a READY names: a bed domain by its code (R417), or a forme whose reset ends (R420). -/
inductive ReadyOf
  | bed (d : BitVec 5)
  | forme (f : FormeNo)
  deriving DecidableEq, Repr

/-- The blocks of counters (R499). -/
inductive CntScope
  | engine (e : EngineNo)
  | forme (f : FormeNo)
  | device
  deriving DecidableEq, Repr

/-- The commands: one constructor for each row of the opcode table, which its docstring names. Rows with operands come first, in the table's order, then rows
without. -/
inductive Instr
  /-- COLD_START: the start after a cold reset, with what the flash answers (R466, R467). -/
  | coldStart (flashGood : Bool)
  /-- THERMAL_TRIP: the hardware trip of a sensor (R446). -/
  | thermalTrip (sensor : BitVec 7) (reading : BitVec 12)
  /-- CLK_LOCK_LOST: the PLL of a domain of R407 loses lock (R408). -/
  | clkLockLost (domain : BitVec 5) (forme : FormeNo)
  /-- PRESS_LOW: VDD_PRESS of a forme is too low, and its engines park (R405). -/
  | pressLow (f : FormeNo)
  /-- PRESS_RECOVER: the parked engines go on where they stopped (R405). -/
  | pressRecover (f : FormeNo)
  /-- HOST_RESET: a reset of R346 ends the session as a host loss. -/
  | hostReset (kind : HostResetKind)
  /-- CXL_LINK_RECOVERY: the link leaves L0, or returns through recovery (R345). -/
  | cxlLinkRecovery (phase : LinkPhase)
  /-- SNP_DATA: the line is left SHARED (R330). -/
  | snpData (line : BitVec 46)
  /-- SNP_INV: the line and its TRACKED copies are invalidated; the host's store follows, and a control block's line is its doorbell (R330, R335, R354). -/
  | snpInv (line : BitVec 46) (write : Option (BitVec 64 × BitVec 512))
  /-- SNP_CUR: the line's data, its state unchanged (R330). -/
  | snpCur (line : BitVec 46)
  /-- CXL_CACHE_RESPONSE: a line's requests are answered (R329). -/
  | cxlCacheResponse (line : BitVec 46) (data : BitVec 512) (exclusive : Bool) (poison : Bool)
  /-- OVERSEER_LOOP: the tasks of one 1 ms loop (R455). -/
  | overseerLoop (reads : LoopIn)
  /-- FAST_POWER_LOOP: the formes' estimates and the cap level (R435). -/
  | fastPowerLoop (counts : List (List (BitVec 32)))
  /-- LEASE_EXPIRED: a sender's lease has ended (R427). -/
  | leaseExpired (sender : DeviceId)
  /-- SLACK_REPORT: a report that is due to a sender (R431). -/
  | slackReport (sender : DeviceId)
  /-- OVS_RESTART: the watchdog restarts the overseer (R456). -/
  | ovsRestart (intact : Bool)
  /-- PVID_RESEND: a frame that was not echoed is sent again (R521). -/
  | pvidResend (f : FormeNo)
  /-- UNIT_ERROR: a unit error opens an episode or nests, or an upset leaves a bad word (R481, R535). -/
  | unitError (x : UnitErr)
  /-- ENGINE_RESET: the reset of one engine that was asked for (R416). -/
  | engineReset (e : EngineNo)
  /-- FORME_RESET: the reset of a forme goes on (R420). -/
  | formeReset (f : FormeNo)
  /-- QUIESCE_WATCHDOG: a forme that has not parked in time is forced (R421). -/
  | quiesceWatchdog (f : FormeNo)
  /-- BED_RESET: steps 2 and 3 of a bed-domain reset (R417). -/
  | bedReset (domain : BitVec 5)
  /-- BED_DOMAIN_READY: a domain raises READY, or a forme reset ends; what waited for it goes on (R418). -/
  | bedDomainReady (domain : ReadyOf)
  /-- RST_ENGINE: RST_REQ with KIND ENGINE (R423). -/
  | rstEngine (path : Path) (target : BitVec 6) (clear : Bool) (force : Bool)
  /-- RST_FORME: RST_REQ with KIND FORME (R423). -/
  | rstForme (path : Path) (target : BitVec 6) (clear : Bool) (force : Bool)
  /-- RST_BED_DOMAIN: RST_REQ with KIND BED_DOMAIN (R423). -/
  | rstBedDomain (path : Path) (target : BitVec 6) (clear : Bool) (force : Bool)
  /-- RST_DEVICE: RST_REQ with KIND DEVICE (R423). -/
  | rstDevice (path : Path) (target : BitVec 6) (clear : Bool) (force : Bool)
  /-- APPLY_PLATEN_SPLIT: PLT_SPLIT with APPLY; the procedure follows in the overseer's loops (R194, R195). -/
  | applyPlatenSplit (path : Path) (e : EngineNo) (scratch : BitVec 6) (spike : BitVec 6)
  /-- RESET_STATS: PRF_CTL with RESET_STATS (R240). -/
  | resetStats (path : Path) (action : Bool) (nfAsSpike : Bool)
  /-- RELEASE_APPLY: PRF_RELEASE with APPLY (R238). -/
  | releaseApply (path : Path)
  /-- RELEASE_SKIP: PRF_RELEASE with SKIP (R238). -/
  | releaseSkip (path : Path)
  /-- RNG_SEED_WRITE: the job seed (R275). -/
  | rngSeedWrite (path : Path) (v : W64)
  /-- REARM: PWR_CTL with REARM (R441, R451). -/
  | rearm (path : Path) (ceil0 : BitVec 5) (ceil1 : BitVec 5) (ceil2 : BitVec 5) (ceil3 : BitVec 5)
  /-- DOORBELL: DS_JRINGn_CTL with DOORBELL (R354, R355). -/
  | doorbell (path : Path) (n : BitVec 2) (log2 : BitVec 4) (space : BitVec 2) (enable : Bool)
  /-- JOB_RING_DISABLE: DS_JRINGn_CTL with ENABLE clear (R355). -/
  | jobRingDisable (path : Path) (n : BitVec 2) (log2 : BitVec 4) (space : BitVec 2)
  /-- JOB_RING_POLL: SQ_TAIL of a LOCAL ring is read again (R354). -/
  | jobRingPoll (n : BitVec 2)
  /-- DISABLE: FAB_PORT_CTL with DISABLE (R296, R299). -/
  | disable (path : Path) (p : PortNo)
  /-- RETRAIN_FULL: FAB_PORT_CTL with RETRAIN_FULL (R282, R299). -/
  | retrainFull (path : Path) (p : PortNo) (disabled : Bool)
  /-- FAB_RT_DATA_WRITE: the selected routing entry (R291, R513). -/
  | fabRtDataWrite (path : Path) (w : BitVec 32)
  /-- FAB_ROLE_SEL_WRITE: the path's snapshot is loaded (R513). -/
  | fabRoleSelWrite (path : Path) (role : BitVec 16)
  /-- COMMIT_ROLE: FAB_TBL with COMMIT_ROLE (R303, R513). -/
  | commitRole (path : Path)
  /-- RELOAD_ROLE: FAB_TBL with RELOAD_ROLE (R513). -/
  | reloadRole (path : Path)
  /-- LATCH: CNT_CTL with LATCH (R499, R500). -/
  | latch (path : Path) (scope : CntScope) (all : Bool)
  /-- ZERO: CNT_CTL with ZERO (R500). -/
  | zeroCounters (path : Path) (scope : CntScope)
  /-- CNT_SEL_WRITE: SOURCE and ARG of a CNT_SEL, whose counter is zeroed (R500). -/
  | cntSelWrite (path : Path) (scope : CntScope) (idx : BitVec 4) (source : BitVec 13) (arg : BitVec 16)
  /-- IMP_UPDATE_START: IMP_UPDATE_CTL with START; the copy follows in the overseer's loops (R469, R470). -/
  | impUpdateStart (path : Path) (broadsheet : Bool) (cert : Bool) (length : BitVec 32)
  /-- IMP_UPDATE_ABORT: IMP_UPDATE_CTL with ABORT (R469). -/
  | impUpdateAbort (path : Path)
  /-- CLEAR_START: CLR_CTL with START; the check and the clear follow in the overseer's loops (R493). -/
  | clearStart (path : Path) (broadsheet : Bool)
  /-- MSIX_UNMASK: the vector's mask bit is cleared, and a pending message goes out (R517). -/
  | msixUnmask (v : BitVec 4)
  /-- REGISTER_WRITE: a write of `size` bytes at an offset (R503 to R507). -/
  | registerWrite (path : Path) (offset : BitVec 16) (size : BitVec 4) (v : W64)
  /-- FLASH_TEMP: a fresh report of the flash temperature (R472). -/
  | flashTemp (t : BitVec 16)
  /-- I3C_PRIVATE_WRITE: the index, and bytes from there (R472). -/
  | i3cPrivateWrite (bytes : List Byte)
  /-- I3C_PRIVATE_READ: bytes from the index (R472). -/
  | i3cPrivateRead (n : BitVec 9)
  /-- ENTDAA: a dynamic address (R472). -/
  | entdaa (a : BitVec 7)
  /-- GET_CERTIFICATE: a portion of the chain of slot 0 (R349). -/
  | getCertificate (slot : BitVec 4) (offset : BitVec 16) (length : BitVec 16)
  /-- CHALLENGE: a response signed with the identity key (R349, R464). -/
  | challenge (slot : BitVec 4)
  /-- GET_MEASUREMENTS (R349, R465). -/
  | getMeasurements (index : Byte) (signed : Bool)
  /-- DATA_FRAME: accepted in LSEQ order with a valid CRC, then delivered or forwarded (R287). -/
  | dataFrame (p : PortNo) (link : BitVec 64) (thdr : BitVec 256) (payload : List Byte) (trailer : BitVec 64)
  /-- CONTROL_FRAME: acknowledgements and credits come back (R283). -/
  | controlFrame (p : PortNo) (link : BitVec 64) (trailer : BitVec 64)
  /-- NAK: the transmitter replays (R287). -/
  | nak (p : PortNo) (link : BitVec 64) (trailer : BitVec 64)
  /-- HEARTBEAT: the peer is recorded and the port kept up (R295, R296). -/
  | heartbeat (p : PortNo) (link : BitVec 64) (payload : BitVec 256) (trailer : BitVec 64)
  /-- TRAIN: both ends agree on the width (R282). -/
  | train (p : PortNo) (link : BitVec 64) (payload : BitVec 256) (trailer : BitVec 64)
  /-- LANE_DROPOUT: a lane drops out, and the link retrains narrower (R282). -/
  | laneDropout (p : PortNo) (lane : BitVec 2)
  /-- PORT_DOWN: the port's paths are masked and its frames discarded (R296, R297). -/
  | portDown (p : PortNo)
  /-- PORT_RETRAIN: a down port begins to train (R296). -/
  | portRetrain (p : PortNo)
  /-- FAB_READ: a READ frame is served (R304). -/
  | fabRead (src : FrameSrc)
  /-- FAB_WRITE: a WRITE frame is performed (R304). -/
  | fabWrite (src : FrameSrc)
  /-- FAB_ATOMIC: an ATOMIC frame is performed indivisibly (R307). -/
  | fabAtomic (src : FrameSrc)
  /-- COLL_DATA: a leader takes a contribution, or a member gathered elements (R309, R312). -/
  | collData (src : FrameSrc)
  /-- COLL_GSUM: an owner adds group sums in order (R309). -/
  | collGsum (src : FrameSrc)
  /-- A2A_ROWS: a row and its tag are stored in the addressed slot (R314). -/
  | a2aRows (src : FrameSrc)
  /-- A2A_MARK: an end marker writes its header entry (R315). -/
  | a2aMark (src : FrameSrc)
  /-- WATCH: a watch is registered or withdrawn (R203). -/
  | watch (src : FrameSrc)
  /-- INVAL: a TRACKED line becomes TRACKED_INVALID (R203). -/
  | inval (src : FrameSrc)
  /-- RESPONSE: the source's request is answered (R302, R306). -/
  | response (src : FrameSrc)
  /-- ROLE_RETRY: the backoff delay of a request has passed (R302). -/
  | roleRetry (txn : BitVec 16)
  /-- REQUEST_TIMEOUT: a request without a RESPONSE completes with LINK_LOST (R298). -/
  | requestTimeout (txn : BitVec 16)
  /-- COLL_TIMEOUT: a collective that waits too long completes with COLL_TIMEOUT (R311). -/
  | collTimeout (e : EngineNo)
  /-- REG_READ (R538). -/
  | regRead (src : MsgSrc)
  /-- REG_WRITE (R538). -/
  | regWriteMsg (src : MsgSrc)
  /-- POWER_LIMIT (R428, R429). -/
  | powerLimit (src : MsgSrc)
  /-- ID_ASSIGN (R320). -/
  | idAssign (src : MsgSrc)
  /-- ROLE_SET (R303). -/
  | roleSet (src : MsgSrc)
  /-- RT_SET (R538). -/
  | rtSet (src : MsgSrc)
  /-- DISCOVER (R538). -/
  | discover (src : MsgSrc)
  /-- MOVE_COPY (R172). -/
  | moveCopy (e : EngineNo) (src : SlugSrc)
  /-- COPY_T (R94). -/
  | copyT (e : EngineNo) (src : SlugSrc)
  /-- PREFETCH (R203). -/
  | prefetch (e : EngineNo) (src : SlugSrc)
  /-- SET (R172). -/
  | set (e : EngineNo) (src : SlugSrc)
  /-- MATMUL (R103). -/
  | matmul (e : EngineNo) (src : SlugSrc)
  /-- MATMUL_BWD_PAIR (R105, R107). -/
  | matmulBwdPair (e : EngineNo) (src : SlugSrc)
  /-- GALLEY_ENTRY_FREED: an array that waits for the galley goes on (R111). -/
  | galleyEntryFreed (e : EngineNo)
  /-- GALLEY_STUCK: 2^24 ticks without a freed entry (R114). -/
  | galleyStuck (e : EngineNo)
  /-- GALLEY_CONSUME: the consumer at the head of the VECTOR queue takes one entry (R139). -/
  | galleyConsume (e : EngineNo)
  /-- OPERAND_BLOCK_READY: the slug that waited for a block or slot goes on (R95). -/
  | operandBlockReady (e : EngineNo) (q : Machine.QId)
  /-- VECTOR_COPY: Vector VECTOR_COPY (R533). The row takes VECTOR slugs of no listed operation too, which it rejects. -/
  | vectorCopy (e : EngineNo) (src : SlugSrc)
  /-- ADD: Vector ADD (R130). -/
  | add (e : EngineNo) (src : SlugSrc)
  /-- SUB: Vector SUB (R130). -/
  | sub (e : EngineNo) (src : SlugSrc)
  /-- MUL: Vector MUL (R130). -/
  | mul (e : EngineNo) (src : SlugSrc)
  /-- FMA: Vector FMA (R130). -/
  | fma (e : EngineNo) (src : SlugSrc)
  /-- DIV: Vector DIV (R130). -/
  | div (e : EngineNo) (src : SlugSrc)
  /-- RECIP: Vector RECIP (R130). -/
  | recip (e : EngineNo) (src : SlugSrc)
  /-- SQRT: Vector SQRT (R130). -/
  | sqrt (e : EngineNo) (src : SlugSrc)
  /-- RSQRT: Vector RSQRT (R130). -/
  | rsqrt (e : EngineNo) (src : SlugSrc)
  /-- EXP: Vector EXP (R130). -/
  | exp (e : EngineNo) (src : SlugSrc)
  /-- LOG: Vector LOG (R130). -/
  | log (e : EngineNo) (src : SlugSrc)
  /-- TANH: Vector TANH (R130). -/
  | tanh (e : EngineNo) (src : SlugSrc)
  /-- SIGMOID: Vector SIGMOID (R130). -/
  | sigmoid (e : EngineNo) (src : SlugSrc)
  /-- GELU: Vector GELU (R130). -/
  | gelu (e : EngineNo) (src : SlugSrc)
  /-- SILU: Vector SILU (R130). -/
  | silu (e : EngineNo) (src : SlugSrc)
  /-- MAX: Vector MAX (R131). -/
  | max (e : EngineNo) (src : SlugSrc)
  /-- MIN: Vector MIN (R131). -/
  | min (e : EngineNo) (src : SlugSrc)
  /-- ABS: Vector ABS (R539). -/
  | abs (e : EngineNo) (src : SlugSrc)
  /-- NEG: Vector NEG (R539). -/
  | neg (e : EngineNo) (src : SlugSrc)
  /-- CLAMP: Vector CLAMP (R539). -/
  | clamp (e : EngineNo) (src : SlugSrc)
  /-- CMP_EQ: Vector CMP_EQ (R131). -/
  | cmpEq (e : EngineNo) (src : SlugSrc)
  /-- CMP_LT: Vector CMP_LT (R131). -/
  | cmpLt (e : EngineNo) (src : SlugSrc)
  /-- CMP_LE: Vector CMP_LE (R131). -/
  | cmpLe (e : EngineNo) (src : SlugSrc)
  /-- SELECT: Vector SELECT (R131). -/
  | select (e : EngineNo) (src : SlugSrc)
  /-- DROPOUT: Vector DROPOUT (R138). -/
  | dropout (e : EngineNo) (src : SlugSrc)
  /-- IADD: Vector IADD (R132). -/
  | iadd (e : EngineNo) (src : SlugSrc)
  /-- ISUB: Vector ISUB (R132). -/
  | isub (e : EngineNo) (src : SlugSrc)
  /-- IMUL: Vector IMUL (R132). -/
  | imul (e : EngineNo) (src : SlugSrc)
  /-- SHL: Vector SHL (R132). -/
  | shl (e : EngineNo) (src : SlugSrc)
  /-- SHR: Vector SHR (R132). -/
  | shr (e : EngineNo) (src : SlugSrc)
  /-- CVT_F2I: Vector CVT_F2I (R132). -/
  | cvtF2i (e : EngineNo) (src : SlugSrc)
  /-- CVT_I2F: Vector CVT_I2F (R132). -/
  | cvtI2f (e : EngineNo) (src : SlugSrc)
  /-- RED_SUM: Vector RED_SUM (R133). -/
  | redSum (e : EngineNo) (src : SlugSrc)
  /-- RED_SUMSQ: Vector RED_SUMSQ (R133). -/
  | redSumsq (e : EngineNo) (src : SlugSrc)
  /-- RED_DOT: Vector RED_DOT (R133). -/
  | redDot (e : EngineNo) (src : SlugSrc)
  /-- RED_MAX: Vector RED_MAX (R133). -/
  | redMax (e : EngineNo) (src : SlugSrc)
  /-- RED_MIN: Vector RED_MIN (R133). -/
  | redMin (e : EngineNo) (src : SlugSrc)
  /-- RED_ARGMAX: Vector RED_ARGMAX (R134). -/
  | redArgmax (e : EngineNo) (src : SlugSrc)
  /-- RED_ARGMIN: Vector RED_ARGMIN (R134). -/
  | redArgmin (e : EngineNo) (src : SlugSrc)
  /-- LAYERNORM_FWD (R145). -/
  | layernormFwd (e : EngineNo) (src : SlugSrc)
  /-- LAYERNORM_BWD (R145). -/
  | layernormBwd (e : EngineNo) (src : SlugSrc)
  /-- RMSNORM_FWD (R145). -/
  | rmsnormFwd (e : EngineNo) (src : SlugSrc)
  /-- RMSNORM_BWD (R145). -/
  | rmsnormBwd (e : EngineNo) (src : SlugSrc)
  /-- SOFTMAX_FWD (R147). -/
  | softmaxFwd (e : EngineNo) (src : SlugSrc)
  /-- SOFTMAX_BWD (R147). -/
  | softmaxBwd (e : EngineNo) (src : SlugSrc)
  /-- SOFTMAX_FWD_MM (R150). -/
  | softmaxFwdMm (e : EngineNo) (src : SlugSrc)
  /-- SOFTMAX_BWD_MM (R150). -/
  | softmaxBwdMm (e : EngineNo) (src : SlugSrc)
  /-- XENT (R149). The row takes slugs of a reserved kernel too, which it rejects. -/
  | xent (e : EngineNo) (src : SlugSrc)
  /-- QUOIN: later slugs are held (R174). -/
  | quoin (e : EngineNo) (src : SlugSrc)
  /-- QUOIN_COMPLETE: earlier slugs have completed, and the flag is written (R174, R175). -/
  | quoinComplete (e : EngineNo)
  /-- WAIT: later slugs are held until the flag word meets its condition (R176). -/
  | wait (e : EngineNo) (src : SlugSrc)
  /-- WAIT_SATISFIED: the flag word meets the condition (R176). -/
  | waitSatisfied (e : EngineNo)
  /-- WAIT_TIMEOUT: the TIMEOUT expires first (R176). -/
  | waitTimeout (e : EngineNo)
  /-- NOP (R177). The row takes CONTROL slugs of a reserved operation too, which it rejects. -/
  | nop (e : EngineNo) (src : SlugSrc)
  /-- TD_LOAD: TDs are copied into the engine's table (R178); one that waits for its source goes on. -/
  | tdLoad (e : EngineNo) (src : SlugSrc)
  /-- LIST: slugs read from memory are admitted in order (R179); one that waits for its source goes on. -/
  | list (e : EngineNo) (src : SlugSrc)
  /-- CRING_SET: the completion ring is placed (R181). -/
  | cringSet (e : EngineNo) (src : SlugSrc)
  /-- LINEAR_FWD: The LINEAR_FWD operator (R190). The row takes CALLs of no known operator too, which it ends with OPERATOR_ABSENT. -/
  | linearFwd (e : EngineNo) (src : SlugSrc)
  /-- LINEAR_BWD: The LINEAR_BWD operator (R190). -/
  | linearBwd (e : EngineNo) (src : SlugSrc)
  /-- ATTENTION_FWD: The ATTENTION_FWD operator (R190). -/
  | attentionFwd (e : EngineNo) (src : SlugSrc)
  /-- ATTENTION_BWD: The ATTENTION_BWD operator (R190). -/
  | attentionBwd (e : EngineNo) (src : SlugSrc)
  /-- NORM_FWD: The NORM_FWD operator (R190). -/
  | normFwd (e : EngineNo) (src : SlugSrc)
  /-- NORM_BWD: The NORM_BWD operator (R190). -/
  | normBwd (e : EngineNo) (src : SlugSrc)
  /-- XENT_CALL: The XENT_CALL operator (R190). -/
  | xentCall (e : EngineNo) (src : SlugSrc)
  /-- CALL_PART: a member runs its part of a CALL (R188). -/
  | callPart (e : EngineNo)
  /-- SLUG_COMPLETE: the oldest ended slug completes (R180, R184, R185). -/
  | slugComplete (e : EngineNo)
  /-- CRING_SPACE: entries of a full completion ring have been returned (R181). -/
  | cringSpace (e : EngineNo)
  /-- PUT (R306). The row takes FABRIC slugs of a reserved operation too, which it rejects. -/
  | put (e : EngineNo) (src : SlugSrc)
  /-- GET (R306). -/
  | get (e : EngineNo) (src : SlugSrc)
  /-- ATOMIC (R307). -/
  | atomic (e : EngineNo) (src : SlugSrc)
  /-- DISPATCH (R313, R314). -/
  | dispatch (e : EngineNo) (src : SlugSrc)
  /-- COMBINE (R316). -/
  | combine (e : EngineNo) (src : SlugSrc)
  /-- REDUCE_SCATTER (R309). -/
  | reduceScatter (e : EngineNo) (src : SlugSrc)
  /-- ALL_GATHER (R312). -/
  | allGather (e : EngineNo) (src : SlugSrc)
  /-- ALL_REDUCE (R312). -/
  | allReduce (e : EngineNo) (src : SlugSrc)
  /-- MGMT_SEND (R306). -/
  | mgmtSend (e : EngineNo) (src : SlugSrc)
  /-- WRITEBACK (R334). The row takes HOST slugs of a reserved operation too, which it rejects. -/
  | writeback (e : EngineNo) (src : SlugSrc)
  /-- WRITEBACK_ALL (R334). -/
  | writebackAll (e : EngineNo) (src : SlugSrc)
  /-- HOST_DROP: DROP (R334). -/
  | hostDrop (e : EngineNo) (src : SlugSrc)
  /-- PUSH (R218). The row takes SPIKE slugs of a reserved operation too, which it rejects. -/
  | push (e : EngineNo) (src : SlugSrc)
  /-- POP (R219). -/
  | pop (e : EngineNo) (src : SlugSrc)
  /-- SPIKE_DROP: DROP (R219). -/
  | spikeDrop (e : EngineNo) (src : SlugSrc)
  /-- SPILL_SET (R228). -/
  | spillSet (e : EngineNo) (src : SlugSrc)
  /-- LAYER_SET (R227). -/
  | layerSet (e : EngineNo) (src : SlugSrc)
  /-- LOSS_TEST (R236). -/
  | lossTest (e : EngineNo) (src : SlugSrc)
  /-- LOSS_CLEAR (R235). -/
  | lossClear (e : EngineNo) (src : SlugSrc)
  /-- CLEAR (R227). -/
  | clear (e : EngineNo) (src : SlugSrc)
  /-- SPILL_DONE: a record's spill write is acknowledged (R222). -/
  | spillDone (e : EngineNo)
  /-- FILL_BACK: the topmost spilled record comes back (R222). -/
  | fillBack (e : EngineNo)
  /-- APPLY (R255). The row takes UPDATE slugs of a reserved operation too, which it rejects. -/
  | applyStep (e : EngineNo) (src : SlugSrc)
  /-- APPLY_DELTA (R261). -/
  | applyDelta (e : EngineNo) (src : SlugSrc)
  /-- FP_EXCHANGE (R267). -/
  | fpExchange (e : EngineNo) (src : SlugSrc)
  /-- FP_RECORD_ARRIVED: the peer's sealed record is compared (R267). -/
  | fpRecordArrived (e : EngineNo)
  /-- FP_TIMEOUT: no sealed record in time (R267). -/
  | fpTimeout (e : EngineNo)
  /-- REPAIR (R270). -/
  | repair (e : EngineNo) (src : SlugSrc)
  /-- EXPORT (R271). -/
  | exportImage (e : EngineNo) (src : SlugSrc)
  /-- IMPORT (R272). -/
  | importImage (e : EngineNo) (src : SlugSrc)
  /-- UPDATE_BEGIN: a forme's corrector begins what may begin (R250, R251). -/
  | updateBegin (f : FormeNo)
  /-- CHUNK_STATE_ARRIVED: a slow-tier chunk is computed and put back (R263). -/
  | chunkStateArrived (e : EngineNo)
  /-- CHUNK_PUT_ACK: a chunk's puts are acknowledged (R263). -/
  | chunkPutAck (e : EngineNo)
  /-- JOB_NOP (R356). The row takes jobs of a reserved operation too, which it rejects. -/
  | jobNop (ring : BitVec 2) (src : JobSrc)
  /-- CONNECT (R361). -/
  | connect (ring : BitVec 2) (src : JobSrc)
  /-- DISCONNECT (R361). -/
  | disconnect (ring : BitVec 2) (src : JobSrc)
  /-- READ (R362). -/
  | read (ring : BitVec 2) (src : JobSrc)
  /-- ADMIN_IDENTIFY: ADMIN of IDENTIFY (R364). The row takes reserved subcommands too, which it rejects. -/
  | adminIdentify (ring : BitVec 2) (src : JobSrc)
  /-- ADMIN_GET_LOG_PAGE: ADMIN of GET_LOG_PAGE (R364). -/
  | adminGetLogPage (ring : BitVec 2) (src : JobSrc)
  /-- LOAD_SAMPLES (R367). -/
  | loadSamples (ring : BitVec 2) (src : JobSrc)
  /-- CHANNEL_OPEN (R369). -/
  | channelOpen (ring : BitVec 2) (src : JobSrc)
  /-- CHANNEL_CLOSE (R369). -/
  | channelClose (ring : BitVec 2) (src : JobSrc)
  /-- JOB_COMPLETE: the job's record, then its flag (R358). -/
  | jobComplete (slot : BitVec 6)
  /-- SAMPLE_QUEUED: a sample whose bytes have landed joins its channel's queue (R367). -/
  | sampleQueued (slot : BitVec 6)
  /-- NVME_COMPLETION: a target answers a command (R363). -/
  | nvmeCompletion (ctrl : BitVec 4) (cid : BitVec 16) (status : BitVec 15) (result : BitVec 64)
  /-- CONNECTION_LOST: the association is torn down (R363). -/
  | connectionLost (ctrl : BitVec 4)
  /-- RECONNECT_ATTEMPT: an attempt and its outcome (R363). -/
  | reconnectAttempt (ctrl : BitVec 4) (ok : Bool)
  /-- TARGET_LOST: the reconnect deadline has passed (R363). -/
  | targetLost (ctrl : BitVec 4)
  /-- RDMA_WRITE: data under a live key lands, or is refused (R362). -/
  | rdmaWrite (ctrl : BitVec 4) (qp : BitVec 7) (key : BitVec 32) (offset : BitVec 32) (data : List Byte)
  /-- ETH_FRAME: an Ethernet frame is taken or discarded (R352). -/
  | ethFrame (p : PortNo) (bytes : List Byte)
  /-- DEMUX_PACKET: the next transport stream packet of a channel (R370). -/
  | demuxPacket (ch : BitVec 9)
  /-- READER_TURN: a reader serves its next eligible channel (R373). -/
  | readerTurn (reader : BitVec 3) (units : List Machine.DecUnit)
  /-- BOND_TEST: a pattern test's result (R389, R390). -/
  | bondTest (e : EngineNo) (t : BundleTest)
  /-- CRC_BURST: the immediate test after a burst of CRC failures (R389). -/
  | crcBurst (e : EngineNo) (t : BundleTest)
  /-- FLIT_CRC_FAIL: a flit is discarded and replayed (R385). -/
  | flitCrcFail (e : EngineNo) (bundle : Byte)
  /-- BOND_CTRL_ERROR: a parity error on a control bundle, and the tests that follow (R393). -/
  | bondCtrlError (e : EngineNo) (bundle : Byte) (tests : List BundleTest)
  /-- HBM_REQUEST_DONE: a request of an engine 0–63, or of the corrector of forme `who` − 64, completes at a bank, and a held one takes its
  place (R210, R253). -/
  | hbmRequestDone (who : BitVec 7) (stack : BitVec 4) (channel : BitVec 6) (bank : BitVec 6)
  /-- BUS_MASTER_ENABLE: requests and messages are held back, or released (R327). -/
  | busMasterEnable (on : Bool)
  /-- CXL_LINK_TRAINED: rate, width and protocol (R326). -/
  | cxlLinkTrained (rate : BitVec 8) (width : BitVec 5) (cxl : Bool)
  /-- STANDBY_POWER_OFF: everything stops, and a write in progress is torn (R528). -/
  | standbyPowerOff (torn : Bool)
  /-- REG_RESP, or a part of DISCOVER_RESP: an earlier MGMT_SEND is answered (R306, R538). -/
  | regResp (src : MsgSrc) (discover : Bool) (part : BitVec 2)
  /-- HBM_STACK_TEMP_READ: a stack's sensor, and its refresh rate (R444). -/
  | hbmStackTempRead (m : BitVec 4) (t : BitVec 12)
  /-- FRAME_RING_SPACE: a consumer has freed slots of a frame ring (R374). -/
  | frameRingSpace (ch : BitVec 9)
  /-- RESET_N_ASSERT: a cold reset of the whole device (R413). -/
  | resetNAssert
  /-- PWRGD_FALL: the formes park, clocks stop and volatile contents are lost (R527). -/
  | pwrgdFall
  /-- DROOP_STRETCH: the clocks of a spine are stretched (R437). -/
  | droopStretch
  /-- DROOP_STRETCH_END: the stretch ends (R437). -/
  | droopStretchEnd
  /-- HOST_LOST: the steps of a host loss (R347). -/
  | hostLost
  /-- HOST_LOSS_TIMEOUT: 50 ms without L0 or without an answer (R346). -/
  | hostLossTimeout
  /-- THERM_DRAIN_EXPIRY: what still runs is cut, and the stop goes on (R445). -/
  | thermDrainExpiry
  /-- CAP_UNMET: five windows above the target at the floor (R436). -/
  | capUnmet
  /-- MEASURED_ONLY: five disagreeing windows (R441). -/
  | measuredOnly
  /-- HEARTBEAT_SEND: a HEARTBEAT on every ADEANE port (R295). -/
  | heartbeatSend
  /-- LAST_RUN_WRITE: the last-run record is rewritten (R490). -/
  | lastRunWrite
  /-- DEFERRED_WRITE_FLUSH: what waited for its temperature bound is written (R448). -/
  | deferredWriteFlush
  /-- DEVICE_RESET: the reset of the four formes together goes on (R422). -/
  | deviceReset
  /-- ATTACH: HCTL_ATTACH takes ATTACH (R340, R342). -/
  | attach
  /-- ATTACH_FORCE: HCTL_ATTACH takes ATTACH_FORCE (R340, R342). -/
  | attachForce
  /-- DETACH: HCTL_ATTACH takes DETACH (R340, R343). -/
  | detach
  /-- DETACH_TIMEOUT: slugs that still run complete with HOST_LOST (R343). -/
  | detachTimeout
  /-- SETDASA: the static address 0x4C (R472). -/
  | setdasa
  /-- RSTDAA: the dynamic address is reset (R472). -/
  | rstdaa
  /-- GETPID: the provisioned id, most significant byte first (R472). -/
  | getpid
  /-- GETBCR: the bus characteristics register (R472). -/
  | getbcr
  /-- GETDCR: the device characteristics register (R472). -/
  | getdcr
  /-- GETSTATUS: the target status (R472). -/
  | getstatus
  /-- ENEC: in-band interrupts for alarms are enabled (R472). -/
  | enec
  /-- DISEC: in-band interrupts are disabled (R472). -/
  | disec
  /-- GET_VERSION (R349). -/
  | getVersion
  /-- GET_CAPABILITIES (R349). -/
  | getCapabilities
  /-- NEGOTIATE_ALGORITHMS (R349). -/
  | negotiateAlgorithms
  /-- GET_DIGESTS: the digest of slot 0, or no slot (R349, R464). -/
  | getDigests
  /-- SPDM_UNSUPPORTED: any other request (R349). -/
  | spdmUnsupported
  /-- KEEP_ALIVE: to every connected controller (R361). -/
  | keepAlive
  /-- REFCLK_CXL_PRESENT: CD-CXL starts (R524). -/
  | refclkCxlPresent
  /-- STANDBY_POWER_ON: the overseer's oscillator starts (R526). -/
  | standbyPowerOn
  deriving DecidableEq, Repr

end Sys2Proof
end

