-- ==== Sys2Proof/Decode.lean ====
section
/-!
DEFINITION. The command a word spells by the opcode table's bits. No row of the table gives bits: the commands are not encoded.
-/
namespace Sys2Proof

/-- The command that a word spells: none, since no row gives bits. DESIGN CHOICE, log entry 2. -/
def decodeTableWord (_nbits _w : Nat) : Option Instr := none

end Sys2Proof
end

