-- ==== Sys2Proof/Machine/Num.lean ====
section
/-!
DEFINITION. Number formats and conversion (chapter 2): the formats of R41, their values (R43, R44), rounding (R54 to R57),
the conversions of R58 to R62, and the exact arithmetic on values that every later operation rounds once.
-/
namespace Sys2Proof.Machine

/-- Two to the power `k` as a natural number. -/
def p2 (k : Nat) : Nat := 1 <<< k

/-- Bits `[lo + w - 1 : lo]` of a natural number. -/
def nbits (n lo w : Nat) : Nat := (n >>> lo) % p2 w

/-- The storage formats of R41 (codes 0x0 to 0x7). FP32_SPLIT is a compute format only, and never a TD's. -/
inductive Fmt
  | fp32 | bf16 | fp16 | e4m3 | e5m2 | int8 | int4 | int32
  deriving DecidableEq, Repr

/-- The format a TD's 4-bit code names; FP32_SPLIT and the reserved codes name none (R41). -/
def Fmt.ofCode : Nat → Option Fmt
  | 0 => some .fp32 | 1 => some .bf16 | 2 => some .fp16 | 3 => some .e4m3
  | 4 => some .e5m2 | 5 => some .int8 | 6 => some .int4 | 7 => some .int32
  | _ => none

/-- Width of one element in bits (R41). -/
def Fmt.width : Fmt → Nat
  | .fp32 => 32 | .bf16 => 16 | .fp16 => 16 | .e4m3 => 8
  | .e5m2 => 8 | .int8 => 8 | .int4 => 4 | .int32 => 32

/-- The integer class of R129: INT8, INT4 and INT32. -/
def Fmt.isInt : Fmt → Bool
  | .int8 => true | .int4 => true | .int32 => true
  | .fp32 => false | .bf16 => false | .fp16 => false | .e4m3 => false | .e5m2 => false

/-- Exponent bits, mantissa bits and bias of a floating-point format (R42); integer formats are given FP32's fields,
which nothing reads. -/
def Fmt.expBits : Fmt → Nat
  | .bf16 => 8 | .fp16 => 5 | .e4m3 => 4 | .e5m2 => 5 | _ => 8
def Fmt.manBits : Fmt → Nat
  | .bf16 => 7 | .fp16 => 10 | .e4m3 => 3 | .e5m2 => 2 | _ => 23
def Fmt.bias : Fmt → Nat
  | .fp16 => 15 | .e4m3 => 7 | .e5m2 => 15 | _ => 127

/-- Bit pattern of the largest finite magnitude (R42). -/
def Fmt.maxFinite : Fmt → Nat
  | .bf16 => 0x7F7F | .fp16 => 0x7BFF | .e4m3 => 0x7E | .e5m2 => 0x7B | _ => 0x7F7FFFFF

/-- Bit pattern of +∞; FP8_E4M3 has none and gives its NaN (R44, R57). -/
def Fmt.posInf : Fmt → Nat
  | .bf16 => 0x7F80 | .fp16 => 0x7C00 | .e4m3 => 0x7F | .e5m2 => 0x7C | _ => 0x7F800000

/-- The canonical NaN of R45. -/
def Fmt.nan : Fmt → Nat
  | .bf16 => 0x7FC0 | .fp16 => 0x7E00 | .e4m3 => 0x7F | .e5m2 => 0x7E | _ => 0x7FC00000

/-- Range of an integer format (R48). -/
def Fmt.intMin : Fmt → Int
  | .int8 => -128 | .int4 => -8 | _ => -2147483648
def Fmt.intMax : Fmt → Int
  | .int8 => 127 | .int4 => 7 | _ => 2147483647

/-- A value of the extended reals with signed zeros, as R43, R44 and R70 use it: NaN, an infinity, or
`(-1)^neg * man * 2^exp` exactly (a zero keeps its sign). -/
inductive FVal
  | nan
  | inf (neg : Bool)
  | fin (neg : Bool) (man : Nat) (exp : Int)
  deriving DecidableEq, Repr

namespace FVal

def zero : FVal := .fin false 0 0

def isNaN : FVal → Bool
  | .nan => true
  | .inf _ => false
  | .fin _ _ _ => false

/-- True of ±∞. -/
def isInf : FVal → Bool
  | .inf _ => true
  | .nan => false
  | .fin _ _ _ => false

/-- True of +0 and −0. -/
def isZero : FVal → Bool
  | .fin _ m _ => m == 0
  | .nan => false
  | .inf _ => false

/-- The sign of a value; a NaN has none and answers false (R46). -/
def neg? : FVal → Bool
  | .nan => false
  | .inf s => s
  | .fin s _ _ => s

def negate : FVal → FVal
  | .nan => .nan
  | .inf s => .inf (!s)
  | .fin s m e => .fin (!s) m e

def abs : FVal → FVal
  | .nan => .nan
  | .inf _ => .inf false
  | .fin _ m e => .fin false m e

/-- The signed integer `±m * 2^(e - q)` of a finite value at the common exponent `q ≤ e`. -/
def scaledTo (s : Bool) (m : Nat) (e q : Int) : Int :=
  let n : Int := (m <<< (e - q).toNat : Nat)
  if s then -n else n

/-- The finite value of an integer count of `2^e`; zero is +0. -/
def ofInt (n : Int) (e : Int) : FVal := .fin (n < 0) n.natAbs e

/-- Exact product (R70): ∞ × 0 is NaN, zeros take the exclusive OR of the signs. -/
def mul : FVal → FVal → FVal
  | .nan, _ => .nan
  | _, .nan => .nan
  | .inf s, .inf t => .inf (s != t)
  | .inf s, .fin t m _ => if m = 0 then .nan else .inf (s != t)
  | .fin s m _, .inf t => if m = 0 then .nan else .inf (s != t)
  | .fin s m e, .fin t n f => .fin (s != t) (m * n) (e + f)

/-- Exact sum with IEEE 754 signs of zero under RNE (R73, R131): −0 only when both are −0; ∞ − ∞ is NaN. -/
def add : FVal → FVal → FVal
  | .nan, _ => .nan
  | _, .nan => .nan
  | .inf s, .inf t => if s = t then .inf s else .nan
  | .inf s, .fin _ _ _ => .inf s
  | .fin _ _ _, .inf t => .inf t
  | .fin s m e, .fin t n f =>
    if m = 0 then (if n = 0 then .fin (s && t) 0 0 else .fin t n f)
    else if n = 0 then .fin s m e
    else
      let q := min e f
      ofInt (scaledTo s m e q + scaledTo t n f q) q

def sub (a b : FVal) : FVal := add a (negate b)

/-- `a < b` on values that are not NaN; zeros of either sign are equal. -/
def lt : FVal → FVal → Bool
  | .nan, _ => false
  | _, .nan => false
  | .inf s, .inf t => s && !t
  | .inf s, .fin _ _ _ => s
  | .fin _ _ _, .inf t => !t
  | .fin s m e, .fin t n f => let q := min e f; scaledTo s m e q < scaledTo t n f q

/-- Equality of values: a NaN equals nothing, and +0 equals −0 (R131). -/
def eqv : FVal → FVal → Bool
  | .nan, _ => false
  | _, .nan => false
  | .inf s, .inf t => s == t
  | .inf _, .fin _ _ _ => false
  | .fin _ _ _, .inf _ => false
  | .fin s m e, .fin t n f => let q := min e f; scaledTo s m e q == scaledTo t n f q

end FVal

/-- The value of a floating-point bit pattern (R43, R44). -/
def Fmt.decode (f : Fmt) (bits : Nat) : FVal :=
  let p := f.manBits
  let m := nbits bits 0 p
  let e := nbits bits p f.expBits
  let s := nbits bits (p + f.expBits) 1 == 1
  let emax := p2 f.expBits - 1
  if f = .e4m3 then
    if nbits bits 0 7 = 0x7F then .nan
    else if e = 0 then .fin s m (1 - (f.bias : Int) - p)
    else .fin s (p2 p + m) ((e : Int) - f.bias - p)
  else if e = emax then (if m = 0 then .inf s else .nan)
  else if e = 0 then .fin s m (1 - (f.bias : Int) - p)
  else .fin s (p2 p + m) ((e : Int) - f.bias - p)

/-- The rounding modes of R54; `awayTies` is the KS2 mode of R67, which no TD names. -/
inductive RMode
  | rne | rtz | stochastic | awayTies
  deriving DecidableEq, Repr

/-- Integer part of `man * 2^(-sh)` rounded under a mode, `u` being the element's random word (R54, R55). -/
def roundShift (mode : RMode) (u : W32) (man sh : Nat) : Nat :=
  let a := man >>> sh
  let r := man % p2 sh
  if r = 0 then a
  else match mode with
    | .rtz => a
    | .rne =>
      if 2 * r < p2 sh then a else if p2 sh < 2 * r then a + 1 else if a % 2 = 0 then a else a + 1
    | .awayTies => if 2 * r < p2 sh then a else a + 1
    | .stochastic => if u.toNat < (r <<< 32) >>> sh then a + 1 else a

/-- Magnitude bits, in a format with an unbounded exponent above, of `man * 2^exp` rounded under a mode. The encoding
is monotone, so overflow is a comparison with `Fmt.maxFinite`. -/
def Fmt.roundMag (f : Fmt) (mode : RMode) (u : W32) (man : Nat) (exp : Int) : Nat :=
  if man = 0 then 0
  else
    let p : Int := f.manBits
    let emin : Int := 1 - f.bias
    let lead : Int := (Nat.log2 man : Int) + exp
    let q : Int := max lead emin - p
    let n := if q ≤ exp then man <<< (exp - q).toNat else roundShift mode u man (q - exp).toNat
    let biased := (q + p + f.bias).toNat
    if n < p2 f.manBits then n else (biased <<< f.manBits) + n - p2 f.manBits

/-- The sign bit of a floating-point format set on a magnitude; a NaN keeps sign 0 (R45). -/
def Fmt.withSign (f : Fmt) (neg : Bool) (mag : Nat) : Nat :=
  if neg then mag + p2 (f.manBits + f.expBits) else mag

/-- Conversion of a value to a floating-point format (R55 to R57, R45). -/
def Fmt.encode (f : Fmt) (mode : RMode) (sat : Bool) (u : W32) : FVal → Nat
  | .nan => f.nan
  | .inf s =>
    if f = .e4m3 then (if sat then f.withSign s f.maxFinite else f.nan) else f.withSign s f.posInf
  | .fin s m e =>
    let mag := f.roundMag mode u m e
    if mag ≤ f.maxFinite then f.withSign s mag
    else if sat || mode == .rtz then f.withSign s f.maxFinite
    else if f = .e4m3 then f.nan else f.withSign s f.posInf

/-- A value rounded to an integer and clamped to a range (R60): NaN gives 0, the infinities the ends. -/
def FVal.toIntClamped (mode : RMode) (u : W32) (lo hi : Int) : FVal → Int
  | .nan => 0
  | .inf s => if s then lo else hi
  | .fin s m e =>
    let n : Nat := if 0 ≤ e then m <<< e.toNat else roundShift mode u m (-e).toNat
    let i : Int := if s then -(n : Int) else n
    max lo (min hi i)

/-- Two's complement reading of a `w`-bit pattern (R48). -/
def signedOf (w n : Nat) : Int :=
  let v := n % p2 w
  if v < p2 (w - 1) then v else (v : Int) - (p2 w : Nat)

/-- The `w`-bit two's complement pattern of an integer. -/
def bitsOfInt (w : Nat) (i : Int) : Nat := (i % ((p2 w : Nat) : Int)).toNat

/-- The FP32 value of a word. -/
def f32 (b : W32) : FVal := Fmt.fp32.decode b.toNat
/-- One rounding to FP32 under RNE with overflow to ±∞ (R130). -/
def toF32 (v : FVal) : W32 := BitVec.ofNat 32 (Fmt.fp32.encode .rne false 0 v)
def f32NaN : W32 := 0x7FC00000#32
def f32One : W32 := 0x3F800000#32

/-- A compute value: FP32 or INT32, the two types of R65. -/
inductive CVal
  | f (b : W32)
  | i (b : W32)
  deriving DecidableEq, Repr

def CVal.bits : CVal → W32
  | .f b => b
  | .i b => b

def CVal.isInt : CVal → Bool
  | .i _ => true
  | .f _ => false

/-- A word read as the type asked for. -/
def CVal.ofBits (int : Bool) (b : W32) : CVal := if int then .i b else .f b

/-- The load conversion of R52: a storage pattern to FP32 or INT32, exact; every NaN becomes the canonical one (R46). -/
def loadElem (f : Fmt) (bits : Nat) : CVal :=
  if f.isInt then .i (BitVec.ofInt 32 (signedOf f.width bits))
  else .f (toF32 (f.decode bits))

/-- Controls of one conversion: rounding mode, SATURATE and the random word (R53). -/
structure ConvCtl where
  mode : RMode
  sat  : Bool
  u    : W32
  deriving DecidableEq, Repr

/-- An exact value converted to any format (R57 to R60). -/
def convValue (dst : Fmt) (c : ConvCtl) (v : FVal) : Nat :=
  if dst.isInt then bitsOfInt dst.width (v.toIntClamped c.mode c.u dst.intMin dst.intMax)
  else dst.encode c.mode c.sat c.u v

/-- The exact value of a storage pattern (R43, R48). -/
def Fmt.value (f : Fmt) (bits : Nat) : FVal :=
  if f.isInt then FVal.ofInt (signedOf f.width bits) 0 else f.decode bits

/-- Conversion between two storage formats (R58 to R60). Equal formats need none, and the bits move unchanged
(R52 converts between TDs of different formats). DEDUCED, log entry 44. -/
def convElem (src dst : Fmt) (c : ConvCtl) (bits : Nat) : Nat :=
  if src = dst then bits % p2 src.width else convValue dst c (src.value bits)

/-- The store conversion of R52 and R61, with the KS2 rules of R67 when `ks2` is set. `scale` is `some s` when the
destination TD's SCALE_EN is 1. -/
def storeElem (dst : Fmt) (c : ConvCtl) (scale : Option W32) (ks2 : Bool) (v : CVal) : Nat :=
  let exact : FVal := match v with
    | .f b => f32 b
    | .i b => FVal.ofInt b.toInt 0
  match scale with
  | none => convValue dst c exact
  | some s =>
    let flush := ks2 && nbits s.toNat 23 8 == 0 && nbits s.toNat 0 23 != 0
    let scaled : FVal :=
      if flush then .zero else f32 (toF32 (FVal.mul (f32 (toF32 exact)) (f32 s)))
    let c' := if ks2 && dst.isInt && dst != .int32 then { c with mode := RMode.awayTies } else c
    convValue dst c' scaled

/-- hi and lo of an FP32 element under FP32_SPLIT, as BF16 patterns (R62). -/
def splitHiLo (x : W32) : Nat × Nat :=
  match f32 x with
  | .nan => (Fmt.bf16.nan, 0)
  | .inf s => (Fmt.bf16.withSign s Fmt.bf16.posInf, 0)
  | .fin s m e =>
    let hi := Fmt.bf16.encode .rne true 0 (.fin s m e)
    let lo := Fmt.bf16.encode .rne false 0 (FVal.sub (.fin s m e) (Fmt.bf16.decode hi))
    (hi, lo)

end Sys2Proof.Machine
end

