-- ==== Sys2Proof/Machine/Crc.lean ====
section
/-!
DEFINITION. The cyclic redundancy codes the manual names (CRC-32C of R286, CRC-64/WE of R265) and Philox-4x32-10 (R274).
-/
namespace Sys2Proof.Machine

/-- `n` shift steps of a reflected code. -/
def crcReflected (poly : Nat) : Nat → Nat → Nat
  | 0, x => x
  | n + 1, x => crcReflected poly n (if x % 2 = 1 then (x >>> 1) ^^^ poly else x >>> 1)

/-- CRC-32C (Castagnoli) over bytes: reflected, initial value and final XOR all ones (R286). -/
def crc32c (bs : List Byte) : Nat :=
  (bs.foldl (fun c b => crcReflected 0x82F63B78 8 (c ^^^ b.toNat)) 0xFFFFFFFF) ^^^ 0xFFFFFFFF

/-- `n` shift steps of a 64-bit code, most significant bit first. -/
def crc64Shift : Nat → Nat → Nat
  | 0, x => x
  | n + 1, x => crc64Shift n (if nbits x 63 1 = 1 then ((x <<< 1) % p2 64) ^^^ 0x42F0E1EBA9EA3693 else x <<< 1)

/-- CRC-64/WE over bytes (R265). -/
def crc64we (bs : List Byte) : Nat :=
  (bs.foldl (fun c b => crc64Shift 8 (c ^^^ (b.toNat <<< 56))) 0xFFFFFFFFFFFFFFFF) ^^^ 0xFFFFFFFFFFFFFFFF

/-- One round of Philox-4x32. -/
def philoxRound (k0 k1 : W32) (c : W32 × W32 × W32 × W32) : W32 × W32 × W32 × W32 :=
  let (c0, c1, c2, c3) := c
  let a := 0xD2511F53 * c0.toNat
  let b := 0xCD9E8D57 * c2.toNat
  (BitVec.ofNat 32 (b >>> 32) ^^^ c1 ^^^ k0, BitVec.ofNat 32 b,
   BitVec.ofNat 32 (a >>> 32) ^^^ c3 ^^^ k1, BitVec.ofNat 32 a)

/-- `n` rounds, the key incremented between them. -/
def philoxRounds : Nat → W32 → W32 → W32 × W32 × W32 × W32 → W32 × W32 × W32 × W32
  | 0, _, _, c => c
  | n + 1, k0, k1, c => philoxRounds n (k0 + 0x9E3779B9#32) (k1 + 0xBB67AE85#32) (philoxRound k0 k1 c)

/-- `random_word` of R274: seed, stream id and element index. -/
def randomWord (s : W64) (m i : Nat) : W32 :=
  let q := i / 4
  let (o0, o1, o2, o3) := philoxRounds 10 (BitVec.ofNat 32 s.toNat) (BitVec.ofNat 32 (s.toNat >>> 32))
    (BitVec.ofNat 32 q, BitVec.ofNat 32 (q >>> 32), BitVec.ofNat 32 m, 0)
  match i % 4 with
  | 0 => o0
  | 1 => o1
  | 2 => o2
  | _ => o3

end Sys2Proof.Machine
end

