-- ==== Sys2Proof/Config.lean ====
section
/-!
DEFINITION. What the manual leaves free: opaque constants with no body. A free value that is fresh each time is applied to
the counter `free` of the state; one that an implementation fixes is applied to what identifies it. No statement rests on a
value of any of them.
-/
namespace Sys2Proof

/-- A byte of memory whose contents the manual calls undefined, lost or unspecified, by the loss and the address
(R153, R226, R417, R420, R527; DESIGN CHOICE, log entry 5). -/
opaque Config.freeByte : Nat → Nat → Byte
/-- What software reads from an address of a spill region while a frame of its engine holds records: unspecified data (R223; DESIGN
CHOICE, log entry 73). -/
opaque Config.spillByte : Nat → Byte
/-- A fresh 64-bit value: one the manual leaves undefined and the machine goes on with (DESIGN CHOICE, log entry 6). -/
opaque Config.freeWord : Nat → W64
/-- A fresh value of any width, for signatures and nonces (R349, R465, R494; DESIGN CHOICE, log entry 7). -/
opaque Config.freeBits : Nat → Nat → Nat
/-- Destination device (bits 15 to 0) and MTYPE (bits 23 to 16) of the 64-byte message of a MGMT_SEND, whose layout the manual
does not give (R306; DESIGN CHOICE, log entry 17). -/
opaque Config.mgmtHead : BitVec 512 → BitVec 24

/-- The tables of a PWR_COEFF section's bytes, or of none for those of the mask ROM, whose format the manual does not give (R438; DESIGN CHOICE, log
entry 29): the coefficient of an event class, in units of 2⁻²⁰ W per event in 100 µs at 0.75 V, and the leakage term in W by VDD_PRESS step and
highest junction reading. -/
opaque Config.powerCoeff : List Byte → Nat → Nat
opaque Config.powerLeakage : List Byte → Nat → Nat → Nat
/-- Whether a rail sensor's values of mV and mA lie in its range, which the manual does not give (R439; DESIGN CHOICE, log entry 115). -/
opaque Config.railInRange : Nat → Nat → Nat → Bool
/-- The fixed term of the device estimate, for SerDes and CXL (R438; DESIGN CHOICE, log entry 29). -/
opaque Config.powerFixed : Nat
/-- Fused or held in mask ROM, part by part or stepping by stepping (R463 to R465, R511; DESIGN CHOICE, log entry 31): the stepping, the serial number,
the identity public key, the four Sordoman firmware keys, and the SHA-512 of the mask ROM. -/
opaque Config.stepping : BitVec 8
opaque Config.serial : W64
opaque Config.identityKey : List Byte
opaque Config.sordomanKey : Nat → List Byte
opaque Config.romHash : List Byte
/-- The provisioned id, the bus characteristics and the device characteristics of the I3C target (R472; DESIGN CHOICE, log entry 31). -/
opaque Config.i3cPid : BitVec 48
opaque Config.i3cBcr : Byte
opaque Config.i3cDcr : Byte
/-- Defaults that differ from part to part: DS_MAC_BASE and DS_HOSTNQN (chapter 12). -/
opaque Config.macBase : BitVec 48
opaque Config.hostNqn : List Byte
/-- An X.509 chain's leaf carries the identity public key and the chain validates up to the Sordoman root (R464); path validation is an
outside standard's (DESIGN CHOICE, log entry 31). -/
opaque Config.certChainOk : List Byte → Bool

end Sys2Proof
end

