-- ==== Sys2Proof/Machine/EngineState.lean ====
section
/-!
DEFINITION. The state of one engine: its stream and queues (chapter 6), the galley and vector registers (chapters 4, 5), the
completion ring (R181), the platen division and cache (chapter 7), the spike (chapter 8), the loss accumulator and the
counters that belong to an engine.
-/
namespace Sys2Proof.Machine

/-- A slug of the expanded stream that is not admitted yet (R157). `own` holds the TDs that the firmware loads into
entries 0x300 and above just before it admits the slug. -/
structure StreamItem where
  slug   : SlugWord
  origin : Origin := .ring
  ring   : Bool := false         -- its record goes to the host ring (R180, R337)
  counts : Bool := false         -- its admission advances SQ_HEAD (R336)
  depth  : Nat := 0              -- CALL and LIST levels open around it
  call   : Option Nat := none    -- the CALL it expands
  own    : Tab TDWord := []
  deriving DecidableEq, Repr

/-- Elements of a row of a fused kernel, absent ones `none`. -/
abbrev Row := List (Option W32)

/-- What one row of a fused kernel gives: elements of the first output, statistics, products for DGAMMA, elements for DBETA, and the row's
loss (R146, R149). -/
structure RowOut where
  y     : Row := []
  stats : List W32 := []
  prod  : List (Option FVal) := []
  dy    : List (Option FVal) := []
  loss  : Option W32 := none
  live  : Bool := true
  range : Bool := false
  deriving DecidableEq, Repr

/-- How far a begun slug has come. `phase` counts the waits it has passed, `done0` and `done1` its elements or the tiles of
each product, `fin0` and `fin1` the LAST entries it has freed, `drain` the fault it will complete with once its producer's
entries are freed (R141). `gotB` and `gotH` hold the bytes that remote reads have returned (BROADSHEET and HOST). `tiles` are the tiles
that a GALLEY consumer has done with (product, row, column), `rows` the rows that a fused kernel has computed, and `far` that
another device has refused an access. -/
structure Progress where
  phase  : Nat := 0
  done0  : Nat := 0
  done1  : Nat := 0
  fin0   : Bool := false
  fin1   : Bool := false
  drain  : Option Status := none
  gotB   : List Host.Cell := []
  gotH   : List Host.Cell := []
  tiles  : List (Nat × Nat × Nat) := []
  rows   : List RowOut := []
  far    : Bool := false
  deriving DecidableEq, Repr

/-- One entry of a queue: the slug with what R164, R275, R227 and R344 copy at admission. -/
structure QEntry where
  id      : Nat                  -- admission order in the engine
  slug    : SlugWord
  origin  : Origin := .ring
  ring    : Bool := false
  depth   : Nat := 0
  call    : Option Nat := none
  session : Nat := 0             -- session epoch at admission, 0 when none was in force
  adm     : BitVec 32 := 0       -- admission count of the slug (R202)
  seed    : W64 := 0             -- job seed at its boundary (R275)
  layer   : Nat := 0             -- current layer id (R234)
  tds     : Tab TDWord := []     -- copies of the TDs it names; a TD never loaded is absent
  retries : Nat := 0             -- PATH_RESET retries performed
  began   : Bool := false
  held    : Option Nat := none   -- waits for this domain to recover (R186)
  why     : Nat := 0             -- stall counter that such a wait is charged to (R418)
  mute    : Bool := false        -- its engine has been reset: its record is discarded (R416, R278)
  prog    : Progress := {}
  deriving DecidableEq, Repr

/-- A slug that has reached its end and waits to write its record (R180, R181). -/
structure Finish where
  entry  : QEntry
  status : Status
  detail : Nat := 0
  extra  : List W64 := []        -- further items of its event record (R269, R483)
  deriving DecidableEq, Repr

/-- One galley entry (R110). -/
structure GEntry where
  seq     : BitVec 16
  product : Nat
  row     : Nat
  col     : Nat
  vrows   : Nat
  vcols   : Nat
  rmask   : BitVec 32
  cmask   : BitVec 32
  int     : Bool
  last    : Bool
  abort   : Bool
  vals    : List W32             -- 1,024 values, element (i, j) at 32i + j
  ue      : List Nat := []       -- 64-bit words with an uncorrectable error: word w holds values 2w and 2w + 1 (R118, R535)
  deriving DecidableEq, Repr

/-- The completion ring in force (R181, R182). -/
structure CRing where
  base    : Nat
  log2    : Nat
  head    : Nat := 0             -- records written since the ring was set
  seen    : Nat := 0             -- entries the consumer has returned, as last read
  broken  : Bool := false
  dflt    : Bool := true         -- the default ring of R182
  deriving DecidableEq, Repr

/-- States of a platen cache line (R197). -/
inductive PLState
  | demand | snapshot | tracked | trackedInvalid
  deriving DecidableEq, Repr

/-- One line of the platen cache: 128 bytes of a source, with the stamps of R202; `nu = none` is NEVER. -/
structure PLine where
  space   : BitVec 2
  addr    : Nat                  -- byte address of the line, a multiple of 128
  way     : Nat
  data    : BitVec 1024
  state   : PLState
  td      : Nat
  nu      : Option (BitVec 32)
  recency : Int
  deriving DecidableEq, Repr

/-- One record of a spike frame (R218). Resident records hold their bytes in the spike part; a spilled one lies at
`spill` in HBM. `acked = false` while its spill write is in progress. -/
structure SpikeRec where
  header  : BitVec 512
  payload : List Byte
  spill   : Option Nat := none
  acked   : Bool := true
  lost    : Bool := false
  ue      : Bool := false        -- an uncorrectable error lies in the record
  deriving DecidableEq, Repr

/-- One frame: its records, top first, and the pushes since it was last empty (R217, R218). -/
structure Frame where
  recs   : List SpikeRec := []
  pushes : Nat := 0
  opened : Nat := 0              -- order in which open frames were opened (R222)
  deriving DecidableEq, Repr

/-- The spike of an engine (R217, R223, R226). -/
structure Spike where
  frames   : Nat := 16
  base     : Nat := 0
  shareMib : Nat := 0            -- FRAME_SPILL_MIB; 0 means no spill region
  frame    : Tab Frame := []
  opens    : Nat := 0
  deriving DecidableEq, Repr

/-- The loss accumulator (R235): the group in formation is kept, so that sums keep the reference order. -/
structure LossAcc where
  acc   : W32 := 0
  group : List W32 := []         -- losses of the group in formation, oldest first
  count : Nat := 0
  deriving DecidableEq, Repr

/-- A fused kernel's strip (R150): the tile row in formation and the tiles ingested. -/
structure Strip where
  owner : Nat                    -- id of the fused slug
  row   : Nat
  vals  : Tab W32 := []          -- value of cell (i, n) at i * 65536 + n
  act   : List Nat := []         -- keys of the active cells, as above
  deriving DecidableEq, Repr

/-- The counters of one counted unit: BUSY, GALLEY_WAIT and the causes of R212 in the order of R516, in pacer cycles, and IDLE_TICKS
(R211, R216). -/
structure StallCnt where
  cycles     : List (BitVec 48) := List.replicate 15 0
  idleTicks  : BitVec 48 := 0
  deriving DecidableEq, Repr

/-- What a counted unit was seen at when cycles were last counted: the slugs admitted until then, how far its slug in hand had come (id, phase
and progress), and the stall counter of what it waited for. -/
structure UnitSeen where
  adm   : BitVec 32 := 0
  head  : List Nat := []
  cause : Nat := 14
  deriving DecidableEq, Repr

/-- The quantity counters of an engine (R501). -/
structure EngCnt where
  pltHit    : BitVec 48 := 0
  pltMiss   : BitVec 48 := 0
  refetch   : BitVec 48 := 0
  dropped   : BitVec 48 := 0
  trackRefused : BitVec 48 := 0
  strokes16 : BitVec 48 := 0
  strokes8  : BitVec 48 := 0
  strokesInt : BitVec 48 := 0
  strokesSplit : BitVec 48 := 0
  vectorSteps : BitVec 48 := 0
  bytesHbm  : BitVec 48 := 0
  bytesBroadsheet : BitVec 48 := 0
  bytesHost : BitVec 48 := 0
  deriving DecidableEq, Repr

/-- One selectable counter (R498, R500). -/
structure SelCnt where
  source  : Nat := 0
  arg     : Nat := 0
  value   : BitVec 48 := 0       -- what it has accumulated
  base    : Nat := 0             -- the source's total as last added
  wrapped : Bool := false
  deriving DecidableEq, Repr

/-- The register PLT_SPLIT and the division in force (R192, R194). -/
structure PltSplit where
  reqScratch : Nat := 8
  reqSpike   : Nat := 8
  scratch    : Nat := 8
  spike      : Nat := 8
  busy       : Bool := false
  err        : Bool := false
  deriving DecidableEq, Repr

/-- Cache size in force (R192). -/
def PltSplit.cache (p : PltSplit) : Nat := 32 - p.scratch - p.spike

/-- The host ring of an engine (R335 to R339); line 0 is the pinned line of the host line cache. -/
structure HostRing where
  sqBase    : Nat
  cqBase    : Nat
  ctlBase   : Nat
  sqLog2    : Nat
  cqLog2    : Nat
  irqMode   : Nat
  irqVector : Nat
  sqTail    : BitVec 32 := 0     -- line 0 as last read
  cqConsumed : BitVec 32 := 0
  resume    : BitVec 16 := 0
  sqHead    : BitVec 32 := 0     -- line 1 as the device holds it
  cqWritten : BitVec 32 := 0
  resumeSeen : BitVec 16 := 0
  halted    : Bool := false
  haltStatus : Nat := 0
  session   : Nat := 0
  due       : Bool := false      -- line 1 has changed and cannot be written yet (R327, R345)
  signal    : Bool := false      -- a halt that line 1 does not say yet, and that its write signals (R337)
  deriving DecidableEq, Repr

/-- A CALL in progress (R187, R188, R185), or a member's part of one: the expansion's slugs still to complete, the parts that
members have yet to finish, and the non-SUCCESS statuses of the parts. -/
structure CallCtx where
  id      : Nat
  entry   : QEntry
  left    : Nat                  -- own expansion slugs not yet completed
  parts   : List Nat := []       -- member engines whose part is not complete
  faults  : List (Nat × Status) := []   -- (engine, status) of the parts that ended otherwise than SUCCESS
  leader  : Option (Nat × Nat) := none  -- leading engine and its context, of a member's part
  deriving DecidableEq, Repr

/-- A part of a FORME or DEVICE span call delivered to this engine (R188). -/
structure CallPart where
  leader : Nat
  id     : Nat
  entry  : QEntry
  items  : List StreamItem
  deriving DecidableEq, Repr

/-- A unit's requests at one HBM bank: those queued at the controller, at most 16, those held in its slots (R210), and those that wait for a
free slot (R209). -/
structure BankQ where
  queued : Nat := 0
  held   : Nat := 0
  late   : Nat := 0
  deriving DecidableEq, Repr

/-- One engine. -/
structure Engine where
  retired   : Bool := false
  retCause  : Nat := 0
  parked    : Bool := false      -- held still on the parking circuit (R405, R419)
  stopAdm   : Bool := false      -- admission stopped by the management plane (R34)
  halted    : Bool := false      -- R185
  stream    : List StreamItem := []
  qMove     : List QEntry := []
  qMatrix   : List QEntry := []
  qVector   : List QEntry := []
  qFabric   : List QEntry := []
  qHost     : List QEntry := []
  qSpike    : List QEntry := []
  qUpdate   : List QEntry := []
  core      : Option QEntry := none      -- the QUOIN, WAIT or CALL that holds the control core
  finishing : List Finish := []
  nextId    : Nat := 0
  adm       : BitVec 32 := 0
  seed      : W64 := 0
  tds       : Tab TDWord := []
  galley    : List GEntry := []          -- published entries, head first
  galleyWait : Bool := false             -- the array waits at step 1 of R111
  aborts    : List (Nat × BitVec 16) := []   -- ABORT entries that wait for their turn and a free entry: queue entry and SLUG_SEQ (R117)
  vregs     : Tab W32 := []              -- register r, lane l at 128 r + l
  vregUe    : List Nat := []             -- 64-bit register words with an uncorrectable error, lanes 2w and 2w + 1 of r at 64 r + w
  strip     : Option Strip := none
  cring     : CRing := { base := 0, log2 := 10 }
  calls     : List CallCtx := []
  callParts : List CallPart := []
  nextCall  : Nat := 0
  ring      : Option HostRing := none
  split     : PltSplit := {}
  cache     : List PLine := []
  recency   : Int := 0
  watched   : List Nat := []             -- lines of other devices on which a WATCH of the engine stands (R203, R195)
  spike     : Spike := {}
  layer     : Nat := 0
  loss      : LossAcc := {}
  nan       : BitVec 48 := 0             -- PRF_NAN and PRF_INF of the engine (R233)
  infs      : BitVec 48 := 0
  cnt       : EngCnt := {}
  stalls    : List StallCnt := List.replicate 4 {}   -- ARRAY, VECTOR, MOVE, SPIKE
  banks     : Tab BankQ := []            -- by stack × 4,096 + pseudo-channel × 64 + bank (R207, R210)
  pacer     : BitVec 48 := 0             -- PACER_CYCLES and TICKS of the engine (R498)
  ticks     : BitVec 48 := 0
  workSeen  : Nat × Nat := (0, 0)        -- strokes and steps when pacer cycles were last counted
  seen      : List UnitSeen := List.replicate 4 {}   -- of ARRAY, VECTOR, MOVE and SPIKE
  emptied   : List QId := QId.all        -- queues that have been empty since then
  rested    : Bool := false              -- the engine has been parked since then
  ticker    : W64 := 0
  tickRate  : Nat := 0                   -- TICK_RATE, in kHz
  sel       : List SelCnt := List.replicate 8 {}
  deriving DecidableEq, Repr

end Sys2Proof.Machine
end

