-- ==== Sys2Proof/Machine/Operands.lean ====
section
/-!
DEFINITION. Operands: the fields of a slug header (R160) and of a tensor descriptor (R165 to R167), element addresses and
element indexes (R56, R166), and the checks that a TD passes before a slug uses it (R6, R49, R166, R184).
-/
namespace Sys2Proof.Machine

/-- Field `[hi : lo]` of a word, as a number. -/
def fld {w : Nat} (x : BitVec w) (hi lo : Nat) : Nat := nbits x.toNat lo (hi + 1 - lo)

/-- Bit `i` of a word. -/
def bit {w : Nat} (x : BitVec w) (i : Nat) : Bool := nbits x.toNat i 1 == 1

/-! ### The slug header (R160) -/

def slugClass (s : SlugWord) : Nat := fld s 3 0
def slugSeq (s : SlugWord) : Nat := fld s 19 4
def slugTag (s : SlugWord) : Nat := fld s 35 20
def slugNextUse (s : SlugWord) : Nat := fld s 51 36
def slugRetry (s : SlugWord) : Nat := fld s 53 52
def slugContinue (s : SlugWord) : Bool := bit s 54
def slugCmpl (s : SlugWord) : Bool := bit s 55
/-- OP of the classes that carry a 4-bit operation at [67:64]. -/
def slugOp (s : SlugWord) : Nat := fld s 67 64

/-- The null TD reference (R163). -/
def nullTd : Nat := 0x3FF

/-! ### Tensor descriptors (R165) -/

/-- The address spaces of R165. -/
inductive Space
  | lcl | broadsheet | host
  deriving DecidableEq, Repr

def Space.ofCode : Nat → Option Space
  | 0 => some .lcl | 1 => some .broadsheet | 2 => some .host | _ => none

def Space.code : Space → Nat
  | .lcl => 0 | .broadsheet => 1 | .host => 2

/-- A tensor descriptor read into its fields. `ext` and `stride` have six entries; dimensions at or above NDIM have
extent 1 and stride 0 (R166). -/
structure TD where
  id        : Nat
  base      : Nat
  scale     : W32
  stream    : Nat
  fmt       : Fmt
  rmode     : RMode
  sat       : Bool
  scaleEn   : Bool
  ndim      : Nat
  space     : Space
  streaming : Bool
  ext       : List Nat
  stride    : List Int
  deriving DecidableEq, Repr

/-- EXTENTd and STRIDEd of a TD word (R165). -/
def tdExtent (w : TDWord) (d : Nat) : Nat := nbits w.toNat (128 + 24 * d) 24
def tdStride (w : TDWord) (d : Nat) : Int := signedOf 40 (nbits w.toNat (272 + 40 * d) 40)

def RMode.ofCode : Nat → Option RMode
  | 0 => some .rne | 1 => some .rtz | 2 => some .stochastic | _ => none

/-- Extents of the six dimensions, 1 at or above NDIM. -/
def tdExts (w : TDWord) (ndim : Nat) : List Nat :=
  (List.range 6).map fun d => if d < ndim then tdExtent w d else 1

/-- A TD read and checked: reserved encodings (R6, R41, R49, R54, R165, R166, R184), then the size of its shape (R166). -/
def TD.read (id : Nat) (w : TDWord) : Except Status TD :=
  match Fmt.ofCode (fld w 115 112), RMode.ofCode (fld w 117 116), Space.ofCode (fld w 124 123) with
  | some fmt, some rmode, some space =>
    let ndim := fld w 122 120
    let unused := (List.range 6).all fun d => d < ndim || (tdExtent w d == 0 && tdStride w d == 0)
    let int4Bad := fmt == .int4 && (tdStride w 0 != 0 || tdExtent w 0 % 2 != 0)
    if fld w 127 126 ≠ 0 ∨ ndim = 0 ∨ 6 < ndim ∨ !unused ∨ int4Bad then .error .reservedEncoding
    else if p2 48 < (tdExts w ndim).foldl (· * ·) 1 then .error .shapeIllegal
    else .ok { id, base := fld w 63 0, scale := BitVec.ofNat 32 (fld w 95 64), stream := fld w 111 96, fmt, rmode,
               sat := bit w 118, scaleEn := bit w 119, ndim, space, streaming := bit w 125,
               ext := tdExts w ndim, stride := (List.range 6).map (tdStride w) }
  | _, _, _ => .error .reservedEncoding

/-- Number of elements. -/
def TD.count (t : TD) : Nat := t.ext.foldl (· * ·) 1

/-- Coordinates of element index `i` of a shape, dimension 0 fastest (R56, R166). -/
def coordsOf : List Nat → Nat → List Nat
  | [], _ => []
  | e :: es, i => i % e :: coordsOf es (i / e)

/-- Element index of coordinates in a shape (R166). -/
def indexOf : List Nat → List Nat → Nat
  | e :: es, c :: cs => c + e * indexOf es cs
  | _, _ => 0

/-- Byte address of the element at coordinates, modulo 2^64 (R166). -/
def TD.rawAddr (t : TD) (cs : List Nat) : Nat :=
  let i0 := cs.headD 0
  let s0 := t.stride.headD 0
  let off0 : Int := match t.fmt with
    | .int4 => (i0 / 2 : Nat)
    | f => (i0 : Int) * (if s0 = 0 then ((f.width / 8 : Nat) : Int) else s0)
  let rest : Int := ((cs.tail.zip t.stride.tail).map fun (c, s) => (c : Int) * s).sum
  (((t.base : Int) + off0 + rest) % ((p2 64 : Nat) : Int)).toNat

/-- A LOCAL or HOST TD whose BASE has upper bits that are not zero: every access through it is unmapped (R167). -/
def TD.barred (t : TD) : Bool :=
  match t.space with
  | .lcl => decide (p2 48 ≤ t.base)
  | .host => decide (p2 52 ≤ t.base)
  | .broadsheet => false

/-- The address that an access of the element at coordinates uses: outside its space for every element of a barred TD. -/
def TD.addr (t : TD) (cs : List Nat) : Nat := if t.barred then t.base else t.rawAddr cs

/-- Which nibble of its byte an INT4 element is in; false is bits [3:0] (R48). -/
def TD.high (t : TD) (cs : List Nat) : Bool := t.fmt == .int4 && cs.headD 0 % 2 == 1

/-- Bytes that one element occupies. -/
def TD.elemBytes (t : TD) : Nat := if t.fmt = .int4 then 1 else t.fmt.width / 8

/-- Coordinates in a TD of an iteration-space position, extents of 1 broadcasting (R127). -/
def TD.broadcast (t : TD) (cs : List Nat) : List Nat :=
  (cs.zip t.ext).map fun (c, e) => if e = 1 then 0 else c

/-- First and last byte (exclusive) that the TD's elements span; `none` of an empty TD or one that wraps. -/
def TD.span (t : TD) : Option (Nat × Nat) :=
  if t.count = 0 then none
  else
    let dims := (t.ext.zip t.stride).zipIdx
    let step : Nat → Int → Int := fun d s =>
      if d = 0 then (match t.fmt with | .int4 => 0 | f => if s = 0 then ((f.width / 8 : Nat) : Int) else s) else s
    let lo : Int := (dims.map fun ((e, s), d) => min 0 (((e : Int) - 1) * step d s)).sum
    let hi : Int := (dims.map fun ((e, s), d) => max 0 (((e : Int) - 1) * step d s)).sum
    let tail : Nat := match t.fmt with
      | .int4 => t.ext.headD 0 / 2
      | f => f.width / 8
    let a : Int := (t.base : Int) + lo
    let b : Int := (t.base : Int) + hi + tail
    if a < 0 then none else some (a.toNat, b.toNat)

/-- Byte addresses of every element's first byte, in element-index order. -/
def TD.addrs (t : TD) : List Nat := (List.range t.count).map fun i => t.addr (coordsOf t.ext i)

/-- Where an element lies: its space and its address there. A BROADSHEET address of the device's own id names LOCAL memory (R28);
`own` is that id, none of a device that has none. -/
def TD.locOf (own : Option Nat) (t : TD) (a : Nat) : Nat × Nat :=
  if t.space = .broadsheet ∧ own = some (a / p2 48) then (0, a % p2 48) else (t.space.code, a)

/-- Where the elements lie, in element-index order. -/
def TD.locs (own : Option Nat) (t : TD) : List (Nat × Nat) :=
  (List.range t.count).map fun i => t.locOf own (t.rawAddr (coordsOf t.ext i))

/-- The two TDs name the same elements in the same places with no broadcast (R128). -/
def TD.identical (own : Option Nat) (a b : TD) : Bool :=
  a.locOf own a.base == b.locOf own b.base && a.fmt == b.fmt && a.ext == b.ext &&
  (a.ext.zip (a.stride.zip b.stride)).zipIdx.all fun ((e, s, t), d) =>
    e ≤ 1 || s == t || (d == 0 && (s == 0 || s == (a.fmt.width / 8 : Nat)) && (t == 0 || t == (a.fmt.width / 8 : Nat)))

/-- Some byte of one TD is a byte of the other. -/
def TD.overlaps (own : Option Nat) (a b : TD) : Bool :=
  let bs := b.locs own
  (a.locs own).any fun x => bs.any fun y => x.1 == y.1 && decide (x.2 < y.2 + b.elemBytes ∧ y.2 < x.2 + a.elemBytes)

/-- Overlap without identity, which R128 and R172 forbid. -/
def TD.conflicts (own : Option Nat) (dst src : TD) : Bool := dst.overlaps own src && !dst.identical own src

/-- Whether a class carries only zero bits in the given ranges `(lo, width)` (RSVD under R6 and R184). -/
def rsvdZero {w : Nat} (s : BitVec w) (rs : List (Nat × Nat)) : Bool := rs.all fun (lo, n) => nbits s.toNat lo n == 0

end Sys2Proof.Machine
end

