-- ==== Sys2Proof/Machine/CorState.lean ====
section
/-!
DEFINITION. The state of a corrector, the per-forme optimiser update unit (chapter 9), and of the proofreader (chapter 8).
-/
namespace Sys2Proof.Machine

/-- A chunk of a slow-tier APPLY in flight (R263). -/
structure CorChunk where
  idx    : Nat
  slot   : Nat
  puts   : Bool := false         -- false: its state is on the way; true: its puts await acknowledgement
  deriving DecidableEq, Repr

/-- One context (R251): the slug it runs and how far it has come. -/
structure CorCtx where
  engine  : Nat
  entry   : QEntry
  remote  : Bool := false        -- counts toward the two remote contexts
  started : Bool := false        -- begin_apply done, or the record or reads issued
  e       : Int := 0             -- scale exponent of the slug (R257)
  next    : Nat := 0             -- next chunk to park
  chunks  : List CorChunk := []
  doneCh  : Nat := 0             -- chunks whose writes are complete
  row     : List W32 := []       -- FACTORED row and column factors, updated
  col     : List W32 := []
  outW    : Tab W32 := []        -- new master weights by element index
  outM    : Tab W32 := []        -- new moments
  fail    : Bool := false        -- R264: no further chunk is finished
  waitPeer : Bool := false       -- FP_EXCHANGE at step 3 of R267
  fpW     : W64 := 0
  fpS     : W64 := 0
  desc    : BitVec 1024 := 0     -- the shard descriptor, read once when the slug begins (R246)
  hyper   : BitVec 512 := 0      -- the hyperparameter block of an APPLY, read once when it begins (R254)
  head    : BitVec 1024 := 0     -- the header of a delta block or shard image, or the descriptor of the reference (R261, R270, R272)
  deriving DecidableEq, Repr

/-- E, S and LMAX of one layer (R257). -/
structure LayerExp where
  e    : Int := 0
  s    : W64 := 0
  lmax : Option Int := none
  deriving DecidableEq, Repr

/-- One corrector. -/
structure Corrector where
  ctxs    : List CorCtx := []
  layers  : Tab LayerExp := []
  turn    : Nat := 0             -- engine served last (R251)
  clip    : BitVec 48 := 0
  remoteBytes : BitVec 48 := 0
  banks   : Tab BankQ := []      -- its requests at HBM banks (R210, R253)
  deriving DecidableEq, Repr

/-- The proofreader's device state (R233, R236, R237, R240 to R243). -/
structure Proofreader where
  mean      : W32 := 0
  var       : W32 := 0
  n         : BitVec 32 := 0
  action    : Bool := false      -- RECORD_HOLD
  nfAsSpike : Bool := false
  hold      : Bool := false
  spiked    : Bool := false
  layerSel  : Nat := 0
  layerNan  : Tab Nat := []      -- 32-bit saturating counts by layer
  layerInf  : Tab Nat := []
  seen      : List (Nat × BitVec 48 × BitVec 48) := []   -- counts per engine at the last LOSS_TEST that tested a loss
  deriving DecidableEq, Repr

end Sys2Proof.Machine
end

