-- ==== Sys2Proof/Machine/FabState.lean ====
section
/-!
DEFINITION. The state of the Adeane fabric unit: ports and their link layer, the routing and role tables, outstanding
requests, watches, collectives and all-to-all exchanges in progress, and the management queue (chapter 10).
-/
namespace Sys2Proof.Machine

/-- One frame on a link (R283, R284, R286). CONTROL and NAK frames have no transport header. -/
structure FabFrame where
  link    : BitVec 64
  thdr    : Option (BitVec 256) := none
  payload : List Byte := []
  trailer : BitVec 64 := 0
  deriving DecidableEq, Repr

/-- FAB_PORT_STATUS.STATE (R299). -/
inductive PortState
  | down | training | up | ethernet
  deriving DecidableEq, Repr

/-- A frame that waits in front of a port, in the class it had before the hop, and the dateline bit of its path (R292, R293). -/
structure OutFrame where
  frame : FabFrame
  dl    : Bool
  via   : Option Nat := none     -- the port in whose receive buffer a forwarded frame lies until it leaves (R287)
  deriving DecidableEq, Repr

/-- A frame that has reached this device and waits to be performed: the port it came by, none for a frame of the device to itself. -/
structure Delivered where
  port    : Option Nat
  thdr    : BitVec 256
  payload : List Byte
  deriving DecidableEq, Repr

/-- One port (R281 to R299). -/
structure Port where
  state     : PortState := .down
  retrain   : Bool := false      -- an up link that retrains: its frames are held (R282)
  width     : Nat := 4           -- lanes in use: 1, 2 or 4
  badLanes  : List Nat := []
  disable   : Bool := false
  peerId    : Nat := 0
  peerPort  : Nat := 0
  domainErr : Bool := false
  wentDown  : Bool := false
  replays   : BitVec 32 := 0
  txSeq     : BitVec 16 := 0     -- LSEQ of the next DATA frame sent
  rxSeq     : BitVec 16 := 0     -- LSEQ expected
  retry     : List FabFrame := []    -- unacknowledged DATA frames, oldest first
  outq      : List OutFrame := []    -- DATA frames that wait for credits or for the end of training
  nakRun    : Nat := 0           -- replays of the oldest frame without acknowledgement
  credits   : List Nat := [1024, 1024, 768, 768, 512]   -- free 64-byte units at the far end, by VC
  hbSeq     : BitVec 32 := 0
  trained   : Bool := false      -- training has completed and HEARTBEATs are counted (R296)
  hbSeen    : Nat := 0           -- matching HEARTBEATs since training completed
  masked    : Bool := true       -- R297
  txFrames  : BitVec 48 := 0
  rxFrames  : BitVec 48 := 0
  txBytes   : BitVec 48 := 0
  rxBytes   : BitVec 48 := 0
  deriving DecidableEq, Repr

/-- An outstanding fabric request of the device (R284, R298, R302): the frame as sent, who waits for it, and the answer. -/
structure FabReq where
  num     : Nat := 0             -- order in which the device made the request
  txn     : Nat
  thdr    : BitVec 256
  payload : List Byte
  engine  : Nat                  -- engine whose slug waits
  entry   : Nat                  -- queue entry of that slug
  key     : Nat := 0             -- what the bytes are for, as the slug's own meaning numbers them
  port    : Option Nat := none
  resends : Nat := 0
  delayed : Bool := false        -- waits for its backoff delay (R302)
  queued  : Bool := false        -- not issued yet: it waits for a slot, a TXN, or an earlier request to its location (R209, R284, R318)
  stale   : Bool := false        -- an invalidation of what it reads has arrived since it was issued (R203)
  orphan  : Bool := false        -- its slug has ended: the RESPONSE is taken and forgotten
  answer  : Option (Status × List Byte) := none
  deriving DecidableEq, Repr

/-- A watch on one 128-byte line (R203). -/
structure Watch where
  line    : Nat
  device  : Nat
  unit    : Nat
  deriving DecidableEq, Repr

/-- A write or atomic performed but for its watchers' acceptance; the RESPONSE goes out when `waits` is empty (R304). -/
structure HeldResp where
  waits : List Nat               -- numbers of the INVAL requests
  role  : Option Nat := none     -- the role whose entry accepted the frame (R303)
  resp  : BitVec 256             -- the RESPONSE's transport header
  data  : List Byte
  deriving DecidableEq, Repr

/-- A collective call in progress (R308 to R312). -/
structure Coll where
  engine   : Nat
  entry    : Nat
  tag      : Nat
  count    : Nat
  op       : Nat
  members  : List Nat
  rank     : Nat
  elems    : Nat                 -- E of R308
  int      : Bool
  sig      : W64
  contribs : Tab W64 := []       -- element i, rank r at 4096 i + r: FP32 or INT64 contribution, in the leader
  led      : Nat := 0            -- elements whose group sum this member has formed as a leader
  gsums    : Tab (BitVec 128) := []   -- element i, group g at 4096 i + g, in the owner
  gathered : Tab Nat := []       -- element i: its bits as ALL_GATHER delivers them
  stage    : Nat := 0            -- 0 REDUCE_SCATTER part, 1 ALL_GATHER part, 2 outputs stored
  deriving DecidableEq, Repr

/-- A collective frame that arrived before its member issued the call. -/
structure EarlyFrame where
  thdr    : BitVec 256
  payload : List Byte
  deriving DecidableEq, Repr

/-- An all-to-all in progress (R313 to R316). -/
structure A2A where
  engine  : Nat
  entry   : Nat
  sig     : W64
  combine : Bool
  members : List Nat
  rank    : Nat
  tag     : Nat
  count   : Nat
  first   : Nat
  roles   : Nat
  marks   : List (Nat × Nat) := []    -- (role, sender rank) of the marks that have arrived
  deriving DecidableEq, Repr

/-- Who is told that a role entry write has completed (R303, R513, R538). -/
inductive RoleAck
  | path (n : Nat)               -- ROLE_BUSY of an access path
  | msg (dst seq port : Nat) (linkLocal : Bool)   -- a REG_RESP, over the same link where the message was LINK_LOCAL
  deriving DecidableEq, Repr

/-- A management message in the overseer's queue (R319, R321). -/
structure MgmtMsg where
  src     : Nat
  port    : Nat
  linkLocal : Bool
  mtype   : Nat
  seq     : Nat
  part    : Nat := 0
  payload : BitVec 512
  deriving DecidableEq, Repr

/-- The role snapshot and selectors of one access path (R513). -/
structure PathRegs where
  rtSel    : Nat := 0
  roleSel  : Nat := 0
  roleSnap : BitVec 128 := 0
  roleBusy : Bool := false
  deriving DecidableEq, Repr

/-- The fabric of the device. -/
structure Fabric where
  ports     : List Port := List.replicate 16 {}
  deviceId  : Nat := 0
  domainId  : Nat := 0
  idValid   : Bool := false
  assigned  : Bool := false
  routes    : Tab (BitVec 32) := []
  ownRoute  : Bool := false          -- the imposition has no FAB_ROUTES: the own entry stands at the device's id (R460)
  roles     : Tab (BitVec 128) := []
  reqs      : List FabReq := []
  nextTxn   : Nat := 0
  nextReq   : Nat := 0               -- number of the next request
  watches   : List Watch := []
  held      : List HeldResp := []
  inbox     : List Delivered := []   -- frames that wait to be performed here, oldest first
  roleAcks  : List (Nat × RoleAck) := []   -- role writes that wait for frames accepted before them (R303)
  mgmtSeq   : Nat := 0               -- sequence number of the next message of MGMT_SEND
  calls     : Tab Nat := []          -- calls issued per GROUP_TAG (R308)
  colls     : List Coll := []
  early     : List EarlyFrame := []
  a2as      : List A2A := []
  retRows   : Tab Nat := []          -- rows of sender s of role r at 4096 r + s, as its mark carried it (R316)
  mgmt      : List MgmtMsg := []     -- oldest first
  mgmtDropped : BitVec 48 := 0
  roleMoved : BitVec 48 := 0
  a2aDropped : List (BitVec 48) := List.replicate 4 0
  replay    : List (BitVec 48) := List.replicate 4 0
  stomp     : List (BitVec 48) := List.replicate 4 0
  fwdFrames : List (BitVec 48) := List.replicate 4 0
  hostPath  : PathRegs := {}
  mgmtPath  : PathRegs := {}
  corePath  : PathRegs := {}
  deriving DecidableEq, Repr

end Sys2Proof.Machine
end

