-- ==== Sys2Proof/Machine/HostState.lean ====
section
/-!
DEFINITION. The state of the host port: the CXL link, the host-coherent line cache and its pin table, outstanding CXL.cache
requests, the session and the host's memory as far as it has been seen (chapter 11).
-/
namespace Sys2Proof.Machine

/-- Line states of R328; an INVALID line is not listed. -/
inductive HLState
  | modified | exclusive | shared
  deriving DecidableEq, Repr

/-- One line of the host-coherent line cache, or of its pin table. -/
structure HLine where
  state   : HLState
  data    : BitVec 512
  pinned  : Bool := false
  recency : Nat := 0
  ue      : Bool := false        -- a double-bit error lies in the line (R328)
  deriving DecidableEq, Repr

/-- CXL.cache requests that wait for a response (R329). -/
inductive HReqKind
  | rdShared | rdOwn | rdOwnNoData
  deriving DecidableEq, Repr

/-- An outstanding request of an engine's slug: the queue entry that waits, and the host's answer once it has come. -/
structure HReq where
  line   : Nat
  kind   : HReqKind
  engine : Nat
  entry  : Nat
  answer : Option (BitVec 512 × Bool) := none    -- data and poison
  stale  : Bool := false                         -- a fence has completed since the answer (R205)
  deriving DecidableEq, Repr

/-- HCTL_STATUS.STATE (R341). -/
inductive HctlState
  | detached | attaching | attached | detaching
  deriving DecidableEq, Repr

/-- One MSI-X vector: its table entry and pending bit (R517). -/
structure Msix where
  addr    : W64 := 0
  data    : BitVec 32 := 0
  control : BitVec 32 := 1       -- bit 0 masks the vector
  pending : Bool := false
  deriving DecidableEq, Repr

/-- What the configuration space shows of the function (R323, R324); no field can be changed. -/
structure CfgSpace where
  headerType   : Nat := 0
  classCode    : BitVec 24 := 0x120000   -- processing accelerator
  cacheCapable : Bool := true            -- CXL DVSEC
  ioCapable    : Bool := true
  memCapable   : Bool := false
  cacheBytes   : Nat := 0x800000         -- reported cache size
  flexBus      : Bool := true            -- Flex Bus Port DVSEC
  bar0Bytes    : Nat := 0x10000          -- the host register window
  bar64        : Bool := true
  barPrefetch  : Bool := false
  msixVectors  : Nat := 16
  msixTable    : Nat × Nat := (0, 0x1E00)   -- BAR and offset of the table, and of the pending-bit array
  msixPba      : Nat × Nat := (0, 0x1F00)
  aer          : Bool := true
  doe          : List Nat := [0, 1]      -- DOE discovery and CMA/SPDM object types (PRESUMED, log entry 33)
  deriving DecidableEq, Repr

/-- The host port. -/
structure HostPort where
  l0          : Bool := false        -- the link is in L0
  rate        : Nat := 0             -- GT/s
  width       : Nat := 0
  cxl         : Bool := false        -- the negotiation has selected CXL (R326)
  cxlCache    : Bool := false        -- CXL.cache is used (R326)
  refclk      : Bool := false        -- REFCLK_CXL is present (R524)
  training    : Bool := false        -- CD-CXL runs, so link training may run (R524)
  bme         : Bool := false        -- Bus Master Enable
  lines       : Tab HLine := []      -- by line number (address ÷ 64)
  recency     : Nat := 0
  reqs        : List HReq := []
  unpins      : List Nat := []       -- lines pinned no more, whose CleanEvict cannot be issued yet (R327)
  mem         : List Host.Cell := [] -- the host's memory as last seen; zero where unlisted (DESIGN CHOICE, log entry 9)
  poison      : List Nat := []       -- lines the host answers with poison
  attachAddr  : W64 := 0
  attachOp    : Nat := 0             -- OP written since the previous loop (R340)
  state       : HctlState := .detached
  busy        : Bool := false
  closing     : Bool := false        -- a detach writes line 1 of each ring a last time (R343)
  lost        : Bool := false
  result      : Nat := 0
  session     : Nat := 0             -- epoch of the current or last session
  inForce     : Bool := false
  wrDropped   : BitVec 48 := 0
  linesDiscarded : BitVec 48 := 0
  recordsDiscarded : BitVec 48 := 0
  snoops      : BitVec 48 := 0
  hits        : BitVec 48 := 0
  misses      : BitVec 48 := 0
  msix        : List Msix := List.replicate 16 {}
  cfg         : CfgSpace := {}
  deriving DecidableEq, Repr

end Sys2Proof.Machine
end

