-- ==== Sys2Proof/Machine/Imposition.lean ====
section
/-!
DEFINITION. The imposition fields in force (R454, R461, R536 and the home chapters), with the defaults that the home chapters
give. A cold start replaces them from the verified image.
-/
namespace Sys2Proof.Machine

structure Imposition where
  engExpert : Bool := false
  prfExpert : Bool := false
  pwrExpert : Bool := false
  rstExpert : Bool := false
  fabExpert : Bool := false
  cringLog2 : Nat := 10
  cringBase : Nat := 0x00FFFC000000
  pltScratch : Nat := 8
  pltSpike  : Nat := 8
  prfK      : W32 := 0x40C00000#32
  prfAlphaLog2 : Nat := 7
  prfWarmup : Nat := 50
  prfAction : Bool := false
  prfNfAsSpike : Bool := false
  corFpInterval : Nat := 100
  corFpTimeout  : Nat := 1000
  fabDomainId : Nat := 0
  fabDeviceId : Nat := 0
  fabAssigned : Bool := false
  fabEth    : List Bool := [false, false, false, false]   -- FAB_P12_MODE to FAB_P15_MODE
  fabHopLimit : Nat := 15
  fabReqTimeout : Nat := 20
  fabRoleRetries : Nat := 16
  fabCollTimeout : Nat := 10000
  fabManagers : List Nat := []
  dsMacBase : Nat := 0
  dsIps     : List Nat := [0, 0, 0, 0]    -- DS_IP_P12 to DS_IP_P15
  dsPfcPrio : Nat := 3
  dsHostNqn : List Byte := []
  dsKatoMs  : Nat := 10000
  dsReconnectMs : Nat := 5000
  quiesceMs : Nat := 10
  thermDrainMs : Nat := 20
  bondTestMs : Nat := 16
  bondProactive : Bool := true
  wearRated : Nat := 20000
  wearWarnPct : Nat := 50
  wearAlarmPct : Nat := 80
  pwrDefaultW : Nat := 2200
  alarmSubs : List Nat := []
  deriving DecidableEq, Repr

end Sys2Proof.Machine
end

