-- ==== Sys2Proof/Machine/SysState.lean ====
section
/-!
DEFINITION. The state of the vertical connections (chapter 13), the resets and clocks (chapter 14), power and temperature (chapter 15),
the overseer (chapter 16), the recorder and the counters (chapters 17 and 18), and the board: what survives loss of power.
-/
namespace Sys2Proof.Machine

/-! ### Vertical connections (R383 to R401) -/

/-- The sender and the receiver of a data bundle (R385): the number of the next flit, the replay buffer, and the flits accepted. -/
structure FlitLink where
  next   : Nat := 0
  replay : List Nat := []                -- flits sent and not acknowledged, oldest first, at most four
  got    : Nat := 0
  deriving DecidableEq, Repr

/-- A bundle's lane map and mode (R384), its weak lanes, its flits, and its counts. -/
structure Bundle where
  out       : List Nat := []             -- lanes mapped out, rising
  half      : Bool := false
  lost      : Bool := false
  weak      : List Nat := []             -- weak lanes left in use
  transient : Option Nat := none         -- OVS_TIME of the last transient control error (R393)
  crcFails  : BitVec 48 := 0
  crcTimes  : List Nat := []             -- OVS_TIME of the CRC failures of the last 1 ms, at most 17 (R389)
  flits     : FlitLink := {}
  deriving DecidableEq, Repr

/-- Direction of the wear tracker (R396). -/
inductive WearDir
  | none_ | up | down
  deriving DecidableEq, Repr

/-- The wear tracker of a forme, in units of 0.125 °C as R442 codes readings, and the thresholds passed (R396 to R398). -/
structure Wear where
  started : Bool := false                -- ext is a reading
  ext     : Nat := 0
  cand    : Nat := 0
  dir     : WearDir := .none_
  wear    : Nat := 0
  warn    : Bool := false
  alarm   : Bool := false
  limit   : Bool := false
  deriving DecidableEq, Repr

/-! ### Resets (R413 to R424) -/

/-- Stages of a bed-domain reset (R417): asked for, marked in BED_RESETTING, past step 3 and waiting for READY, or READY and waiting
for the overseer's next loop. -/
inductive BedStage
  | asked | marked | waiting | ready
  deriving DecidableEq, Repr

structure BedReset where
  code   : Nat
  clear  : Bool                          -- mode CLEAR, or forced
  stage  : BedStage := .asked
  before : BitVec 48 := 0                -- the domain's PATH_RESET count as its reset began
  deriving DecidableEq, Repr

/-- Stages of a forme reset (R420): asked for, quiescing, past step 4 and waiting for its end. -/
inductive FormeStage
  | asked | quiescing | waiting
  deriving DecidableEq, Repr

structure FormeReset where
  forme  : Nat
  forced : Bool := false
  stage  : FormeStage := .asked
  device : Bool := false                 -- part of a device reset (R422)
  deriving DecidableEq, Repr

/-- A reset requested through RST_REQ that has not completed, by its span: KIND and TARGET as R423 codes them, and whether BUSY stands for it
(R415, R424). -/
structure ResetWant where
  kind   : Nat
  target : Nat
  busy   : Bool
  deriving DecidableEq, Repr

/-- The reset registers (R423, R424) and the resets in progress. -/
structure Resets where
  wants    : List ResetWant := []
  kind     : Nat := 0
  target   : Nat := 0
  forced   : Bool := false
  done     : Bool := false
  result   : Nat := 0
  engines  : List Nat := []              -- engine resets asked for
  retiring : List Nat := []              -- engine resets that retire their engine (R394)
  beds     : List BedReset := []
  formes   : List FormeReset := []
  device   : Bool := false               -- a device reset is asked for or in progress
  locked   : BitVec 25 := 0              -- CLK_STATUS.LOCKED (R407)
  lostLock : BitVec 25 := 0
  pathCount : Tab (BitVec 48) := []      -- PATH_RESET count by domain code
  stretched : Nat := 0                   -- clock spines whose droop stretch holds (R437)
  droops   : BitVec 48 := 0
  deriving DecidableEq, Repr

/-- RST_STATUS.BUSY: an engine, forme or device reset requested through RST_REQ is in progress, or one that has absorbed a request (R424). -/
def Resets.busy (r : Resets) : Bool := r.wants.any (·.busy)

/-! ### Power and temperature (R426 to R452) -/

/-- Pacer cycles of the engines in service, as counted so far for slack reports (R431). -/
structure Slack where
  cycles   : Nat := 0                    -- of the ARRAY, VECTOR, MOVE and SPIKE units
  recv     : Nat := 0                    -- their FABRIC_RECV
  throttle : Nat := 0                    -- their THROTTLE
  array    : Nat := 0                    -- of the ARRAY units
  busy     : Nat := 0                    -- their BUSY
  deriving DecidableEq, Repr

/-- A sender's lease (R427, R431). -/
structure Lease where
  sender : Nat
  limit  : Nat                           -- LIMIT_W, clamped
  left   : Option Nat                    -- ms to its end; none without expiry
  slack  : Nat := 0                      -- SLACK_MS
  since  : Nat := 0                      -- ms since the last report
  seq    : Nat := 0                      -- reports sent since the lease began
  wSum   : Nat := 0                      -- measured power summed since the last report
  slackAt : Slack := {}                  -- the totals at the last report, or at the lease's beginning
  deriving DecidableEq, Repr

/-- What the overseer holds of a rail's sensor (R439): its last value in µW, the windows that have given it, and whether the load has changed
meanwhile. -/
structure Rail where
  value : Nat := 0
  run   : Nat := 0
  moved : Bool := false
  deriving DecidableEq, Repr

/-- Power and temperature of one forme (R432, R443). -/
structure FormePower where
  step    : Nat := 12                    -- VDD_PRESS step; the regulator holds 0.750 V until its first frame
  ceil    : Nat := 20                    -- CEILn
  therm   : Nat := 20                    -- thermal ceiling
  level   : Nat := 0                     -- thermal level
  hot     : Bool := false                -- THROTTLED
  cool    : Nat := 0                     -- ms since the ceiling last rose
  est     : Nat := 0
  seen    : List Nat := List.replicate 10 0   -- the event counts at the last fast loop (R438)
  pvidSeq : BitVec 4 := 0
  pvidTries : Nat := 0                   -- sends of a frame that has not been echoed
  echoed  : Nat := 12                    -- last echoed step
  heldAt  : Bool := false                -- held at its last echoed step (R521)
  low     : Bool := false                -- the undervoltage detector has parked the engines (R405)
  deriving DecidableEq, Repr

/-- PWR_STATUS.MODE (R440, R441). -/
inductive PwrMode
  | normal | measuredOnly | floor
  deriving DecidableEq, Repr

/-- Stages of an orderly stop (R445). -/
inductive StopStage
  | none_ | draining | stopped
  deriving DecidableEq, Repr

structure Power where
  localCeil : Nat := 2500
  leases    : List Lease := []
  eff       : Nat := 2200                -- L
  formes    : List FormePower := List.replicate 4 {}
  nRead     : Nat := 0                   -- frequency steps of R434
  nPlt      : Nat := 0
  nBase     : Nat := 0
  cap       : Nat := 0                   -- cap level
  capSum    : Nat := 0                   -- cap levels since the last loop, and their number
  capCount  : Nat := 0
  estSum    : Nat := 0                   -- estimates since the last loop, and their number
  estCount  : Nat := 0
  slack     : Slack := {}                -- pacer cycles counted so far
  meas      : Nat := 0                   -- M of the last complete window
  est       : Nat := 0                   -- its mean estimate
  window    : Bool := false              -- a window has ended that the fast loop has not used (R440)
  mode      : PwrMode := .normal
  unmetRun  : Nat := 0                   -- windows above the target at the floor
  unmet     : Bool := false
  disagree  : Nat := 0                   -- consecutive disagreeing windows
  agree     : Nat := 0                   -- consecutive agreeing windows, at most 100
  moEntered : Bool := false
  sensor    : Bool := false              -- SENSOR_FAULT
  kFixed    : Bool := false
  rails     : List Rail := List.replicate 13 {}
  badRails  : BitVec 13 := 0             -- rails, in the order of R520, whose sensor is faulty
  tjMax     : Nat := 0
  temps     : List Nat := []             -- the last readings, forme × 28 + index
  hbm       : List Nat := List.replicate 16 512   -- last stack readings
  refresh2  : List Bool := List.replicate 16 false
  badSensors : List Nat := []            -- faulty temperature sensors
  selfRefresh : List Bool := List.replicate 16 false   -- stacks in self-refresh (R417, R420, R445)
  stop      : StopStage := .none_
  drainMs   : Nat := 0
  deviceStop : Bool := false             -- the stop is that of R482
  forceAll  : Bool := false              -- a unit error has arrived during it
  stops     : BitVec 48 := 0             -- DEVICE_STOPS
  trip      : Option (Nat × Nat) := none -- latched sensor and reading (R446)
  tripNoted : Bool := false              -- the last-run record holds it (R490)
  thermtrip : Bool := false              -- THERMTRIP_N is low
  deriving DecidableEq, Repr

/-! ### The overseer (R454 to R472) -/

/-- OVS_STATUS.STATE (R471). -/
inductive OvsState
  | rom | loading | starting | running | recovery
  deriving DecidableEq, Repr

/-- IMP_UPDATE_STATUS.STATE (R469). -/
inductive UpdStage
  | idle | copying | verifying | committing
  deriving DecidableEq, Repr

/-- The update registers and the update in progress (R469, R470). -/
structure Update where
  addr     : W64 := 0
  asked    : Bool := false               -- a START waits for the overseer's next loop
  stage    : UpdStage := .idle
  space    : Nat := 0
  cert     : Bool := false
  len      : Nat := 0
  deferred : Bool := false
  done     : Bool := false
  result   : Nat := 0
  progress : Nat := 0
  buf      : List Byte := []             -- the certificate chain as read, or the sector being copied
  certStep : Nat := 0                    -- COMMITTING of a chain: 0 erases the area, 1 programs it, 2 reads it back (R470)
  deriving DecidableEq, Repr

/-- CLR_CTL.STATE and the clear in progress (R493, R494). -/
inductive ClrStage
  | idle | checking | clearing
  deriving DecidableEq, Repr

structure Clearing where
  addr     : W64 := 0
  asked    : Bool := false               -- a START waits for the overseer's next loop
  stage    : ClrStage := .idle
  space    : Nat := 0
  deferred : Bool := false
  done     : Bool := false
  result   : Nat := 0
  nonce    : BitVec 256 := 0
  token    : List Byte := []
  cutoff   : Nat := 0
  target   : Nat := 0
  logged   : Bool := false               -- its entry stands in the clear log
  deriving DecidableEq, Repr

/-- The I3C target (R472). -/
structure I3c where
  dyn     : Option (BitVec 7) := none
  ibi     : Bool := false
  index   : BitVec 8 := 0
  flashTemp : Nat := 0                   -- the board controller's last report
  flashAge  : Option Nat := none         -- its age in ms, none before the first
  deriving DecidableEq, Repr

/-- The SPDM responder (R349). -/
structure Spdm where
  version : Bool := false                -- GET_VERSION has been answered
  caps    : Bool := false
  algs    : Bool := false
  deriving DecidableEq, Repr

/-- What the overseer holds of the running image (R454, R465, R471). -/
structure Ovs where
  state    : OvsState := .rom
  slot     : Nat := 0
  trial    : Bool := false
  reverted : Bool := false
  svn      : Nat := 0
  raiseSvn : Bool := false
  image    : List Byte := []             -- the verified imposition
  ospiLow  : Bool := true                -- OSPI_RESET_N is held low (R523)
  badWords : List (OvsMem × Nat) := []   -- 64-bit words of the SRAM with two bits upset (R454)
  certOk   : Bool := false
  confirm  : Bool := false               -- a CONFIRM waits for the temperature bound
  time     : Nat := 0                    -- CD-OVS cycles since the last cold start
  loops    : Nat := 0
  late     : BitVec 48 := 0
  lastWarm : Option Nat := none          -- OVS_TIME of the last warm restart
  boot     : Nat := 0                    -- BOOT, which the folio store takes once its bound is met
  clearTrip : Bool := false              -- TRIPPED has been reported and is to be cleared (R490)
  folioTemp : Nat := 712                 -- last reading of the folio store's sensor
  upd      : Update := {}
  clr      : Clearing := {}
  i3c      : I3c := {}
  spdm     : Spdm := {}
  deriving DecidableEq, Repr

/-! ### The recorder and the counters (R483 to R500) -/

/-- An event record of 256 bytes (R483). -/
abbrev RecWord := BitVec 2048

/-- One alarm slot (R495). -/
structure AlarmSlot where
  event   : Nat
  dom     : Nat                          -- DOMAIN code, 3 for a shared slot
  domId   : Nat
  sev     : Nat
  source  : Nat
  count   : Nat := 0                     -- occurrences since the last delivery
  first   : Nat := 0                     -- SEQ of the first of them
  last    : Nat := 0                     -- SEQ of the last occurrence, and its OVS_TIME and DETAIL
  time    : Nat := 0
  detail  : List W64 := []
  wait    : Nat := 0                     -- ms until it may be delivered again
  deriving DecidableEq, Repr

structure Recorder where
  ring     : Tab RecWord := []           -- by slot, SEQ mod 4,096
  nextSeq  : Nat := 1
  head     : Nat := 0                    -- EVR_HEAD
  ack      : W64 := 0
  page     : Nat := 0
  area     : Nat := 0
  irqEn    : Bool := false
  irqVec   : Nat := 0
  lost     : BitVec 48 := 0
  lostNew  : Bool := false
  alarms   : List AlarmSlot := []
  latest   : BitVec 128 := 0             -- I3C alarm summary
  coalesced : BitVec 48 := 0
  trcOn    : Bool := false
  trcMin   : Nat := 0
  trcSink  : Nat := 0
  traces   : List (Nat × Nat × RecWord) := []   -- TRACE_SEQ, gap, record
  trcSeq   : Nat := 0
  trcGap   : Nat := 0
  trcDropped : BitVec 48 := 0
  mirror   : List RecWord := []          -- records that wait for the folio store
  mirrorDropped : BitVec 48 := 0
  mapDirty : Bool := false               -- the bond map waits for the folio store (R391, R448)
  wearMs   : Nat := 1000                 -- ms since the wear tracker was last written (R397)
  deriving DecidableEq, Repr

/-- A counter scope's shadows (R499, R515). -/
structure Shadows where
  fixed   : List (BitVec 48) := List.replicate 4 0
  sel     : List (BitVec 48) := []
  stall   : List (BitVec 48) := List.replicate 64 0
  latched : Bool := false
  deriving DecidableEq, Repr

structure Counters where
  forme   : List (List SelCnt) := List.replicate 4 (List.replicate 8 {})
  device  : List SelCnt := List.replicate 16 {}
  engSh   : List Shadows := List.replicate 64 { sel := List.replicate 8 0 }
  formeSh : List Shadows := List.replicate 4 { sel := List.replicate 8 0 }
  devSh   : Shadows := { sel := List.replicate 16 0 }
  hbmRd   : List (BitVec 48) := List.replicate 16 0
  hbmWr   : List (BitVec 48) := List.replicate 16 0
  hbmCe   : List (BitVec 48) := List.replicate 4 0
  gutter  : List (BitVec 48) := List.replicate 16 0   -- from forme f to forme g at 4 f + g
  deriving DecidableEq, Repr

/-! ### The board: what survives loss of power -/

/-- The last-run record (R490). -/
structure LastRun where
  boot    : Nat := 0
  time    : Nat := 0
  tjMax   : Nat := 0
  mode    : Nat := 0
  state   : Nat := 0
  tripped : Option (Nat × Nat) := none
  deriving DecidableEq, Repr

/-- A clear log entry (R493). -/
structure ClearEntry where
  cutoff   : Nat
  boot     : Nat
  time     : Nat
  target   : Nat
  complete : Bool
  emptied  : Nat
  digest   : BitVec 256
  deriving DecidableEq, Repr

/-- The folio store (R488 to R491): the protected area and the two record areas. -/
structure Folio where
  bonds    : Tab Bundle := []            -- bond map, by engine × 256 + bundle
  retired  : List (Nat × Nat) := []      -- retired engines and their causes
  wear     : List Wear := List.replicate 4 {}
  nextSeq  : Nat := 1
  boot     : Nat := 0
  lastRun  : LastRun := {}
  clears   : List ClearEntry := []
  first    : List RecWord := []
  roll     : Tab RecWord := []
  rollNext : Nat := 0
  overwrites : Nat := 0
  deriving DecidableEq, Repr

/-- Fuses that the device itself blows (R463). -/
structure Fuses where
  ownerHash : Option (BitVec 512) := none
  svnMin    : Nat := 0
  revoke    : BitVec 4 := 0
  lanes     : Tab Bundle := []           -- lanes mapped out at test, by engine × 256 + bundle (R387)
  deriving DecidableEq, Repr

/-- The non-volatile parts: imposition flash, folio store and fuses. -/
structure Board where
  flash : List Host.Cell := []           -- unlisted bytes are erased, 0xFF
  folio : Folio := {}
  fuses : Fuses := {}
  deriving DecidableEq, Repr

end Sys2Proof.Machine
end

