-- ==== Sys2Proof/Machine/State.lean ====
section
/-!
DEFINITION. The state of the KS4: the chip, and the queue of commands that wait.
-/
namespace Sys2Proof.Machine

/-- The directory entry of one HBM line: the engines whose caches hold it as DEMAND or TRACKED (R199). -/
structure DirEntry where
  line    : Nat                  -- byte address ÷ 128
  engines : List Nat
  recency : Nat
  deriving DecidableEq, Repr

/-- Everything the block holds but its non-volatile storage and its command queue. DESIGN CHOICE, log entry 10. -/
structure Chip where
  mem      : Mem := {}
  ue       : List Nat := []      -- protected units that hold an uncorrectable error, by first address (R535)
  engines  : List Engine := List.replicate 64 {}
  dir      : List DirEntry := []
  dirClock : Nat := 0
  dirEvict : List (BitVec 48) := List.replicate 4 0
  bankTurn : Tab Nat := []       -- by bank as in R207: the engine served last (R210)
  host     : HostPort := {}
  fab      : Fabric := {}
  cors     : List Corrector := List.replicate 4 {}
  prf      : Proofreader := {}
  imp      : Imposition := {}
  ds       : DataSvc := {}
  bonds    : Tab Bundle := []    -- the bond map in force, by engine × 256 + bundle (R388)
  lanes    : Tab BundleTest := []   -- what a test measures on a bundle now, keyed as the bond map; a bundle that is not listed is sound
  bondChanged : List Nat := []   -- engines whose STK_BOND_ENG.CHANGED is set
  wear     : List Wear := List.replicate 4 {}
  rst      : Resets := {}
  pwr      : Power := {}
  ovs      : Ovs := {}
  evr      : Recorder := {}
  cnts     : Counters := {}
  standby  : Bool := true        -- the standby rails are up (R526)
  waitCold : Bool := true        -- RESET_N or PWRGD is low: the next cold start has not begun (R527)
  formesUp : Bool := false       -- the formes have started (step 6 of R466, R507)
  seed     : W64 := 0            -- RNG_SEED (R275)
  evq      : List Event := []    -- events the overseer has not recorded yet, oldest first
  episodes : List Episode := []
  nextEpisode : Nat := 1
  handlings : List Handling := []    -- handling that unit errors have asked for and no reset has begun (R481)
  domDown  : List Nat := []      -- bed-domain codes of R417 that are in reset
  formeDown : List Nat := []     -- formes whose bed die is in reset (step 4 of R420)
  free     : Nat := 0            -- index of the next free value (the model's own)
  sent     : List Sent := []     -- what has left the device, newest first
  deriving DecidableEq, Repr

/-- The state: the chip, the non-volatile storage of its board and package, and the commands waiting, first in, first out. -/
structure State where
  chip    : Chip := {}
  board   : Board := {}
  pending : List Instr := []
  deriving DecidableEq, Repr

/-- The machine right after reset. DESIGN CHOICE, log entry 3. -/
def State.reset : State := {}

/-- Reasons to stop with a fault. No meaning raises one: every stop the manual names is an effect on the state. -/
inductive Fault
  /-- Raised by no meaning: every stop the manual names is an effect on the state; safe. -/
  | none
  deriving DecidableEq, Repr

/-- Reasons to refuse a command. -/
inductive Refusal
  /-- Raised by the arms of a command that has no meaning yet; safe. -/
  | notModelled (mnemonic : String)
  deriving DecidableEq, Repr

end Sys2Proof.Machine
end

