-- ==== Sys2Proof/Machine/Ops.lean ====
section
/-!
DEFINITION. The named operations: bytes and words, memory and its canonical form, the LOCAL map (R21 to R24), free values,
events and unit errors (R477 to R481), and the accessors of engines and formes.
-/
namespace Sys2Proof.Machine

/-- The chip and the non-volatile storage, for the operations that write both. -/
structure Dev where
  chip  : Chip := {}
  board : Board := {}
  deriving DecidableEq, Repr

/-! ### Bytes and words -/

/-- The `n` little-endian bytes of a number (R4). -/
def toBytes : Nat → Nat → List Byte
  | 0, _ => []
  | n + 1, x => BitVec.ofNat 8 x :: toBytes n (x / 256)

/-- The number that little-endian bytes spell. -/
def ofBytes : List Byte → Nat
  | [] => 0
  | b :: bs => b.toNat + 256 * ofBytes bs

/-- Element `i` of a list replaced by a function of itself. -/
def modifyAt {α : Type} (f : α → α) : List α → Nat → List α
  | [], _ => []
  | x :: xs, 0 => f x :: xs
  | x :: xs, i + 1 => x :: modifyAt f xs i

/-- A run of consecutive addresses. -/
def addrRange (a n : Nat) : List Nat := (List.range n).map (a + ·)

/-! ### Memory -/

/-- The stack H0–H15 of an HBM address (R207). -/
def stackOf (a : Nat) : Nat := 4 * (a >>> 38) + (nbits a 8 2 ^^^ nbits a 24 2)

def Region.contains (r : Region) (a : Nat) : Bool :=
  match r with
  | .range lo hi => decide (lo ≤ a ∧ a < hi)
  | .stack m => decide (a < p2 40) && stackOf a == m

/-- What an address reads as when no cell lists it: the newest hole that contains it, or zero (DESIGN CHOICE, log entry 4). -/
def unlisted (a : Nat) : List Hole → Byte
  | [] => 0
  | h :: hs => if h.region.contains a then (match h.fill with | none => 0 | some n => Config.freeByte n a) else unlisted a hs

/-- The byte that a list of cells holds at an address. -/
def cellAt (a : Nat) : List Host.Cell → Option Byte
  | [] => none
  | (j, b) :: cs => if j = a then some b else cellAt a cs

/-- Cells with one address set, in order. -/
def cellSet (a : Nat) (b : Byte) : List Host.Cell → List Host.Cell
  | [] => [(a, b)]
  | (j, c) :: cs => if a < j then (a, b) :: (j, c) :: cs else if a = j then (a, b) :: cs else (j, c) :: cellSet a b cs

/-- Addresses in rising order without repeats. -/
def sortAddrs (as : List Nat) : List Nat := (as.foldl (fun cs a => cellSet a 0 cs) ([] : List Host.Cell)).map (·.1)

/-- Cells without an address. -/
def cellErase (a : Nat) (cs : List Host.Cell) : List Host.Cell := cs.filter fun c => c.1 != a

/-- Read one byte. -/
def Mem.get (m : Mem) (a : Nat) : Byte := (cellAt a m.cells).getD (unlisted a m.holes)

/-- Write one byte, keeping the canonical form: the value an unlisted address reads as is not listed. -/
def Mem.put (m : Mem) (a : Nat) (b : Byte) : Mem :=
  { m with cells := if b = unlisted a m.holes then cellErase a m.cells else cellSet a b m.cells }

/-- Give a region new contents as a whole: zero, or undefined. -/
def Mem.fillRegion (m : Mem) (r : Region) (fill : Option Nat) : Mem :=
  { cells := m.cells.filter fun c => !r.contains c.1, holes := { region := r, fill } :: m.holes }

/-- Addresses strictly rise. -/
def risingFrom : Nat → List Host.Cell → Bool
  | _, [] => true
  | lo, (a, _) :: cs => decide (lo ≤ a) && risingFrom (a + 1) cs

/-- The canonical form of a memory: rising addresses, and no cell that holds what its address reads as unlisted. -/
def Mem.wf (m : Mem) : Bool := risingFrom 0 m.cells && m.cells.all fun c => c.2 != unlisted c.1 m.holes

/-- Read `n` bytes as a little-endian number. -/
def Mem.read (m : Mem) (a n : Nat) : Nat := ofBytes ((addrRange a n).map m.get)

/-- Write consecutive bytes. -/
def Mem.write (m : Mem) (a : Nat) (bs : List Byte) : Mem :=
  (bs.zipIdx a).foldl (fun m (b, i) => m.put i b) m

/-! ### The LOCAL map (R21 to R24, R195, R196) -/

def hbmTop : Nat := p2 40
def platenBase : Nat := 0x010000000000
def bufferBase : Nat := 0x010100000000
def bufferOf (e : Nat) : Nat := bufferBase + e * 0x800000
def sliceOf (e : Nat) : Nat := platenBase + e * 0x2000000

/-- Where a LOCAL address lies. -/
inductive Place
  | hbm (stack : Nat)
  | platen (e off : Nat)
  | buffer (e off : Nat)
  | nowhere
  deriving DecidableEq, Repr

def placeOf (a : Nat) : Place :=
  if a < hbmTop then .hbm (stackOf a)
  else if platenBase ≤ a ∧ a < platenBase + 0x80000000 then .platen ((a - platenBase) >>> 25) ((a - platenBase) % 0x2000000)
  else if bufferBase ≤ a ∧ a < bufferBase + 0x20000000 then .buffer ((a - bufferBase) >>> 23) ((a - bufferBase) % 0x800000)
  else .nowhere

/-- First address of the protected unit of R535 that holds an address: 64 bytes in HBM, 8 bytes elsewhere. -/
def unitOf (a : Nat) : Nat := if a < hbmTop then a / 64 * 64 else a / 8 * 8
def unitBytes (a : Nat) : Nat := if a < hbmTop then 64 else 8

namespace Chip

def engine (c : Chip) (e : Nat) : Engine := c.engines.getD e {}
def setEngine (c : Chip) (e : Nat) (x : Engine) : Chip := { c with engines := c.engines.set e x }
def onEngine (c : Chip) (e : Nat) (f : Engine → Engine) : Chip := c.setEngine e (f (c.engine e))
def cor (c : Chip) (f : Nat) : Corrector := c.cors.getD f {}
def onCor (c : Chip) (f : Nat) (g : Corrector → Corrector) : Chip := { c with cors := modifyAt g c.cors f }

/-- Record that something leaves the device. -/
def send (c : Chip) (x : Sent) : Chip := { c with sent := x :: c.sent }

/-- The index of a fresh free value, and the chip that has used it. DESIGN CHOICE, log entry 10. -/
def fresh (c : Chip) : Nat × Chip := (c.free, { c with free := c.free + 1 })

/-- True of an address that exists: HBM, a platen scratch part in force, or the used 6 MiB of an operand buffer block, and
not those of a retired engine (R19, R21 to R24). -/
def mapped (c : Chip) (a : Nat) : Bool :=
  match placeOf a with
  | .hbm _ => true
  | .platen e off => !(c.engine e).retired && decide (off < (c.engine e).split.scratch * 0x100000)
  | .buffer e off => !(c.engine e).retired && decide (off < 0x600000)
  | .nowhere => false

/-- The bank of an HBM address: stack × 4,096 + pseudo-channel × 64 + bank (R207). -/
def bankOf (a : Nat) : Nat := stackOf a * 4096 + (nbits a 10 6 ^^^ nbits a 26 6) * 64 + (nbits a 18 6 ^^^ nbits a 32 6)

/-- The requests at banks of a unit: engine 0–63, or 64 + the forme of a corrector (R210, R253). -/
def banksOf (c : Chip) (u : Nat) : Tab BankQ := if u < 64 then (c.engine u).banks else (c.cor (u - 64)).banks
def onBanks (c : Chip) (u : Nat) (f : Tab BankQ → Tab BankQ) : Chip :=
  if u < 64 then c.onEngine u fun x => { x with banks := f x.banks } else c.onCor (u - 64) fun k => { k with banks := f k.banks }

/-- The engine number that stands for the device's own fabric units among the waiters of requests. -/
def fabUnit : Nat := 255

/-- Free request slots of a unit, by its UNIT code: an engine has 256, which its HBM and HOST requests use too; a corrector has 256 and a
fabric unit 1,024 (R209, R253, R285). The other units are not limited. -/
def slotRoom (c : Chip) (unit : Nat) : Nat :=
  let used := (c.fab.reqs.filter fun r => r.answer.isNone && !r.queued && fld r.thdr 151 144 == unit && r.engine != fabUnit).length
  let banks (t : Tab BankQ) : Nat := (t.map fun b => b.2.queued + b.2.held).sum
  if unit < 64 then 256 - (used + (c.host.reqs.filter fun r => r.engine == unit && r.answer.isNone).length + banks (c.engine unit).banks)
  else if unit < 68 then 1024 - used
  else if unit < 72 then 256 - (used + banks (c.cor (unit - 68)).banks)
  else p2 16

/-- Free slots of a unit as its bank requests name it. -/
def bankRoom (c : Chip) (u : Nat) : Nat := c.slotRoom (if u < 64 then u else u + 4)

/-- A request joins a bank's queue up to the quota of 16, and is held in its slot beyond it (R210). -/
def BankQ.add (q : BankQ) : BankQ := if q.queued < 16 then { q with queued := q.queued + 1 } else { q with held := q.held + 1 }

/-- A unit issues a request to an HBM bank: at once while a slot is free, and otherwise once one is (R209, R210, R253). The access itself acts
at once (DESIGN CHOICE, log entry 35). -/
def bankIssue (c : Chip) (u a : Nat) : Chip :=
  if hbmTop ≤ a then c
  else c.onBanks u fun t =>
    let q := Tab.get {} t (bankOf a)
    Tab.set (bankOf a) (if 0 < c.bankRoom u then BankQ.add q else { q with late := q.late + 1 }) t

/-- A freed slot takes a request that waits for one, that of the lowest bank first (DESIGN CHOICE, log entry 35). -/
def lateIssue (c : Chip) (u : Nat) : Chip :=
  match List.find? (fun p => decide (0 < p.2.late)) (c.banksOf u) with
  | some (b, q) => if 0 < c.bankRoom u then c.onBanks u (Tab.set b { BankQ.add q with late := q.late - 1 }) else c
  | none => c

/-- The unit that a bank serves next: in round-robin order after the one served last, the first that has a request queued there
(R210). -/
def bankNext (c : Chip) (bank : Nat) : Option Nat :=
  let last := Tab.get 67 c.bankTurn bank
  ((List.range 68).map fun k => (last + 1 + k) % 68).find? fun u => 0 < (Tab.get {} (c.banksOf u) bank).queued

/-- A request of a unit at a bank completes, and a held one takes its place; the bank completes no unit's request out of its turn
(R210). -/
def bankDone (c : Chip) (u bank : Nat) : Chip :=
  if c.bankNext bank ≠ some u then c
  else
    let q := Tab.get {} (c.banksOf u) bank
    let c1 := c.onBanks u fun t =>
        if 0 < q.held then Tab.set bank { q with held := q.held - 1 } t
        else if q.queued = 1 ∧ q.late = 0 then Tab.erase bank t
        else Tab.set bank { q with queued := q.queued - 1 } t
    ({ c1 with bankTurn := Tab.set bank u c.bankTurn }).lateIssue u

/-- Bytes moved between an HBM stack and a forme, counted at the stack and, between different formes, at the gutter (R501). -/
def countRead (c : Chip) (forme a n : Nat) : Chip :=
  if hbmTop ≤ a then c
  else
    let m := stackOf a
    let add := fun (x : BitVec 48) => x + BitVec.ofNat 48 n
    { c with cnts := { c.cnts with
      hbmRd := modifyAt add c.cnts.hbmRd m, gutter := if m / 4 = forme then c.cnts.gutter else modifyAt add c.cnts.gutter (4 * (m / 4) + forme) } }

def countWrite (c : Chip) (from_ : Option Nat) (a n : Nat) : Chip :=
  if hbmTop ≤ a then c
  else
    let m := stackOf a
    let add := fun (x : BitVec 48) => x + BitVec.ofNat 48 n
    let g := match from_ with
      | some f => if m / 4 = f then c.cnts.gutter else modifyAt add c.cnts.gutter (4 * f + m / 4)
      | none => c.cnts.gutter
    { c with cnts := { c.cnts with hbmWr := modifyAt add c.cnts.hbmWr m, gutter := g } }

/-- The forme an address belongs to. -/
def formeOfAddr (a : Nat) : Nat :=
  match placeOf a with
  | .hbm m => m / 4
  | .platen e _ => e / 16
  | .buffer e _ => e / 16
  | .nowhere => 0

/-- A LOCAL access by a unit of forme `from` to an address: refused at the edge of a domain in reset (R417, R420), or at an
unmapped address (R24). -/
def accessError (c : Chip) (from_ : Nat) (a : Nat) : Option Status :=
  if !c.mapped a then some .addrUnmapped
  else match placeOf a with
    | .hbm m =>
      if c.domDown.contains m || (c.formeDown.contains (m / 4) && from_ != m / 4) then some .pathReset else none
    | .platen e _ | .buffer e _ => if c.formeDown.contains (e / 16) && from_ != e / 16 then some .pathReset else none
    | .nowhere => some .addrUnmapped

/-- The domain in reset that refuses an address of this device to a unit of a forme: a bed domain, or 100 + forme for a forme reset
(R417, R420). -/
def addrCause (c : Chip) (from_ a : Nat) : Option Nat :=
  let forme (f : Nat) : Option Nat := if c.formeDown.contains f && from_ != f then some (100 + f) else none
  match placeOf a with
  | .hbm m => if c.domDown.contains m then some m else forme (m / 4)
  | .platen e _ | .buffer e _ => forme (e / 16)
  | .nowhere => none

/-- One more request completes with PATH_RESET at the edge of a bed domain in reset (R417, R425). Each access that the model ends or holds so
counts as one request (DESIGN CHOICE, log entry 6). -/
def notePath (c : Chip) (cause : Option Nat) (n : Nat := 1) : Chip :=
  match cause with
  | some d => if d < 21 then { c with rst := { c.rst with pathCount := Tab.set d (Tab.get 0 c.rst.pathCount d + BitVec.ofNat 48 n) c.rst.pathCount } } else c
  | none => c

/-- An access of a unit of a forme to addresses of this device has ended with a status. -/
def notePathAt (c : Chip) (from_ : Nat) (addrs : List Nat) (st : Status) : Chip :=
  if st = .pathReset then c.notePath (addrs.findSome? (c.addrCause from_)) else c

/-- Status of a read that meets an uncorrectable unit (R152, R193, R208): BUFFER_UE in an operand buffer block, else MEM_UE. -/
def ueStatus (a : Nat) : Status :=
  match placeOf a with
  | .buffer _ _ => .bufferUe
  | _ => .memUe

end Chip

/-! ### Events and unit errors -/

/-- The order of severities. -/
def Severity.le (a b : Severity) : Bool := a.code ≤ b.code

/-- The first domain lies within the second (R478, R479). -/
def Dom.within : Dom → Dom → Bool
  | _, .device => true
  | .engine e, .engine f => e == f
  | .engine e, .forme f => e / 16 == f
  | .forme f, .forme g => f == g
  | .shared, .shared => true
  | _, _ => false

/-- `next_level` of R481. -/
def nextLevel (level : Severity) (d : Dom) : Severity :=
  let reaches (l : Severity) : Bool := match d with
    | .engine _ => true
    | .forme _ => l == .fatalForme || l == .fatalDevice
    | _ => l == .fatalDevice
  (([Severity.fatalEngine, .fatalForme, .fatalDevice].filter fun l => level.code < l.code && reaches l).head?).getD .fatalDevice

/-- `span` of R481. -/
def spanOf (level : Severity) (d : Dom) : Dom :=
  match level with
  | .fatalForme => (match d with | .engine e => .forme (e / 16) | x => x)
  | .fatalDevice => .device
  | _ => d

namespace Chip

/-- The open episode that covers a domain (R479). -/
def covering (c : Chip) (d : Dom) : Option Episode := c.episodes.find? fun ep => d.within ep.dom

/-- A unit's ticker, for SRC_TICKS (R483). DESIGN CHOICE, log entry 8. -/
def srcTicks (c : Chip) (src : Nat) : W64 := if src < 64 then (c.engine src).ticker else 0

/-- An event that is no unit error: a status, or a report of a handling action or a state. It takes no part in nesting: it carries NESTED while an
episode covers its domain, and opens none (R480). DEDUCED, log entry 59. -/
def raise (c : Chip) (code : Nat) (sev : Severity) (src : Nat) (dom : Dom) (detail : List W64) : Chip :=
  let ev : Event := { code, sev, source := src, dom, ticks := c.srcTicks src, detail }
  match c.covering dom with
  | some ep => { c with evq := c.evq ++ [{ ev with nested := true, episode := ep.num }] }
  | none => { c with evq := c.evq ++ [ev] }

/-- `on_unit_error` of R481, and the opening of an episode (R479); `addr` is the failing word of an uncorrectable error, which
counts once within one episode (R480). The handling to begin is left in `handlings`. -/
def unitError (c : Chip) (code : Nat) (sev : Severity) (src : Nat) (dom : Dom) (addr : Option Nat) (detail : List W64) :
    Chip :=
  let ev : Event := { code, sev, source := src, dom, ticks := c.srcTicks src, detail }
  match c.covering dom with
  | none =>
    if Severity.deferred.le sev then
      let rest := c.episodes.filter fun ep => !ep.dom.within dom
      { c with evq := c.evq ++ [{ ev with episode := c.nextEpisode }],
               episodes := rest ++ [{ num := c.nextEpisode, dom, level := sev, addrs := addr.toList }],
               nextEpisode := c.nextEpisode + 1,
               handlings := if Severity.fatalEngine.le sev then c.handlings ++ [.handle sev dom] else c.handlings }
    else { c with evq := c.evq ++ [ev] }
  | some ep =>
    -- a unit error during an orderly device stop makes its reset forced (R482)
    let c : Chip := if c.pwr.deviceStop then { c with pwr := { c.pwr with forceAll := true } } else c
    let seen := match addr with
      | some a => ep.addrs.contains a
      | none => false
    let nestedEv := { ev with nested := true, episode := ep.num }
    if seen then { c with evq := c.evq ++ [nestedEv] }
    else
      let ep1 := { ep with count := ep.count + 1, addrs := ep.addrs ++ addr.toList }
      let put (x : Episode) (e : Event) (h : List Handling) : Chip :=
        { c with evq := c.evq ++ [e], episodes := x :: (c.episodes.filter fun q => q.num != ep.num && !q.dom.within x.dom),
                 handlings := c.handlings ++ h }
      if 3 ≤ ep1.count then put ep1 nestedEv [.stop]
      else if ep1.level.le sev then
        let lv := nextLevel ep1.level ep1.dom
        let ep2 := { ep1 with level := lv, dom := spanOf lv ep1.dom }
        put ep2 { nestedEv with escalated := true, sev := lv } [.handle lv ep2.dom]
      else put ep1 nestedEv []

end Chip

end Sys2Proof.Machine
end

