-- ==== Sys2Proof/Machine/Crypto.lean ====
section
/-!
DEFINITION. The two algorithms of the overseer's crypto engine (R454): SHA-512 (FIPS 180-4), and the verification of an ECDSA signature
on P-521 (FIPS 186-5). Digests and keys are byte strings, first byte first (R459).
-/
namespace Sys2Proof.Machine

/-! ### SHA-512 -/

def shaK0 : List Nat := [0x428A2F98D728AE22, 0x7137449123EF65CD, 0xB5C0FBCFEC4D3B2F, 0xE9B5DBA58189DBBC, 0x3956C25BF348B538, 0x59F111F1B605D019, 0x923F82A4AF194F9B, 0xAB1C5ED5DA6D8118, 0xD807AA98A3030242, 0x12835B0145706FBE, 0x243185BE4EE4B28C, 0x550C7DC3D5FFB4E2, 0x72BE5D74F27B896F, 0x80DEB1FE3B1696B1, 0x9BDC06A725C71235, 0xC19BF174CF692694]
def shaK1 : List Nat := [0xE49B69C19EF14AD2, 0xEFBE4786384F25E3, 0x0FC19DC68B8CD5B5, 0x240CA1CC77AC9C65, 0x2DE92C6F592B0275, 0x4A7484AA6EA6E483, 0x5CB0A9DCBD41FBD4, 0x76F988DA831153B5, 0x983E5152EE66DFAB, 0xA831C66D2DB43210, 0xB00327C898FB213F, 0xBF597FC7BEEF0EE4, 0xC6E00BF33DA88FC2, 0xD5A79147930AA725, 0x06CA6351E003826F, 0x142929670A0E6E70]
def shaK2 : List Nat := [0x27B70A8546D22FFC, 0x2E1B21385C26C926, 0x4D2C6DFC5AC42AED, 0x53380D139D95B3DF, 0x650A73548BAF63DE, 0x766A0ABB3C77B2A8, 0x81C2C92E47EDAEE6, 0x92722C851482353B, 0xA2BFE8A14CF10364, 0xA81A664BBC423001, 0xC24B8B70D0F89791, 0xC76C51A30654BE30, 0xD192E819D6EF5218, 0xD69906245565A910, 0xF40E35855771202A, 0x106AA07032BBD1B8]
def shaK3 : List Nat := [0x19A4C116B8D2D0C8, 0x1E376C085141AB53, 0x2748774CDF8EEB99, 0x34B0BCB5E19B48A8, 0x391C0CB3C5C95A63, 0x4ED8AA4AE3418ACB, 0x5B9CCA4F7763E373, 0x682E6FF3D6B2B8A3, 0x748F82EE5DEFB2FC, 0x78A5636F43172F60, 0x84C87814A1F0AB72, 0x8CC702081A6439EC, 0x90BEFFFA23631E28, 0xA4506CEBDE82BDE9, 0xBEF9A3F7B2C67915, 0xC67178F2E372532B]
def shaK4 : List Nat := [0xCA273ECEEA26619C, 0xD186B8C721C0C207, 0xEADA7DD6CDE0EB1E, 0xF57D4F7FEE6ED178, 0x06F067AA72176FBA, 0x0A637DC5A2C898A6, 0x113F9804BEF90DAE, 0x1B710B35131C471B, 0x28DB77F523047D84, 0x32CAAB7B40C72493, 0x3C9EBE0A15C9BEBC, 0x431D67C49C100D4C, 0x4CC5D4BECB3E42B6, 0x597F299CFC657E2A, 0x5FCB6FAB3AD6FAEC, 0x6C44198C4A475817]
def shaK : List Nat := shaK0 ++ shaK1 ++ shaK2 ++ shaK3 ++ shaK4
def shaH : List W64 := [0x6A09E667F3BCC908#64, 0xBB67AE8584CAA73B#64, 0x3C6EF372FE94F82B#64, 0xA54FF53A5F1D36F1#64, 0x510E527FADE682D1#64, 0x9B05688C2B3E6C1F#64, 0x1F83D9ABFB41BD6B#64, 0x5BE0CD19137E2179#64]

def rotr (x : W64) (n : Nat) : W64 := x.rotateRight n

/-- The next word of the message schedule, from the sixteen before it, oldest first. -/
def shaNext (w : List W64) : W64 :=
  let g (i : Nat) : W64 := w.getD i 0
  let s0 := rotr (g 1) 1 ^^^ rotr (g 1) 8 ^^^ (g 1 >>> 7)
  let s1 := rotr (g 14) 19 ^^^ rotr (g 14) 61 ^^^ (g 14 >>> 6)
  s1 + g 9 + s0 + g 0

/-- One round on the eight working variables. -/
def shaRound (v : List W64) (k w : W64) : List W64 :=
  match v with
  | [a, b, c, d, e, f, g, h] =>
    let t1 := h + (rotr e 14 ^^^ rotr e 18 ^^^ rotr e 41) + ((e &&& f) ^^^ (~~~e &&& g)) + k + w
    let t2 := (rotr a 28 ^^^ rotr a 34 ^^^ rotr a 39) + ((a &&& b) ^^^ (a &&& c) ^^^ (b &&& c))
    [t1 + t2, a, b, c, d + t1, e, f, g]
  | _ => v

/-- A number that bytes spell, most significant first. -/
def beNat (bs : List Byte) : Nat := bs.foldl (fun a b => 256 * a + b.toNat) 0

/-- `n` 8-byte words of a byte string, most significant byte first. -/
def beWords : Nat → List Byte → List W64
  | 0, _ => []
  | n + 1, bs => BitVec.ofNat 64 (beNat (bs.take 8)) :: beWords n (bs.drop 8)

/-- The compression of one 128-byte block. -/
def shaBlock (h : List W64) (block : List Byte) : List W64 :=
  let (v, _) := shaK.foldl (fun ((v, w) : List W64 × List W64) k => (shaRound v (BitVec.ofNat 64 k) (w.headD 0), w.tail ++ [shaNext w]))
    (h, beWords 16 block)
  h.zipWith (· + ·) v

/-- `n` blocks of a padded message. -/
def shaBlocks : Nat → List W64 → List Byte → List W64
  | 0, h, _ => h
  | n + 1, h, bs => shaBlocks n (shaBlock h (bs.take 128)) (bs.drop 128)

/-- `n` bytes of a number, most significant first. -/
def beBytesOf (n x : Nat) : List Byte := (toBytes n x).reverse

/-- The SHA-512 of a byte string, 64 bytes. -/
def sha512 (m : List Byte) : List Byte :=
  let n := (m.length + 17 + 127) / 128
  let pad := m ++ [0x80#8] ++ List.replicate (n * 128 - m.length - 17) 0 ++ beBytesOf 16 (8 * m.length)
  (shaBlocks n shaH pad).flatMap fun w => beBytesOf 8 w.toNat

/-! ### ECDSA on P-521 -/

def ecP : Nat := 2 ^ 521 - 1
def ecN : Nat := 6864797660130609714981900799081393217269435300143305409394463459185543183397655394245057746333217197532963996371363321113864768612440380340372808892707005449
def ecB : Nat := 1093849038073734274511112390766805569936207598951683748994586394495953116150735016013708737573759623248592132296706313309438452531591012912142327488478985984
def ecGx : Nat := 2661740802050217063228768716723360960729859168756973147706671368418802944996427808491545080627771902352094241225065558662157113545570916814161637315895999846
def ecGy : Nat := 3757180025770020463545507224491183603594455134769762486694567779615544477440556316691234405012945539562144444537289428522585666729196580810124344277578376784

/-- A power modulo `m`, by the bits of the exponent; `fuel` bounds them. -/
def powMod (m : Nat) : Nat → Nat → Nat → Nat
  | 0, _, _ => 1 % m
  | fuel + 1, b, e => if e = 0 then 1 % m else
      let h := powMod m fuel (b * b % m) (e / 2)
      if e % 2 = 1 then h * b % m else h

/-- An inverse modulo a prime below 2^521. -/
def invMod (m x : Nat) : Nat := powMod m 522 (x % m) (m - 2)

/-- A point of the curve; none is the point at infinity. -/
abbrev EcPoint := Option (Nat × Nat)

def ecAdd : EcPoint → EcPoint → EcPoint
  | none, q => q
  | p, none => p
  | some (x1, y1), some (x2, y2) =>
    if x1 = x2 ∧ (y1 + y2) % ecP = 0 then none
    else
      let l := if x1 = x2 then (3 * x1 * x1 + ecP - 3) * invMod ecP (2 * y1) % ecP
        else (y2 + ecP - y1) * invMod ecP (x2 + ecP - x1) % ecP
      let x3 := (l * l + 2 * ecP - x1 - x2) % ecP
      some (x3, (l * (x1 + ecP - x3) + ecP - y1) % ecP)

/-- A multiple of a point; `fuel` bounds the bits. -/
def ecMul : Nat → Nat → EcPoint → EcPoint
  | 0, _, _ => none
  | fuel + 1, k, p =>
    if k = 0 then none
    else
      let h := ecMul fuel (k / 2) (ecAdd p p)
      if k % 2 = 1 then ecAdd h p else h

/-- A SEC1 uncompressed public key of 133 bytes that lies on the curve (R460). -/
def ecKey (k : List Byte) : EcPoint :=
  let x := beNat ((k.drop 1).take 66)
  let y := beNat ((k.drop 67).take 66)
  if k.length = 133 ∧ k.headD 0 = 4 ∧ x < ecP ∧ y < ecP ∧ (y * y) % ecP = (x * x * x + (ecP - 3) * x + ecB) % ecP then some (x, y) else none

/-- The signature block verifies over the SHA-512 of a message: r in bytes 8 to 73, s in bytes 74 to 139 (R459). -/
def ecdsaOk (key : List Byte) (msg sig : List Byte) : Bool :=
  let r := beNat ((sig.drop 8).take 66)
  let s := beNat ((sig.drop 74).take 66)
  match ecKey key with
  | none => false
  | some q =>
    if r = 0 ∨ s = 0 ∨ ecN ≤ r ∨ ecN ≤ s then false
    else
      let w := invMod ecN s
      let z := beNat (sha512 msg)
      match ecAdd (ecMul 522 (z * w % ecN) (some (ecGx, ecGy))) (ecMul 522 (r * w % ecN) (some q)) with
      | none => false
      | some (x, _) => x % ecN == r

end Sys2Proof.Machine
end

