-- ==== Sys2Proof/Machine/Image.lean ====
section
/-!
DEFINITION. The imposition flash and its directory (R457, R458), the image format and its verification (R459 to R463, R536).
-/
namespace Sys2Proof.Machine

/-! ### The flash (R457): an erased byte reads 0xFF -/

abbrev Flash := List Host.Cell

def flashByte (f : Flash) (a : Nat) : Byte := (cellAt a f).getD 0xFF
def flashRead (f : Flash) (a n : Nat) : List Byte := (addrRange a n).map (flashByte f)
def flashPut (f : Flash) (a : Nat) (b : Byte) : Flash := if b = 0xFF then cellErase a f else cellSet a b f
def flashWrite (f : Flash) (a : Nat) (bs : List Byte) : Flash := (bs.zipIdx a).foldl (fun f (b, i) => flashPut f i b) f
def flashErase (f : Flash) (a n : Nat) : Flash := f.filter fun c => !(decide (a ≤ c.1 ∧ c.1 < a + n))

def sectorSize : Nat := 0x10000
def slotBase (slot : Nat) : Nat := if slot = 0 then 0x100000 else 0x2000000
def slotSize : Nat := 0x1F00000
def certBase : Nat := 0x3F00000
def certSize : Nat := 0x100000
def halfSize : Nat := 0x80000

/-! ### Directory records (R458) -/

/-- TYPE of a record. -/
inductive DirType
  | commitTrial | attempt | confirm | revert
  deriving DecidableEq, Repr

def DirType.code : DirType → Nat
  | .commitTrial => 1 | .attempt => 2 | .confirm => 3 | .revert => 4

def DirType.ofCode (n : Nat) : Option DirType :=
  match n with | 1 => some .commitTrial | 2 => some .attempt | 3 => some .confirm | 4 => some .revert | _ => none

structure DirRec where
  kind : DirType
  slot : Nat
  seq  : Nat
  word : Nat                     -- bits [479:0]
  deriving DecidableEq, Repr

/-- A record's 64 bytes, sealed with its CRC. -/
def dirBytes (word : Nat) : List Byte :=
  let body := toBytes 60 word
  body ++ toBytes 4 (crc32c body)

def dirWord (kind : DirType) (slot seq bytes head : Nat) : Nat :=
  kind.code + (slot % 2) <<< 4 + (seq % p2 32) <<< 32 + (bytes % p2 32) <<< 64 + (head % p2 256) <<< 96

/-- The record at an index 0 to 16,383 of the two halves, if it is valid. -/
def dirAt (f : Flash) (i : Nat) : Option DirRec :=
  let bs := flashRead f (64 * i) 64
  let w := ofBytes (bs.take 60)
  if ofBytes (bs.drop 60) = crc32c (bs.take 60) then
    (DirType.ofCode (w % 16)).map fun kind => { kind, slot := nbits w 4 1, seq := nbits w 32 32, word := w }
  else none

/-- Indices of the records that have been written. -/
def dirUsed (f : Flash) : List Nat := sortAddrs ((f.filter fun c => decide (c.1 < 2 * halfSize)).map fun c => c.1 / 64)

/-- Every valid record, with its index. -/
def dirValid (f : Flash) : List (Nat × DirRec) := (dirUsed f).filterMap fun i => (dirAt f i).map fun r => (i, r)

/-- The record of the highest SEQ among those that `p` selects. -/
def latest (f : Flash) (p : DirRec → Bool) : Option (Nat × DirRec) :=
  ((dirValid f).filter fun x => p x.2).foldl (fun b x => match b with
    | none => some x
    | some y => if y.2.seq < x.2.seq then some x else b) none

/-- The first index of a half that is not written, counted after its last written one. -/
def dirFree (f : Flash) (half : Nat) : Nat :=
  let used := (dirUsed f).filter fun i => i / 8192 == half
  match used.getLast? with
  | none => half * 8192
  | some i => i + 1

/-- Write one record; a full half is copied into the other first: the latest valid record of each TYPE, unchanged (R458). -/
def dirWrite (f : Flash) (kind : DirType) (slot bytes head : Nat) : Flash :=
  let (half, seq) := match latest f fun _ => true with
    | none => (0, 1)
    | some (i, r) => (i / 8192, r.seq + 1)
  let word := dirWord kind slot seq bytes head
  let at_ := dirFree f half
  if at_ < (half + 1) * 8192 then flashWrite f (64 * at_) (dirBytes word)
  else
    let other := 1 - half
    let keep := [DirType.commitTrial, .attempt, .confirm, .revert].filterMap fun k => (latest f fun r => r.kind == k).map (·.2)
    let f1 := flashErase f (other * halfSize) halfSize
    let f2 := keep.zipIdx.foldl (fun f (r, i) => flashWrite f (64 * (other * 8192 + i)) (dirBytes r.word)) f1
    let f3 := flashErase f2 (half * halfSize) halfSize
    flashWrite f3 (64 * (other * 8192 + keep.length)) (dirBytes word)

/-! ### The image (R459, R460) -/

structure Section_ where
  kind     : Nat
  stepping : Nat
  offset   : Nat
  length   : Nat
  digest   : List Byte
  deriving DecidableEq, Repr

structure ImgHeader where
  magic    : Nat
  format   : Nat
  sections : Nat
  bytes    : Nat
  svn      : Nat
  raiseSvn : Bool
  table    : List Section_
  deriving DecidableEq, Repr

/-- The header and the section table of an image. -/
def imgHeader (img : List Byte) : ImgHeader :=
  let w := ofBytes (img.take 256)
  let n := nbits w 48 8
  let entry (i : Nat) : Section_ :=
    let bs := (img.drop (256 + 80 * i)).take 80
    let e := ofBytes bs
    { kind := nbits e 0 16, stepping := nbits e 16 8, offset := nbits e 32 32, length := nbits e 64 32, digest := (bs.drop 12).take 64 }
  { magic := nbits w 0 32, format := nbits w 32 16, sections := n, bytes := nbits w 64 32, svn := nbits w 96 16, raiseSvn := nbits w 112 1 == 1,
    table := (List.range (min n 32)).map entry }

def Section_.data (s : Section_) (img : List Byte) : List Byte := (img.drop s.offset).take s.length

def ImgHeader.find (h : ImgHeader) (kind : Nat) : Option Section_ := h.table.find? fun s => s.kind == kind
def ImgHeader.count (h : ImgHeader) (kind : Nat) : Nat := (h.table.filter fun s => s.kind == kind).length

/-- Step 1 of R462: the limits of R459 and R460. DEDUCED, log entry 65. -/
def headerOk (h : ImgHeader) : Bool :=
  h.magic == 0x4B53494D && h.format == 1 && decide (1 ≤ h.sections ∧ h.sections ≤ 32) && decide (h.bytes ≤ 32505856) && decide (h.svn ≤ 64) &&
  h.table.all (fun s => decide (4096 ≤ s.offset ∧ s.offset % 4096 = 0 ∧ s.offset + s.length ≤ h.bytes) &&
    [0x0001, 0x0002, 0x0003, 0x0010, 0x0011, 0x0012, 0x0020].contains s.kind) &&
  h.table.zipIdx.all (fun (s, i) => h.table.zipIdx.all fun (t, j) =>
    i == j || decide (s.offset + s.length ≤ t.offset) || decide (t.offset + t.length ≤ s.offset)) &&
  h.count 0x0001 == 1 && h.count 0x0002 == 1 && h.count 0x0020 == 1 &&
  decide (h.count 0x0010 ≤ 1) && decide (h.count 0x0011 ≤ 1) && decide (h.count 0x0012 ≤ 1) &&
  h.table.all (fun s => s.kind != 0x0003 || (h.table.filter fun t => t.kind == 0x0003 && t.stepping == s.stepping).length == 1) &&
  h.table.all (fun s => match s.kind with
    | 0x0011 => s.length == 262144
    | 0x0012 => s.length == 1048576
    | 0x0020 => s.length == 133
    | _ => true)

/-! ### Fields (R461, R536) -/

structure FieldRec where
  id       : Nat
  length   : Nat
  optional : Bool
  value    : List Byte
  deriving DecidableEq, Repr

/-- The records of a FIELDS section; none when one is cut short. `fuel` bounds them. -/
def fieldRecs : Nat → List Byte → Option (List FieldRec)
  | 0, _ => none
  | fuel + 1, bs =>
    if bs.isEmpty then some []
    else
      let w := ofBytes (bs.take 4)
      let n := nbits w 16 8
      let padded := (n + 3) / 4 * 4
      if bs.length < 4 + padded then none
      else (fieldRecs fuel (bs.drop (4 + padded))).map fun rest =>
        { id := nbits w 0 16, length := n, optional := nbits w 24 1 == 1, value := (bs.drop 4).take n } :: rest

/-- A field of 4 bytes whose value lies in a range, and what it sets. -/
def numField (r : FieldRec) (lo hi : Nat) (set : Nat → Imposition) : Option Imposition :=
  let v := ofBytes r.value
  if r.length = 4 ∧ lo ≤ v ∧ v ≤ hi then some (set v) else none

/-- 16-bit ids, one after the other. -/
def idList : Nat → List Byte → List Nat
  | 0, _ => []
  | n + 1, bs => ofBytes (bs.take 2) :: idList n (bs.drop 2)

def ipOk (v : List Byte) : Bool :=
  let family := (v.headD 0).toNat
  v.length == 18 && ((family == 4 && (v.drop 1).take 12 == List.replicate 10 0 ++ [0xFF#8, 0xFF#8]) || family == 6)

/-- The first word of a field id's row in R461. -/
def fieldKnown (id : Nat) : Bool :=
  [(0x0100, 5), (0x0200, 6), (0x0300, 2), (0x0400, 13), (0x0500, 9), (0x0600, 5), (0x0700, 3), (0x0800, 2)].any fun (b, n) => decide (b ≤ id ∧ id < b + n)

/-- Fields of the rows 0x0100 to 0x0300. -/
def setField1 (m : Imposition) (r : FieldRec) : Option Imposition :=
  let num := numField r
  match r.id with
  | 0x0100 => num 0 1 fun v => { m with engExpert := v == 1 }
  | 0x0101 => num 4 15 fun v => { m with cringLog2 := v }
  | 0x0102 => num 0 32 fun v => { m with pltScratch := v }
  | 0x0103 => num 0 32 fun v => { m with pltSpike := v }
  | 0x0104 =>
    let v := ofBytes r.value
    if r.length = 8 ∧ v % 0x100000 = 0 ∧ v + 0x4000000 ≤ hbmTop then some { m with cringBase := v } else none
  | 0x0200 => num 1 0x7F7FFFFF fun v => { m with prfK := BitVec.ofNat 32 v }
  | 0x0201 => num 1 31 fun v => { m with prfAlphaLog2 := v }
  | 0x0202 => num 2 4294967295 fun v => { m with prfWarmup := v }
  | 0x0203 => num 0 1 fun v => { m with prfAction := v == 1 }
  | 0x0204 => num 0 1 fun v => { m with prfNfAsSpike := v == 1 }
  | 0x0205 => num 0 1 fun v => { m with prfExpert := v == 1 }
  | 0x0300 => num 1 4294967295 fun v => { m with corFpInterval := v }
  | _ => num 10 60000 fun v => { m with corFpTimeout := v }

/-- Fields of the row 0x0400. -/
def setField2 (m : Imposition) (r : FieldRec) : Option Imposition :=
  let num := numField r
  match r.id with
  | 0x0400 => num 0 65535 fun v => { m with fabDomainId := v }
  | 0x0401 => num 0 1 fun v => { m with fabAssigned := v == 1 }
  | 0x0402 => num 0 65535 fun v => { m with fabDeviceId := v }
  | 0x0407 => num 1 15 fun v => { m with fabHopLimit := v }
  | 0x0408 => num 1 1000 fun v => { m with fabReqTimeout := v }
  | 0x0409 => num 1 255 fun v => { m with fabRoleRetries := v }
  | 0x040A => num 10 600000 fun v => { m with fabCollTimeout := v }
  | 0x040B =>
    if r.length % 2 = 0 ∧ 2 ≤ r.length ∧ r.length ≤ 16 then some { m with fabManagers := idList (r.length / 2) r.value } else none
  | 0x040C => num 0 1 fun v => { m with fabExpert := v == 1 }
  | i => num 0 1 fun v => { m with fabEth := m.fabEth.set (i - 0x0403) (v == 1) }

/-- Fields of the rows 0x0500 to 0x0800. -/
def setField3 (m : Imposition) (r : FieldRec) : Option Imposition :=
  let num := numField r
  match r.id with
  | 0x0500 => if r.length = 6 then some { m with dsMacBase := beNat r.value } else none
  | 0x0505 => num 0 7 fun v => { m with dsPfcPrio := v }
  | 0x0506 => if 1 ≤ r.length ∧ r.length ≤ 223 ∧ r.value.all (fun b => decide (b.toNat < 128)) then some { m with dsHostNqn := r.value } else none
  | 0x0507 => num 1000 60000 fun v => { m with dsKatoMs := v }
  | 0x0508 => num 0 60000 fun v => { m with dsReconnectMs := v }
  | 0x0600 => num 4 1000 fun v => { m with bondTestMs := v }
  | 0x0601 => num 0 1 fun v => { m with bondProactive := v == 1 }
  | 0x0602 => num 1000 1000000 fun v => { m with wearRated := v }
  | 0x0603 => num 1 99 fun v => { m with wearWarnPct := v }
  | 0x0604 => num 1 99 fun v => { m with wearAlarmPct := v }
  | 0x0700 => num 1000 2500 fun v => { m with pwrDefaultW := v }
  | 0x0701 => num 5 100 fun v => { m with thermDrainMs := v }
  | 0x0702 => num 0 1 fun v => { m with pwrExpert := v == 1 }
  | 0x0800 => num 1 1000 fun v => { m with quiesceMs := v }
  | 0x0801 => num 0 1 fun v => { m with rstExpert := v == 1 }
  | i => if r.length = 18 ∧ ipOk r.value then some { m with dsIps := m.dsIps.set (i - 0x0501) (ofBytes r.value) } else none

def setField (m : Imposition) (r : FieldRec) : Option Imposition :=
  if r.id < 0x0400 then setField1 m r else if r.id < 0x0500 then setField2 m r else setField3 m r

/-- The defaults of the home chapters. -/
def defaultFields : Imposition := { dsMacBase := Config.macBase.toNat, dsHostNqn := Config.hostNqn }

/-- Step 7 of R462 on the records: the fields, and the unknown optional ids. -/
def readFields (rs : List FieldRec) : Option (Imposition × List Nat) :=
  if rs.zipIdx.any fun (r, i) => (rs.take i).any fun q => q.id == r.id then none
  else rs.foldl (fun acc r => acc.bind fun (m, unknown) =>
    if fieldKnown r.id then (setField m r).map fun m => (m, unknown)
    else if r.optional then some (m, unknown ++ [r.id])
    else none) (some (defaultFields, []))

/-- Entries of 32 and of 128 bits, by index, those that are not zero. -/
def tableOf (width : Nat) : Nat → Nat → List Byte → List (Nat × Nat)
  | 0, _, _ => []
  | n + 1, i, bs =>
    let v := ofBytes (bs.take width)
    let rest := tableOf width n (i + 1) (bs.drop width)
    if v = 0 then rest else (i, v) :: rest

/-- An image that verifies (R462), as the start-up uses it. -/
structure Image where
  imp     : Imposition
  unknown : List Nat             -- ids recorded once under FIELD_UNKNOWN
  routes  : Tab (BitVec 32)
  ownRoute : Bool := false       -- no FAB_ROUTES: the device's own entry is the only valid one
  roles   : Tab (BitVec 128)
  owner   : List Byte            -- SHA-512 of the OWNER_KEY section
  svn     : Nat
  raiseSvn : Bool
  bytes   : Nat
  deriving DecidableEq, Repr

/-- FAB_ROUTES; an absent one gives a table whose only valid entry is the device's own, which a device in ASSIGNED mode has once it has its id (R289,
R460). -/
def imageRoutes (h : ImgHeader) (img : List Byte) (m : Imposition) : Tab (BitVec 32) :=
  match h.find 0x0011 with
  | some s => (tableOf 4 65536 0 (s.data img)).map fun (i, v) => (i, BitVec.ofNat 32 (v % p2 25))
  | none => if m.fabAssigned then [] else [(m.fabDeviceId, BitVec.ofNat 32 (p2 24))]

def imageRoles (h : ImgHeader) (img : List Byte) : Tab (BitVec 128) :=
  match h.find 0x0012 with
  | some s => (tableOf 16 65536 0 (s.data img)).map fun (i, v) => (i, BitVec.ofNat 128 v)
  | none => []

/-- The checks of R462, in order, under the fused owner key, the revoked Sordoman keys and SVN_MIN. -/
def verifyImage (fuses : Fuses) (img : List Byte) : Option Image :=
  let h := imgHeader img
  if !headerOk h then none
  else if !h.table.all fun s => sha512 (s.data img) == s.digest then none
  else
    let sord := (img.drop 2816).take 144
    let key := (sord.headD 0).toNat
    let signed := (h.table.filter fun s => [1, 2, 3].contains s.kind).flatMap (·.digest)
    if 4 ≤ key ∨ fuses.revoke.getLsbD key then none
    else if !ecdsaOk (Config.sordomanKey key) signed sord then none
    else
      match h.find 0x0020 with
      | none => none
      | some k =>
        let ownerKey := k.data img
        let owner := sha512 ownerKey
        let enrolled : Bool := match fuses.ownerHash with
          | none => true
          | some d => toBytes 64 d.toNat == owner
        if !enrolled then none
        else if !ecdsaOk ownerKey (img.take 2960) ((img.drop 2960).take 144) then none
        else if h.svn < fuses.svnMin then none
        else
          let recs := match h.find 0x0010 with
            | none => some []
            | some s => fieldRecs (s.length + 1) (s.data img)
          match recs.bind readFields with
          | none => none
          | some (m, unknown) =>
            let routes := imageRoutes h img m
            if 32 < m.pltScratch + m.pltSpike ∨ m.wearAlarmPct ≤ m.wearWarnPct then none
            else if !m.fabAssigned && !(Tab.get 0 routes m.fabDeviceId).getLsbD 24 then none
            else some { imp := m, unknown, routes, ownRoute := (h.find 0x0011).isNone, roles := imageRoles h img, owner, svn := h.svn, raiseSvn := h.raiseSvn, bytes := h.bytes }

/-- An image as it lies in a slot. -/
def slotImage (f : Flash) (slot : Nat) : List Byte :=
  let base := slotBase slot
  let n := ofBytes (flashRead f (base + 8) 4)
  flashRead f base (min slotSize (max n 4096))

/-- The certificate chain, preceded by its 4-byte length (R457). -/
def certChain (f : Flash) : List Byte := flashRead f (certBase + 4) (min (certSize - 4) (ofBytes (flashRead f certBase 4)))

end Sys2Proof.Machine
end

