-- ==== Sys2Proof/Machine/FabSend.lean ====
section
/-!
DEFINITION. Sending on the Adeane fabric: the transport header (R284), path choice (R291 to R293), the link layer's
transmitter (R287), requests (R298) and responses.
-/
namespace Sys2Proof.Machine

/-- The transport header of R284, read into its fields. -/
structure THdr where
  opcode : Nat := 0
  vc     : Nat := 0
  role   : Bool := false
  linkLocal : Bool := false
  dst    : Nat := 0
  src    : Nat := 0
  epoch  : Nat := 0
  addr   : Nat := 0
  txn    : Nat := 0
  unit   : Nat := 0
  status : Nat := 0
  lenW   : Nat := 0
  atype  : Nat := 0
  hops   : Nat := 0
  arg    : Nat := 0
  deriving DecidableEq, Repr

def THdr.enc (h : THdr) : BitVec 256 :=
  BitVec.ofNat 256 (h.opcode % 256 + (h.vc % 8) <<< 8 + h.role.toNat <<< 11 + h.linkLocal.toNat <<< 12
    + (h.dst % p2 16) <<< 16 + (h.src % p2 16) <<< 32 + (h.epoch % p2 16) <<< 48 + (h.addr % p2 48) <<< 64
    + (h.txn % p2 16) <<< 128 + (h.unit % 256) <<< 144 + (h.status % 256) <<< 152 + (h.lenW % 512) <<< 160
    + (h.atype % 8) <<< 169 + (h.hops % 16) <<< 172 + (h.arg % p2 64) <<< 192)

def THdr.dec (w : BitVec 256) : THdr :=
  { opcode := fld w 7 0, vc := fld w 10 8, role := bit w 11, linkLocal := bit w 12, dst := fld w 31 16,
    src := fld w 47 32, epoch := fld w 63 48, addr := fld w 111 64, txn := fld w 143 128, unit := fld w 151 144,
    status := fld w 159 152, lenW := fld w 168 160, atype := fld w 171 169, hops := fld w 175 172, arg := fld w 255 192 }

/-- The opcodes of R284. -/
def opRead : Nat := 0x01
def opWrite : Nat := 0x02
def opAtomic : Nat := 0x03
def opCollData : Nat := 0x04
def opCollGsum : Nat := 0x05
def opA2aRows : Nat := 0x06
def opA2aMark : Nat := 0x07
def opWatch : Nat := 0x08
def opInval : Nat := 0x09
def opResponse : Nat := 0x10
def opMgmt : Nat := 0x20

/-- Link types of R283. -/
def ltData : Nat := 0
def ltControl : Nat := 1
def ltNak : Nat := 2
def ltHeartbeat : Nat := 3
def ltTrain : Nat := 4

/-- A link header (R283). -/
def mkLink (ltype lseq ack crdVc crdCount : Nat) : BitVec 64 :=
  BitVec.ofNat 64 (ltype % 16 + (lseq % p2 16) <<< 4 + (ack % p2 16) <<< 20 + (crdVc % 8) <<< 36 + (crdCount % p2 12) <<< 39)

/-- The bytes that a frame's CRC covers (R286). -/
def FabFrame.body (f : FabFrame) : List Byte :=
  toBytes 8 f.link.toNat ++ (match f.thdr with | some h => toBytes 32 h.toNat | none => []) ++ f.payload

/-- A frame with its trailer computed (R286). -/
def FabFrame.seal (f : FabFrame) (stomp : Bool) : FabFrame :=
  { f with trailer := BitVec.ofNat 64 (crc32c f.body + stomp.toNat <<< 32) }

/-- The frame's CRC holds and it is not stomped (R286). -/
def FabFrame.good (f : FabFrame) : Bool := fld f.trailer 31 0 == crc32c f.body && !bit f.trailer 32

def FabFrame.bytes (f : FabFrame) : List Byte := f.body ++ toBytes 8 f.trailer.toNat

/-- Whole frame length in the 64-byte units of credits (R283, R287). -/
def FabFrame.units (f : FabFrame) : Nat := (f.body.length + 8 + 63) / 64

/-- Virtual channel of a DATA frame. -/
def FabFrame.vc (f : FabFrame) : Nat := match f.thdr with | some h => fld h 10 8 | none => 4

/-- The status of a request that has its answer. -/
def FabReq.ended (r : FabReq) : Option Status := r.answer.map (·.1)

namespace Chip

def port (c : Chip) (p : Nat) : Port := c.fab.ports.getD p {}
def onPort (c : Chip) (p : Nat) (f : Port → Port) : Chip := { c with fab := { c.fab with ports := modifyAt f c.fab.ports p } }
def onFab (c : Chip) (f : Fabric → Fabric) : Chip := { c with fab := f c.fab }

/-- A port can carry frames: it is an ADEANE port that is up and not masked (R292, R297). -/
def portUsable (c : Chip) (p : Nat) : Bool := (c.port p).state == .up && !(c.port p).masked

/-- Path `i` of a routing entry: port, dateline and valid bit (R291). -/
def rtPath (w : BitVec 32) (i : Nat) : Nat × Bool × Bool := (fld w (6 * i + 3) (6 * i), bit w (6 * i + 4), bit w (6 * i + 5))

/-- The destination is this device (R291). -/
def isSelf (c : Chip) (dst : Nat) : Bool := (c.fab.idValid && dst == c.fab.deviceId) || bit (Tab.get 0 c.fab.routes dst) 24

/-- The usable path with the most free credits on the frame's VC, the lowest index first; MGMT takes the lowest (R292). -/
def choosePath (c : Chip) (dst vc : Nat) : Option (Nat × Bool) :=
  let w := Tab.get 0 c.fab.routes dst
  let ps := ((List.range 4).map (rtPath w)).filter fun (p, _, v) => v && c.portUsable p
  match ps with
  | [] => none
  | q :: qs =>
    if vc = 4 then some (q.1, q.2.1)
    else
      let free (p : Nat) : Nat := (c.port p).credits.getD vc 0
      let best := qs.foldl (fun b x => if free b.1 < free x.1 then x else b) q
      some (best.1, best.2.1)

/-- A destination that no usable path reaches (R297). -/
def unreachable (c : Chip) (dst : Nat) : Bool := !c.isSelf dst && (c.choosePath dst 4).isNone

/-- The frame in the class in which it leaves: a dateline moves class 0 to class 1 (R293). -/
def leavingFrame (o : OutFrame) : FabFrame :=
  match o.frame.thdr with
  | none => o.frame
  | some w =>
    let h := THdr.dec w
    let vc := if o.dl then (match h.vc with | 0 => 1 | 2 => 3 | v => v) else h.vc
    { o.frame with thdr := some { h with vc }.enc }

/-- A frame leaves on a port: LSEQ and ACK are stamped, credits are taken, and the retry buffer keeps it (R283, R287). -/
def emitFrame (c : Chip) (p : Nat) (f : FabFrame) (stomp : Bool) : Chip :=
  let q := c.port p
  let f1 := ({ f with link := mkLink ltData q.txSeq.toNat q.rxSeq.toNat 0 0 }).seal stomp
  let c1 := c.onPort p fun q => { q with
    txSeq := q.txSeq + 1, retry := q.retry ++ [f1], txFrames := q.txFrames + 1,
    txBytes := q.txBytes + BitVec.ofNat 48 f1.bytes.length,
    credits := modifyAt (fun n => n - f1.units) q.credits f1.vc }
  c1.send (.frame p f1.bytes)

/-- A frame without a transport header leaves on a port: it takes no LSEQ and no credits (R283). -/
def emitLink (c : Chip) (p ltype ack crdVc crdCount : Nat) (payload : List Byte) : Chip :=
  let f := ({ link := mkLink ltype 0 ack crdVc crdCount, payload } : FabFrame).seal false
  c.send (.frame p f.bytes)

/-- Bytes held in the retry buffer, which is 256 KiB (R287). -/
def retryBytes (q : Port) : Nat := (q.retry.map fun f => f.bytes.length).sum

def canEmit (c : Chip) (p : Nat) (f : FabFrame) : Bool :=
  let q := c.port p
  q.state == .up && !q.retrain && f.units ≤ q.credits.getD f.vc 0 && retryBytes q + f.bytes.length ≤ 0x40000

/-- Rank of a management message that waits to leave: responses, then ALARM, SLACK_REPORT and TRACE of this device (R496); what it forwards is not
held back. -/
def mgmtRank (c : Chip) (f : FabFrame) : Nat :=
  match f.thdr with
  | none => 0
  | some w =>
    let h := THdr.dec w
    if h.src ≠ c.fab.deviceId then 0
    else match h.arg % 256 with | 0x20 => 1 | 0x12 => 2 | 0x21 => 3 | _ => 0

/-- The management frame that leaves a port next: that of the best rank, the oldest first, among those that pass no earlier one of their channel
(R318, R496). -/
def nextMgmtOut (c : Chip) (fs : List (FabFrame × Nat)) : Option (FabFrame × Nat) :=
  let chan (f : FabFrame) : Option (Nat × Nat) := f.thdr.map fun w => ((THdr.dec w).src, (THdr.dec w).dst)
  let ms := fs.filter fun (f, _) => f.vc == 4
  let first := ms.filter fun (f, i) => !ms.any fun (g, j) => decide (j < i) && chan g == chan f
  first.foldl (fun b m => match b with
    | none => some m
    | some x => if c.mgmtRank m.1 < c.mgmtRank x.1 then some m else some x) none

/-- The next frame in front of a port that may leave: MGMT first, then the oldest with credits (R287). A frame never passes an earlier
one of its channel (R318). -/
def nextOut (c : Chip) (p : Nat) : Option Nat :=
  let fs := ((c.port p).outq.map leavingFrame).zipIdx
  let heads := (c.nextMgmtOut fs).toList ++ [0, 1, 2, 3].filterMap fun v => fs.find? fun (f, _) => f.vc == v
  let go := heads.filter fun (f, _) => c.canEmit p f
  match go.find? (fun (f, _) => f.vc == 4) with
  | some (_, i) => some i
  | none => (go.map (·.2)).min?

/-- Units of 64 bytes that a DATA frame held in its receive buffer (R287). -/
def dataUnits (payload : List Byte) : Nat := (8 + 32 + payload.length + 8 + 63) / 64

/-- A port carries link traffic now: it counts as up, or has trained and waits for HEARTBEATs. -/
def portAlive (c : Chip) (p : Nat) : Bool := (c.port p).state == .up || ((c.port p).state == .training && (c.port p).trained)

/-- A frame has left the receive buffer of its port: its credits go back, with the acknowledgement (R283, R287). -/
def returnCredits (c : Chip) (port : Option Nat) (w : BitVec 256) (payload : List Byte) : Chip :=
  match port with
  | none => c
  | some p => if c.portAlive p then c.emitLink p ltControl (c.port p).rxSeq.toNat (fld w 10 8) (dataUnits payload) [] else c

/-- Send what credits allow of the frames in front of a port; a forwarded frame leaves its receive buffer as it goes (R287). `fuel`
bounds the frames. -/
def drainPort : Nat → Nat → Chip → Chip
  | 0, _, c => c
  | fuel + 1, p, c =>
    match c.nextOut p with
    | none => c
    | some i =>
      match (c.port p).outq[i]? with
      | none => c
      | some o =>
        let c1 := (c.onPort p fun q => { q with outq := q.outq.eraseIdx i }).emitFrame p (leavingFrame o) false
        drainPort fuel p (c1.returnCredits o.via (o.frame.thdr.getD 0) o.frame.payload)

def drainOut (c : Chip) (p : Nat) : Chip := drainPort (c.port p).outq.length p c

/-- A frame takes its place in front of a port, and what can leave leaves. -/
def queueFrame (c : Chip) (p : Nat) (o : OutFrame) : Chip := (c.onPort p fun q => { q with outq := q.outq ++ [o] }).drainOut p

/-- An incoming management message joins the overseer's queue; a full queue keeps only POWER_LIMIT, the latest of each sender
(R321). -/
def enqueueMgmt (c : Chip) (m : MgmtMsg) : Chip :=
  if c.fab.mgmt.length < 1024 then c.onFab fun f => { f with mgmt := f.mgmt ++ [m] }
  else if m.mtype = 0x10 then c.onFab fun f => { f with mgmt := (f.mgmt.filter fun x => !(x.mtype == 0x10 && x.src == m.src)) ++ [m] }
  else c.onFab fun f => { f with mgmtDropped := f.mgmtDropped + 1 }

/-- The message that a MGMT frame carries (R319). -/
def mgmtOf (port : Nat) (h : THdr) (payload : List Byte) : MgmtMsg :=
  { src := h.src, port, linkLocal := h.linkLocal, mtype := h.arg % 256, seq := nbits h.arg 8 16, part := nbits h.arg 24 2,
    payload := BitVec.ofNat 512 (ofBytes (payload.take 64)) }

/-- A frame has reached this device: a management message joins the overseer's queue, any other waits to be performed. -/
def deliver (c : Chip) (port : Option Nat) (w : BitVec 256) (payload : List Byte) : Chip :=
  let h := THdr.dec w
  if h.opcode = opMgmt then c.enqueueMgmt (mgmtOf (port.getD 16) h payload)
  else c.onFab fun f => { f with inbox := f.inbox ++ [{ port, thdr := w, payload }] }

/-- A DATA frame of this device toward a device id (R291, R292). A device without an id sends none (R289). Answers the port, 16
for a frame to itself, or none when no path is usable. -/
def sendTo (c : Chip) (dst : Nat) (h : THdr) (payload : List Byte) : Chip × Option Nat :=
  if !c.fab.idValid then (c, none)
  else if c.isSelf dst then (c.deliver none h.enc payload, some 16)
  else match c.choosePath dst h.vc with
    | none => (c, none)
    | some (p, dl) => (c.queueFrame p { frame := { link := 0, thdr := some h.enc, payload }, dl }, some p)

/-- A transaction id that no outstanding request has (R284); none while all 65,536 are in use. -/
def freeTxn (c : Chip) : Option Nat :=
  let out := c.fab.reqs.filter fun r => r.answer.isNone && !r.queued
  ((List.range (out.length + 1)).map fun k => (c.fab.nextTxn + k) % p2 16).find? fun t => out.all fun r => r.txn != t

/-- The memory that a request accesses, as first address and bytes; none for one that reaches no memory. A row of an all-to-all takes its own
bytes and, in a role's window, those of its tag; the mark of a dispatch takes its header entry (R313, R315). -/
def spans (h : THdr) : List (Nat × Nat) :=
  if h.opcode = opRead ∨ h.opcode = opWrite ∨ h.opcode = opAtomic then [(h.addr, max 1 (4 * h.lenW))]
  else if h.opcode = opWatch then [(h.addr, 128)]
  else if h.opcode = opA2aRows then (h.addr, 4 * h.lenW - 32) :: (if h.role then [(h.arg, 8)] else [])
  else if h.opcode = opA2aMark ∧ h.role then [(h.addr, 16)]
  else []

/-- Two accesses share a 64-byte location of one target. -/
def sameLocation (a b : THdr) : Bool :=
  a.role == b.role && a.dst == b.dst && (spans a).any fun (x, n) => (spans b).any fun (y, m) =>
    decide (x / 64 * 64 < y + m ∧ y / 64 * 64 < x + n)

/-- A request may be issued: no earlier request of its unit to one of its locations is outstanding, and a slot is free (R209, R318). -/
def mayIssue (c : Chip) (r : FabReq) : Bool :=
  let h := THdr.dec r.thdr
  (r.engine == fabUnit || decide (0 < c.slotRoom h.unit)) &&
  !(c.fab.reqs.any fun q => decide (q.num < r.num) && q.answer.isNone &&
      (let g := THdr.dec q.thdr
       g.unit == h.unit && sameLocation g h))

/-- Bytes that a corrector reads or writes on another device count under COR_REMOTE_BYTES (R279). DESIGN CHOICE, log entry 89. -/
def noteRemote (c : Chip) (h : THdr) : Chip :=
  if 68 ≤ h.unit ∧ h.unit < 72 then c.onCor (h.unit - 68) fun k => { k with remoteBytes := k.remoteBytes + BitVec.ofNat 48 (4 * h.lenW) } else c

/-- The fabric unit that a request of a unit enters, none for the overseer and the data service (R284, R298). -/
def fabricOf (unit : Nat) : Option Nat := if unit < 64 then some (unit / 16) else if unit < 68 then some (unit - 64) else if unit < 72 then some (unit - 68) else none

/-- The fabric unit that a request enters is in reset, and its edge refuses it (R417). Invalidations go on (DESIGN CHOICE, log entry 91). -/
def fabricShut (c : Chip) (r : FabReq) : Bool :=
  r.engine != fabUnit && (match fabricOf (fld r.thdr 151 144) with
    | some f => c.domDown.contains (16 + f)
    | none => false)

/-- A request is issued (R284, R298): it takes a TXN that is unique among those outstanding, and waits for its RESPONSE. A destination
with no usable path answers ADDR_REFUSED at once (R27, R297), and so does a role whose entry is not valid; a role is sent to its
entry's HOLDER under its entry's EPOCH (R301). A fabric unit in reset answers PATH_RESET (R417). -/
def issueReq (c : Chip) (r : FabReq) : Chip :=
  match c.freeTxn with
  | none => c
  | some txn =>
    let h := THdr.dec r.thdr
    let ent := Tab.get 0 c.fab.roles h.dst
    let h1 := { h with txn, epoch := if h.role then fld ent 31 16 else 0 }
    if c.fabricShut r then
      (c.notePath ((List.range 4).findSome? fun f => if c.domDown.contains (16 + f) && (r.engine / 16 == f) then some (16 + f) else none)).onFab fun f =>
        { f with reqs := f.reqs.map fun q =>
          if q.num = r.num ∧ q.queued then { q with txn, queued := false, answer := some (.pathReset, []) } else q }
    else
    let (c1, p) := if h.role then (if bit ent 32 then c.sendTo (fld ent 15 0) h1 r.payload else (c, none)) else c.sendTo h.dst h1 r.payload
    let r1 : FabReq := { r with txn, thdr := h1.enc, port := p, queued := false, answer := if p.isNone then some (.addrRefused, []) else none }
    (c1.noteRemote h1).onFab fun f => { f with reqs := f.reqs.map fun q => if q.num = r.num ∧ q.queued then r1 else q, nextTxn := (txn + 1) % p2 16 }

/-- Requests that wait are issued in their order, as far as they may; `fuel` bounds them. -/
def issueWaiting : Nat → Chip → Chip
  | 0, c => c
  | fuel + 1, c =>
    match c.fab.reqs.find? fun r => r.queued && c.mayIssue r with
    | none => c
    | some r => if (c.freeTxn).isNone then c else issueWaiting fuel (c.issueReq r)

def releaseReqs (c : Chip) : Chip := issueWaiting (c.fab.reqs.filter (·.queued)).length c

/-- A request of this device: it is issued at once where it may be, and otherwise waits (R209, R284, R318). -/
def request (c : Chip) (engine entry key dst : Nat) (h : THdr) (payload : List Byte) : Chip :=
  let h1 := { h with vc := if h.opcode = opMgmt then 4 else 0, dst, src := c.fab.deviceId, hops := c.imp.fabHopLimit,
                     lenW := max h.lenW ((payload.length + 3) / 4) }
  let r : FabReq := { num := c.fab.nextReq, txn := p2 16, thdr := h1.enc, payload, engine, entry, key, queued := true }
  let c1 := c.onFab fun f => { f with reqs := f.reqs ++ [r], nextReq := f.nextReq + 1 }
  if c1.mayIssue r then c1.issueReq r else c1

/-- A RESPONSE frame's header for a request frame (R284). -/
def respHdr (c : Chip) (rq : THdr) (st arg len : Nat) : THdr :=
  { opcode := opResponse, vc := 2, dst := rq.src, src := c.fab.deviceId, txn := rq.txn, unit := rq.unit, status := st,
    lenW := (len + 3) / 4, hops := c.imp.fabHopLimit, arg }

/-- A RESPONSE to a request frame (R284, R304). -/
def respond (c : Chip) (rq : THdr) (st : Status) (arg : Nat) (payload : List Byte) : Chip :=
  (c.sendTo rq.src (c.respHdr rq st.code arg payload.length) payload).1

/-- Requests of one slug still without an answer. -/
def fabWaiting (c : Chip) (engine entry : Nat) : Bool :=
  c.fab.reqs.any fun r => r.engine == engine && r.entry == entry && r.answer.isNone

/-- The answered requests of a slug. -/
def fabAnswers (c : Chip) (engine entry : Nat) : List FabReq :=
  c.fab.reqs.filter fun r => r.engine == engine && r.entry == entry && r.answer.isSome

/-- Forget a slug's answered requests. -/
def clearReqs (c : Chip) (engine entry : Nat) : Chip :=
  c.onFab fun f => { f with reqs := f.reqs.filter fun r => !(r.engine == engine && r.entry == entry && r.answer.isSome) }

/-- A management message on the MGMT VC (R319). MTYPE, sequence number and part number lie in ARG. -/
def sendMgmt (c : Chip) (dst mtype seq part : Nat) (payload : BitVec 512) : Chip :=
  let h : THdr := { opcode := opMgmt, vc := 4, dst, src := c.fab.deviceId, unit := 72, lenW := 16,
                    hops := c.imp.fabHopLimit, arg := mtype + (seq % p2 16) <<< 8 + (part % 4) <<< 24 }
  let (c1, p) := c.sendTo dst h (toBytes 64 payload.toNat)
  if p.isSome then c1.send (.mgmt dst mtype seq part payload) else c1

/-- A LINK_LOCAL management message on one port, which a device without an id may send too (R284, R289, R320). -/
def sendMgmtLink (c : Chip) (p dst mtype seq part : Nat) (payload : BitVec 512) : Chip :=
  let h : THdr := { opcode := opMgmt, vc := 4, linkLocal := true, dst, src := c.fab.deviceId, unit := 72, lenW := 16,
                    hops := c.imp.fabHopLimit, arg := mtype + (seq % p2 16) <<< 8 + (part % 4) <<< 24 }
  (c.queueFrame p { frame := { link := 0, thdr := some h.enc, payload := toBytes 64 payload.toNat }, dl := false }).send
    (.mgmt dst mtype seq part payload)

end Chip

end Sys2Proof.Machine
end

