-- ==== Sys2Proof/Machine/Access.lean ====
section
/-!
DEFINITION. Accesses: the platen cache and its replacement (R197 to R205), the home directory and the watch table (R199, R203),
uncorrectable units (R535), the host-coherent line cache (R328 to R331), and reading and writing bytes for a unit.
-/
namespace Sys2Proof.Machine

/-! ### Event codes (R502) -/

def evEccCorrected : Nat := 0x100
def evUeBuffer : Nat := 0x101
def evUePlaten : Nat := 0x102
def evUeHbm : Nat := 0x103
def evUeHlc : Nat := 0x104
def evPlatenLineDropped : Nat := 0x105
def evGalleyStuck : Nat := 0x106
def evLabelRange : Nat := 0x107
def evLossSpike : Nat := 0x108
def evStateChanged : Nat := 0x109
def evCringLost : Nat := 0x10A
def evLinkNarrowed : Nat := 0x200
def evDomainMismatch : Nat := 0x201
def evPortDown : Nat := 0x202
def evHostLost : Nat := 0x203
def evCxlLinkChanged : Nat := 0x204
def evLevelLocked : Nat := 0x205
def evLaneRemapped : Nat := 0x300
def evLaneWeak : Nat := 0x301
def evBundleHalf : Nat := 0x302
def evBondCtrlError : Nat := 0x303
def evBondCtrlTransient : Nat := 0x304
def evEngineRetired : Nat := 0x305
def evWearWarn : Nat := 0x306
def evWearAlarm : Nat := 0x307
def evWearLimit : Nat := 0x308
def evPressLow : Nat := 0x400
def evClkLockLost : Nat := 0x401
def evEngineReset : Nat := 0x402
def evBedReset : Nat := 0x403
def evFormeReset : Nat := 0x404
def evHbmContentLost : Nat := 0x405
def evLimitApplied : Nat := 0x500
def evLeaseExpired : Nat := 0x501
def evCapUnmet : Nat := 0x502
def evMeasuredOnly : Nat := 0x503
def evMoRearmed : Nat := 0x504
def evRearmRefused : Nat := 0x505
def evFloor : Nat := 0x506
def evSensorFault : Nat := 0x507
def evThermThrottle : Nat := 0x508
def evThermStop : Nat := 0x509
def evThermTrip : Nat := 0x50A
def evOvsRestart : Nat := 0x600
def evImpInvalid : Nat := 0x601
def evCertInvalid : Nat := 0x602
def evFieldUnknown : Nat := 0x603
def evDeviceStop : Nat := 0x700
def evCleared : Nat := 0x701
def evPowerOn : Nat := 0x702
def evFolioTorn : Nat := 0x703

/-- Add to a 48-bit wrapping counter. -/
def bump48 (x : BitVec 48) (n : Nat) : BitVec 48 := x + BitVec.ofNat 48 n

/-! ### The platen cache -/

/-- Number of sets of an engine's cache part: 512 per MiB (R197). -/
def Engine.sets (x : Engine) : Nat := x.split.cache * 512

/-- The set of a line (the index function is the model's, PRESUMED, log entry 12). -/
def Engine.setOf (x : Engine) (addr : Nat) : Nat := (addr / 128) % x.sets

/-- The cache's lines replaced, kept or dropped one by one. -/
def Engine.mapCache (x : Engine) (f : PLine → Option PLine) : Engine := { x with cache := x.cache.filterMap f }

def Engine.findLine (x : Engine) (space addr : Nat) : Option PLine :=
  x.cache.find? fun l => l.space.toNat == space && l.addr == addr

/-- The lines of one set. -/
def Engine.inSet (x : Engine) (s : Nat) : List PLine := x.cache.filter fun l => x.setOf l.addr == s

/-- `key` of R202; `none` is INF. -/
def lineKey (l : PLine) (adm : BitVec 32) : Option Nat :=
  match l.nu with
  | none => none
  | some nu =>
    let late := (adm - nu).toInt
    if late ≤ 0 then some (-late).toNat else if late ≤ 256 then some 0 else none

/-- The first key is larger, INF being above every number. -/
def keyGt : Option Nat → Option Nat → Bool
  | none, some _ => true
  | some a, some b => decide (b < a)
  | _, none => false

/-- `choose_victim` of R202: the lowest empty way, else the line of the largest key, the least recent on a tie. -/
def chooseVictim (ls : List PLine) (adm : BitVec 32) : Nat :=
  match (List.range 16).find? fun w => ls.all fun l => l.way != w with
  | some w => w
  | none =>
    match (List.range 16).filterMap fun w => ls.find? fun l => l.way == w with
    | [] => 0
    | l0 :: rest =>
      (rest.foldl (fun best l =>
        let kb := lineKey best adm
        let kl := lineKey l adm
        if keyGt kl kb then l else if kl = kb ∧ l.recency < best.recency then l else best) l0).way

/-- The stamps that a touch gives a line (R202): `(nu, recency)`, and the engine's recency clock afterwards. -/
def Engine.stamp (x : Engine) (setLines : List PLine) (ent : QEntry) (streaming : Bool) : Option (BitVec 32) × Int × Int :=
  if streaming then
    (none, (setLines.map (·.recency)).foldl min x.recency - 1, x.recency)
  else
    let nu := if slugNextUse ent.slug = 0xFFFF then none else some (ent.adm + BitVec.ofNat 32 (slugNextUse ent.slug))
    (nu, x.recency + 1, x.recency + 1)

/-- Touch a line that is present (R202). -/
def Engine.touch (x : Engine) (ent : QEntry) (td : Nat) (streaming : Bool) (l : PLine) : Engine :=
  let (nu, r, clock) := x.stamp (x.inSet (x.setOf l.addr)) ent streaming
  { x with recency := clock,
           cache := x.cache.map fun m => if m.space == l.space && m.addr == l.addr then { m with td, nu, recency := r } else m }

/-- Install a line, evicting a victim when its set is full (R202). Answers the line that left. -/
def Engine.install (x : Engine) (ent : QEntry) (td : Nat) (streaming : Bool) (space addr : Nat) (data : BitVec 1024)
    (st : PLState) : Engine × Option PLine :=
  if x.sets = 0 then (x, none)
  else
    let s := x.setOf addr
    let ls := x.inSet s
    let way := chooseVictim ls x.adm
    let old := ls.find? fun l => l.way == way
    let (nu, r, clock) := x.stamp ls ent streaming
    let keep := x.cache.filter fun l => !(x.setOf l.addr == s && l.way == way)
    ({ x with recency := clock,
              cache := { space := BitVec.ofNat 2 space, addr, way, data, state := st, td, nu, recency := r } :: keep }, old)

namespace Chip

/-! ### The directory (R199) -/

/-- Withdraw an engine from a line's entry. -/
def dirWithdraw (c : Chip) (e line : Nat) : Chip :=
  { c with dir := (c.dir.map fun d => if d.line = line then { d with engines := d.engines.filter (· != e) } else d).filter
                    fun d => !d.engines.isEmpty }

/-- Drop or invalidate one platen copy: DEMAND leaves, TRACKED becomes TRACKED_INVALID (or leaves when `drop`). -/
def killCopy (c : Chip) (e space addr : Nat) (drop : Bool) : Chip :=
  c.onEngine e fun x => x.mapCache fun l =>
    if l.space.toNat == space && l.addr == addr then
      match l.state with
      | .snapshot => some l
      | .demand => none
      | _ => if drop then none else some { l with state := .trackedInvalid }
    else some l

/-- Both names of an HBM line: LOCAL, and BROADSHEET with the device's own id (R28). -/
def lineNames (c : Chip) (addr : Nat) : List (Nat × Nat) := [(0, addr), (1, c.fab.deviceId * p2 48 + addr)]

/-- A write to an HBM line consults its entry and invalidates every other engine's copy (R199). -/
def dirInvalidate (c : Chip) (line : Nat) (writer : Option Nat) : Chip :=
  match c.dir.find? fun d => d.line == line with
  | none => c
  | some d =>
    let others := d.engines.filter fun e => some e != writer
    let c1 := others.foldl (fun c e => (c.lineNames (line * 128)).foldl (fun c (sp, a) => c.killCopy e sp a false) c) c
    { c1 with dir := (c1.dir.map fun x => if x.line = line then { x with engines := x.engines.filter fun e => some e == writer } else x).filter
                       fun x => !x.engines.isEmpty }

/-- Sets of the directory: 4,194,304 entries, 16 ways (R199). -/
def dirSets : Nat := 262144

/-- Register an engine for a line; a full set loses its least recent entry, whose line leaves every cache (R199). -/
def dirRegister (c : Chip) (e line : Nat) : Chip :=
  match c.dir.find? fun d => d.line == line with
  | some _ =>
    { c with dir := c.dir.map fun d => if d.line = line then
               { d with engines := if d.engines.contains e then d.engines else d.engines ++ [e], recency := c.dirClock + 1 } else d,
             dirClock := c.dirClock + 1 }
  | none =>
    let f := line >>> 31
    let set := c.dir.filter fun d => d.line >>> 31 == f && d.line % dirSets == line % dirSets
    let c1 := if set.length < 16 then c else
      match set with
      | [] => c
      | d0 :: ds =>
        let v := ds.foldl (fun b d => if d.recency < b.recency then d else b) d0
        let c2 := v.engines.foldl (fun c e => (c.lineNames (v.line * 128)).foldl (fun c (sp, a) => c.killCopy e sp a true) c) c
        { c2 with dir := c2.dir.filter (fun d => d.line != v.line), dirEvict := modifyAt (bump48 · 1) c2.dirEvict f }
    { c1 with dir := c1.dir ++ [{ line, engines := [e], recency := c1.dirClock + 1 }], dirClock := c1.dirClock + 1 }

/-- A line that this device's own HBM holds, under either of its names (R28). -/
def ownHbm (c : Chip) (space addr : Nat) : Bool :=
  (space == 0 || (space == 1 && c.fab.idValid && addr >>> 48 == c.fab.deviceId)) && decide (addr % p2 48 < hbmTop)

/-- A line has left an engine's cache: its directory entry loses the engine, unless the cache still holds the line in a registered
state under its other name (R199). -/
def lineLeft (c : Chip) (e : Nat) (o : PLine) : Chip :=
  let line := o.addr % p2 48 / 128
  let stays := (c.lineNames (line * 128)).any fun (sp, a) => match (c.engine e).findLine sp a with
    | some l => l.state == .demand || l.state == .tracked
    | none => false
  if c.ownHbm o.space.toNat o.addr && !stays then c.dirWithdraw e line else c

/-! ### Watches (R203) -/

/-- Send an INVAL to every watcher of a line and drop the watches, which a refetch registers anew (DESIGN CHOICE, log entry 13). Answers the
numbers of the requests whose acceptance the write waits for. -/
def notifyWatchers (c : Chip) (line : Nat) : Chip × List Nat :=
  let ws := c.fab.watches.filter fun w => w.line == line
  if ws.isEmpty then (c, [])
  else
    let c0 := c.onFab fun f => { f with watches := f.watches.filter fun w => w.line != line }
    ws.foldl (fun (c, nums) w =>
      (c.request fabUnit 0 0 w.device { opcode := opInval, dst := w.device, addr := line * 128, unit := 64, arg := w.unit } [],
       nums ++ [c.fab.nextReq]))
      (c0, [])

/-! ### Uncorrectable units (R535) -/

/-- Record the uncorrectable error that a read of an address meets, as a unit error in the domain of the memory (R478). -/
def ueEvent (c : Chip) (a : Nat) : Chip :=
  match placeOf a with
  | .hbm m => c.unitError evUeHbm .deferred (74 + m / 4) (.forme (m / 4)) (some (unitOf a)) [BitVec.ofNat 64 (unitOf a)]
  | .platen e _ => c.unitError evUePlaten .deferred (80 + e / 16) (.engine e) (some (unitOf a)) [BitVec.ofNat 64 (unitOf a)]
  | .buffer e _ => c.unitError evUeBuffer .deferred e (.engine e) (some (unitOf a)) [BitVec.ofNat 64 (unitOf a)]
  | .nowhere => c

/-- The addresses lie in a unit that holds an uncorrectable error. DEDUCED, log entry 50. -/
def ueAt (c : Chip) (addrs : List Nat) : Option Nat :=
  if c.ue.isEmpty then none else addrs.find? fun a => c.ue.contains (unitOf a)

/-- Units that a write leaves uncorrectable because it covers only part of them: the first address of such a write. -/
def uePartial (c : Chip) (addrs : List Nat) : Option Nat :=
  if c.ue.isEmpty then none
  else addrs.find? fun a => c.ue.contains (unitOf a) &&
    !((List.range (unitBytes a)).all fun i => addrs.contains (unitOf a + i))

/-! ### Plain LOCAL memory -/

/-- Lines of HBM that a list of addresses touches. -/
def hbmLines (addrs : List Nat) : List Nat := ((addrs.filter (· < hbmTop)).map (· / 128)).eraseDups

/-- Patch a platen line's bytes with what was written. -/
def patchLine (l : PLine) (base : Nat) (cells : List (Nat × Byte)) : BitVec 1024 :=
  cells.foldl (fun d (a, b) =>
    if base ≤ a ∧ a < base + 128 then
      let sh := 8 * (a - base)
      (d &&& ~~~(BitVec.ofNat 1024 (0xFF <<< sh))) ||| BitVec.ofNat 1024 (b.toNat <<< sh)
    else d) l.data

/-- Write bytes to LOCAL memory for a unit: the copies of other engines are invalidated, the watchers told, the writer's own
cached lines updated, and then memory holds the bytes (R198, R199, R203). The numbers are those of the invalidations sent. -/
def storeLocal (c : Chip) (writer : Option Nat) (cells : List (Nat × Byte)) : Chip × List Nat :=
  let addrs := cells.map (·.1)
  let c0 := { c with ue := if c.ue.isEmpty then [] else c.ue.filter fun u => !(addrs.any fun a => unitOf a == u) }
  let (c1, txns) := (hbmLines addrs).foldl (fun (c, ts) line =>
    let (c', ts') := (c.dirInvalidate line writer).notifyWatchers line
    (c', ts ++ ts')) (c0, [])
  let c2 := match writer with
    | none => c1
    | some e => c1.onEngine e fun x => x.mapCache fun l =>
        if l.space.toNat = 0 then some { l with data := patchLine l l.addr cells }
        else if l.space.toNat = 1 ∧ l.addr >>> 48 = c1.fab.deviceId then some { l with data := patchLine l (l.addr % p2 48) cells }
        else some l
  let c2 := match writer with
    | none => c2
    | some e => (hbmLines addrs).foldl (fun (c : Chip) line => c.bankIssue e (line * 128)) c2
  let c3 := (hbmLines addrs).foldl (fun c line =>
    c.countWrite (writer.map (· / 16)) (line * 128) (addrs.filter fun a => a / 128 == line).length) c2
  ({ c3 with mem := cells.foldl (fun m (a, b) => m.put a b) c3.mem }, txns)

/-- The spill regions whose engine holds records, as first address and size (R223). -/
def spillRegions (c : Chip) : List (Nat × Nat) :=
  c.engines.filterMap fun x =>
    if x.spike.shareMib = 0 ∨ x.spike.frame.all (·.2.recs.isEmpty) then none
    else some (x.spike.base, x.spike.frames * x.spike.shareMib * 0x100000)

/-- A byte as software reads it: what memory holds, or unspecified data in a spill region that is in use (R223; DESIGN CHOICE, log
entry 73). -/
def seen (c : Chip) (a : Nat) : Byte :=
  if c.spillRegions.any fun r => decide (r.1 ≤ a ∧ a < r.1 + r.2) then Config.spillByte a else c.mem.get a

/-- `n` bytes as software reads them, as a little-endian number. -/
def seenWord (c : Chip) (a n : Nat) : Nat := if c.spillRegions.isEmpty then c.mem.read a n else ofBytes ((addrRange a n).map c.seen)

/-- Read LOCAL bytes for a unit of a forme, outside every cache: an unmapped or refused address or a bad unit ends it. -/
def readLocal (c : Chip) (from_ : Nat) (addrs : List Nat) : Except Status (List Byte) :=
  match addrs.findSome? (c.accessError from_) with
  | some st => .error st
  | none =>
    match c.ueAt addrs with
    | some a => .error (ueStatus a)
    | none => .ok (addrs.map c.seen)

/-- Write LOCAL bytes for a unit, all of them or none: address and unit checks first (R24, R535). -/
def writeLocal (c : Chip) (from_ : Nat) (writer : Option Nat) (cells : List (Nat × Byte)) : Except Status Chip :=
  match (cells.map (·.1)).findSome? (c.accessError from_) with
  | some st => .error st
  | none =>
    match c.uePartial (cells.map (·.1)) with
    | some a => .error (ueStatus a)
    | none => .ok (c.storeLocal writer cells).1

/-- Consecutive bytes as cells. -/
def cellsAt (a : Nat) (bs : List Byte) : List (Nat × Byte) := (bs.zipIdx a).map fun (b, i) => (i, b)

/-! ### The host-coherent line cache (R328 to R331) -/

def onHost (c : Chip) (f : HostPort → HostPort) : Chip := { c with host := f c.host }

/-- CXL.cache requests can be issued (R326, R327). -/
def hostAvail (c : Chip) : Bool := c.host.l0 && c.host.bme && c.host.cxlCache

/-- The accesses of an engine of F1 to F3 to host memory are refused while F0's network-on-chip is reset (R421). -/
def hostShut (c : Chip) (e : Nat) : Bool := c.formeDown.contains 0 && e / 16 != 0

/-- An engine's accesses to its host ring can be made: they wait while F0 is reset (DEDUCED, log entry 106). -/
def ringAvail (c : Chip) (e : Nat) : Bool := c.hostAvail && !c.hostShut e

/-- Host memory as last seen: one byte, one line. -/
def hostByte (c : Chip) (a : Nat) : Byte := (cellAt a c.host.mem).getD 0
def hostMemLine (c : Chip) (line : Nat) : BitVec 512 := BitVec.ofNat 512 (ofBytes ((addrRange (line * 64) 64).map c.hostByte))

/-- Host memory takes a line's bytes. -/
def hostMemSet (c : Chip) (line : Nat) (d : BitVec 512) : Chip :=
  let put (m : List Host.Cell) (p : Byte × Nat) : List Host.Cell :=
    if p.1 = 0 then cellErase (line * 64 + p.2) m else cellSet (line * 64 + p.2) p.1 m
  c.onHost fun h => { h with mem := (toBytes 64 d.toNat).zipIdx.foldl put h.mem }

/-- Host memory takes a line of the cache; a double-bit error in it leaves it as poison (R328). -/
def hostPut (c : Chip) (line : Nat) (l : HLine) : Chip :=
  (c.hostMemSet line l.data).onHost fun h => { h with
    poison := if l.ue then (if h.poison.contains line then h.poison else h.poison ++ [line]) else h.poison.erase line }

/-- A request of the device leaves it (R323). -/
def hostAsk (c : Chip) (op : HostOp) (line : Nat) : Chip := c.send (.hostReq op line none)

/-- A device write-back reaches host memory (R329, R332). -/
def hostWriteOut (c : Chip) (op : HostOp) (line : Nat) (l : HLine) : Chip := (c.hostPut line l).send (.hostReq op line (some l.data))

/-- A TRACKED copy of a host line made TRACKED_INVALID. -/
def staleHostCopy (line : Nat) (l : PLine) : Option PLine :=
  if l.space.toNat = 2 ∧ l.addr = line * 64 / 128 * 128 ∧ l.state = .tracked then some { l with state := .trackedInvalid } else some l

/-- Every TRACKED platen copy of a host line is made TRACKED_INVALID (R203, R329, R330). -/
def killHostCopies (c : Chip) (line : Nat) : Chip :=
  { c with engines := c.engines.map (·.mapCache (staleHostCopy line)) }

/-- The line's current bytes as the device would read them. -/
def hostLineData (c : Chip) (line : Nat) : BitVec 512 :=
  match Tab.find? line c.host.lines with
  | some l => l.data
  | none => c.hostMemLine line

/-- A line leaves the cache or the pin table: DirtyEvict with data, CleanEvict, or CleanEvictNoData of a SHARED line (R329; DESIGN CHOICE, log
entry 92). -/
def hostLeave (c : Chip) (line : Nat) (l : HLine) : Chip :=
  match l.state with
  | .modified => c.hostWriteOut .dirtyEvict line l
  | .exclusive => c.hostAsk .cleanEvict line
  | .shared => c.hostAsk .cleanEvictNoData line

/-- Make room in a set of 16 ways by least recent use; pinned lines occupy no way (R328, R329). -/
def hostEvict (c : Chip) (line : Nat) : Chip :=
  let set := c.host.lines.filter fun (k, l) => k % 8192 == line % 8192 && !l.pinned
  if set.length < 16 then c
  else
    match set with
    | [] => c
    | s0 :: ss =>
      let (k, l) := ss.foldl (fun b x => if x.2.recency < b.2.recency then x else b) s0
      let c1 := c.hostLeave k l
      (c1.onHost fun h => { h with lines := Tab.erase k h.lines }).killHostCopies k

/-- Install or refresh a line. -/
def hostInstall (c : Chip) (line : Nat) (st : HLState) (d : BitVec 512) : Chip :=
  let c1 := if (Tab.find? line c.host.lines).isSome then c else c.hostEvict line
  c1.onHost fun h =>
    let pinned := match Tab.find? line h.lines with | some l => l.pinned | none => false
    { h with lines := Tab.set line { state := if pinned then .shared else st, data := d, pinned, recency := h.recency + 1 } h.lines,
             recency := h.recency + 1 }

/-- Hits on lines of the cache: each is counted, and is now the most recently used (R328, R350). -/
def hostTouch (c : Chip) (lines : List Nat) : Chip :=
  lines.foldl (fun c k => match Tab.find? k c.host.lines with
    | none => c
    | some l => c.onHost fun h => { h with
        lines := Tab.set k { l with recency := h.recency + 1 } h.lines, recency := h.recency + 1, hits := bump48 h.hits 1 }) c

/-- Accesses that a line cache without the line must ask the host for. -/
def hostMiss (c : Chip) (n : Nat) : Chip := c.onHost fun h => { h with misses := bump48 h.misses n }

/-- A pinned line is pinned no more: it leaves the pin table, whose lines are clean, as soon as its request can be issued (R327, R328; DESIGN
CHOICE, log entry 92). -/
def unpin (c : Chip) (line : Nat) : Chip :=
  match Tab.find? line c.host.lines with
  | none => c
  | some l =>
    if !l.pinned then c
    else if !c.hostAvail then c.onHost fun h => { h with unpins := h.unpins ++ [line] }
    else ((c.hostLeave line l).onHost fun h => { h with lines := Tab.erase line h.lines }).killHostCopies line

/-- A line with some of its bytes replaced. -/
def mergeLine (d : BitVec 512) (line : Nat) (cells : List (Nat × Byte)) : BitVec 512 :=
  cells.foldl (fun d (a, b) =>
    if a / 64 = line then
      let sh := 8 * (a % 64)
      (d &&& ~~~(BitVec.ofNat 512 (0xFF <<< sh))) ||| BitVec.ofNat 512 (b.toNat <<< sh)
    else d) d

/-- A line's bytes after a write of the device: what error the line has stays in it unless the write covers all of it (R328). -/
def mergedLine (c : Chip) (line : Nat) (cells : List (Nat × Byte)) : BitVec 512 × Bool :=
  let whole := (addrRange (line * 64) 64).all fun a => cells.any fun p => p.1 == a
  let bad := match Tab.find? line c.host.lines with | some l => l.ue | none => false
  (mergeLine (c.hostLineData line) line cells, bad && !whole)

/-- Platen copies of host lines follow a write: those of the writing engine are updated, and the others invalidated (R203, R329). -/
def hostCopies (c : Chip) (writer : Option Nat) (cells : List (Nat × Byte)) : Chip :=
  let c1 := ((cells.map fun (a, _) => a / 64).eraseDups).foldl (fun (c : Chip) line =>
    { c with engines := c.engines.zipIdx.map fun (x, e) => if some e = writer then x else x.mapCache (staleHostCopy line) }) c
  match writer with
  | none => c1
  | some e => c1.onEngine e fun x => x.mapCache fun l =>
      if l.space.toNat = 2 then some { l with data := patchLine l l.addr cells } else some l

/-- A write of the device to HOST space, ownership being held: the lines become MODIFIED. A pinned line is written back whole and stays SHARED,
and the ownership gained for it has been used (R328, R329, R331). -/
def hostStore (c : Chip) (writer : Option Nat) (cells : List (Nat × Byte)) : Chip :=
  (((cells.map fun (a, _) => a / 64).eraseDups).foldl (fun (c : Chip) line =>
    let (d, ue) := c.mergedLine line cells
    let pinned := match Tab.find? line c.host.lines with | some l => l.pinned | none => false
    let c := (c.hostInstall line .modified d).onHost fun h => { h with
      lines := if ue then h.lines.map fun (k, l) => if k = line then (k, { l with ue }) else (k, l) else h.lines }
    if !pinned then c
    else (c.hostWriteOut .dirtyEvict line { state := .shared, data := d, ue }).onHost fun h => { h with
      reqs := h.reqs.filter fun r => !(r.line == line && r.kind != .rdShared && r.answer.isSome) }) c).hostCopies writer cells

/-- A write through to host memory with ItoMWr, which leaves no MODIFIED copy: a copy that the cache holds is SHARED with the same bytes (R332). -/
def hostThrough (c : Chip) (writer : Option Nat) (cells : List (Nat × Byte)) : Chip :=
  (((cells.map fun (a, _) => a / 64).eraseDups).foldl (fun (c : Chip) line =>
    let (d, ue) := c.mergedLine line cells
    let bad := ue || ((Tab.find? line c.host.lines).isNone && c.host.poison.contains line)
    (c.hostWriteOut .itoMWr line { state := .shared, data := d, ue := bad }).onHost fun h => { h with
      lines := h.lines.map fun (k, l) => if k = line then (k, { l with state := .shared, data := d, ue }) else (k, l) }) c).hostCopies writer cells

/-- The lines of a run of host bytes. -/
def linesOf (a n : Nat) : List Nat := ((addrRange a n).map (· / 64)).eraseDups

/-- A read on the control plane with RdCurr: served from the line cache or from host memory, nothing installed (R329). Bits [63:52] of every
byte's address are zero (R29). `none` while CXL.cache requests cannot be issued; poison ends it. -/
def hostRdCurr (c : Chip) (a n : Nat) : Option (Except Status (List Byte)) :=
  if !c.hostAvail then none
  else if p2 52 < a + n then some (.error .addrUnmapped)
  else
    let lines := ((addrRange a n).map (· / 64)).eraseDups
    let bad (l : Nat) : Bool := match Tab.find? l c.host.lines with
      | some h => h.ue
      | none => c.host.poison.contains l
    if lines.any bad then some (.error .hostPoison)
    else some (.ok ((addrRange a n).map fun b => BitVec.ofNat 8 ((c.hostLineData (b / 64)).toNat >>> (8 * (b % 64)))))

/-- A read has met lines of the line cache that hold an uncorrectable error: a unit error of the device (R328, R478, R502). -/
def noteHlc (c : Chip) (lines : List Nat) : Chip :=
  match lines.find? fun l => (match Tab.find? l c.host.lines with | some h => h.ue | none => false) with
  | some l => c.unitError evUeHlc .deferred 78 .device (some (l * 64)) [BitVec.ofNat 64 (l * 64)]
  | none => c

/-- A read with RdCurr, and what it leaves: its hits and misses are counted, and its lines most recently used (R328, R350). -/
def hostRead (c : Chip) (a n : Nat) : Option (Except Status (List Byte)) × Chip :=
  match c.hostRdCurr a n with
  | none => (none, c)
  | some (.error .addrUnmapped) => (some (.error .addrUnmapped), c)
  | some r =>
    let out := (linesOf a n).filter fun l => (Tab.find? l c.host.lines).isNone
    (some r, (out.foldl (fun (c : Chip) l => c.hostAsk .rdCurr l) (((c.noteHlc (linesOf a n)).hostTouch (linesOf a n)).hostMiss out.length)))

/-- An MSI-X message of a vector: sent, or left pending while the vector is masked or Bus Master Enable is 0 (R327, R517). -/
def msixRaise (c : Chip) (v : Nat) : Chip :=
  match c.host.msix[v]? with
  | none => c
  | some m =>
    if m.control.getLsbD 0 || !c.host.bme then c.onHost fun h => { h with msix := modifyAt (fun m => { m with pending := true }) h.msix v }
    else (c.onHost fun h => { h with msix := modifyAt (fun m => { m with pending := false }) h.msix v }).send (.msix v m.addr m.data)

/-- Write back every MODIFIED line, each then SHARED (R332, R334). A line with a double-bit error stays bad for its readers (R328). DEDUCED, log
entry 55. -/
def hostFlush (c : Chip) (sel : Nat → Bool) : Chip :=
  (c.host.lines.filter fun (k, l) => l.state == .modified && sel k).foldl (fun c (k, l) =>
    (c.hostWriteOut .dirtyEvict k l).onHost fun h => { h with lines := Tab.set k { l with state := .shared } h.lines }) c

/-- The device holds a host line in a state that a kind of request would give. -/
def hostHolds (c : Chip) (line : Nat) (k : HReqKind) : Bool :=
  match Tab.find? line c.host.lines with
  | none => false
  | some l => (match k with | .rdShared => true | _ => l.state == .modified || l.state == .exclusive)

/-- A user of the line cache owns a line: the cache does, or the line is pinned and the user's request for it has been answered (R328). -/
def hostOwns (c : Chip) (e id line : Nat) : Bool :=
  c.hostHolds line .rdOwn ||
  ((Tab.find? line c.host.lines).any (·.pinned) && c.host.reqs.any fun r =>
    r.engine == e && r.entry == id && r.line == line && r.kind != .rdShared && r.answer.isSome)

/-- A CXL.cache request of a user: a line that the cache holds SHARED is a hit that needs its ownership (R329). -/
def askHost (c : Chip) (e id line : Nat) (k : HReqKind) : Chip :=
  let c1 := if (Tab.find? line c.host.lines).isSome then c.hostTouch [line] else c.hostMiss 1
  (c1.hostAsk (match k with | .rdShared => .rdShared | .rdOwn => .rdOwn | .rdOwnNoData => .rdOwnNoData) line).onHost fun h => { h with
    reqs := (h.reqs.filter fun r => !(r.engine == e && r.entry == id && r.line == line && r.kind == k)) ++ [{ line, kind := k, engine := e, entry := id }] }

/-- The control plane as a user of the line cache: records, flags and line 1 of the control blocks. -/
def ctlUnit : Nat := 252

/-- A HOST-scope write on the control plane (R331, R335, R337): true once it is performed. It asks for the lines that the cache does not own and
waits for them. A line answered with poison takes the write and stays bad (DESIGN CHOICE, log entry 112). -/
def hostCtlWrite (c : Chip) (a : Nat) (bs : List Byte) : Bool × Chip :=
  let ls := linesOf a bs.length
  let c0 := ls.foldl (fun (c : Chip) l =>
    match c.host.reqs.find? fun r => r.engine == ctlUnit && r.line == l with
    | some { answer := some (d, true), .. } =>
      (c.hostInstall l .exclusive d).onHost fun h => { h with
        lines := h.lines.map fun (k, x) => if k = l then (k, { x with ue := true }) else (k, x) }
    | _ => c) c
  let missing := ls.filter fun l => !c0.hostOwns ctlUnit 0 l
  if missing.isEmpty then
    (true, ((c0.hostTouch ls).onHost fun h => { h with reqs := h.reqs.filter fun r => !(r.engine == ctlUnit && ls.contains r.line && r.answer.isSome) }).hostStore
      none (cellsAt a bs))
  else
    (false, missing.foldl (fun (c : Chip) l =>
      if c.host.reqs.any fun r => r.engine == ctlUnit && r.line == l && r.answer.isNone then c
      else c.askHost ctlUnit 0 l (if a ≤ 64 * l && decide (64 * l + 64 ≤ a + bs.length) then .rdOwnNoData else .rdOwn)) c0)

end Chip

end Sys2Proof.Machine
end

