-- ==== Sys2Proof/Machine/RefDot.lean ====
section
/-!
DEFINITION. The reference order of operations (chapter 3): groups of 32 logical indices, the alignment window, the single
rounding into the accumulator, the pass modes of FP32_SPLIT, integer accumulation and the order-free maximum and minimum.
A present member is `some v`, an absent one `none` (R69, R84).
-/
namespace Sys2Proof.Machine

/-- floor(log2 |p|) of a non-zero finite value, and `none` of anything else (R71). -/
def FVal.lead? : FVal → Option Int
  | .fin _ m e => if m = 0 then none else some ((Nat.log2 m : Int) + e)
  | .nan => none
  | .inf _ => none

/-- The largest lead of a list of products (R71). -/
def maxLead (ps : List FVal) : Option Int :=
  ps.foldl (fun acc p => match acc, p.lead? with
    | none, l => l
    | some a, some l => some (max a l)
    | some a, none => some a) none

/-- The aligned product q = sign × floor(|p| ÷ unit) of R71, with `unitExp = lead − 61`. -/
def alignedUnits (unitExp : Int) : FVal → Int
  | .fin s m e =>
    let n : Nat := if unitExp ≤ e then m <<< (e - unitExp).toNat else m >>> (unitExp - e).toNat
    if s then -(n : Int) else n
  | .nan => 0
  | .inf _ => 0

/-- `group_sum` of R75. -/
def groupSum (ps : List FVal) : FVal :=
  if ps.any FVal.isNaN then .nan
  else if ps.any FVal.isInf then
    let pos := ps.any (fun p => p == .inf false)
    let neg := ps.any (fun p => p == .inf true)
    if pos && neg then .nan else .inf neg
  else match maxLead ps with
    | none => .fin (!ps.isEmpty && ps.all FVal.neg?) 0 0
    | some lead => FVal.ofInt ((ps.map (alignedUnits (lead - 61))).sum) (lead - 61)

/-- `add_group` of R75: `ps` holds the present members only. -/
def addGroup (acc : W32) (ps : List FVal) : W32 :=
  if ps.isEmpty then acc else toF32 (FVal.add (f32 acc) (groupSum ps))

/-- Members of one group that are present. -/
def present (g : List (Option FVal)) : List FVal := g.filterMap id

/-- A list cut into groups of 32 consecutive logical indices (R69); `fuel` bounds the number of groups. -/
def chunk32 {α : Type} : Nat → List α → List (List α)
  | 0, _ => []
  | fuel + 1, xs => if xs.isEmpty then [] else xs.take 32 :: chunk32 fuel (xs.drop 32)

/-- Groups of 32 of a list (R69). -/
def groups32 {α : Type} (xs : List α) : List (List α) := chunk32 (xs.length / 32 + 1) xs

/-- `dot_reference` of R75 over products already formed exactly, absent members included as `none`. -/
def dotReference (acc : W32) (ps : List (Option FVal)) : W32 :=
  (groups32 ps).foldl (fun a g => addGroup a (present g)) acc

/-- The integer accumulation of R82: wrapping, or clamped at every group boundary. -/
def addGroupInt (sat : Bool) (acc : W32) (s : Int) : W32 :=
  let x := acc.toInt + s
  if sat then BitVec.ofInt 32 (max (-2147483648) (min 2147483647 x)) else BitVec.ofInt 32 x

/-- Integer sum over a list with absent members, group by group (R69, R82). -/
def dotReferenceInt (sat : Bool) (acc : W32) (ps : List (Option Int)) : W32 :=
  (groups32 ps).foldl (fun a g =>
    let m := g.filterMap id
    if m.isEmpty then a else addGroupInt sat a m.sum) acc

/-- The product of one FP32_SPLIT pass; outside hi·hi a product with a non-finite factor is +0 (R81). -/
def passProduct (hihi : Bool) (x y : FVal) : FVal :=
  if !hihi && (x.isNaN || x.isInf || y.isNaN || y.isInf) then .zero else FVal.mul x y

/-- One group under FP32_SPLIT: the passes of the mode, each added before the next (R80). -/
def addGroupSplit (passes : Nat) (acc : W32) (g : List (W32 × W32)) : W32 :=
  let hi (w : W32) : FVal := Fmt.bf16.decode (splitHiLo w).1
  let lo (w : W32) : FVal := Fmt.bf16.decode (splitHiLo w).2
  let a1 := if passes ≥ 3 then addGroup acc (g.map fun (x, y) => passProduct false (lo x) (hi y)) else acc
  let a2 := if passes ≥ 2 then addGroup a1 (g.map fun (x, y) => passProduct false (hi x) (lo y)) else a1
  addGroup a2 (g.map fun (x, y) => passProduct true (hi x) (hi y))

/-- One output element under FP32_SPLIT (R80). -/
def dotSplit (passes : Nat) (acc : W32) (ps : List (W32 × W32)) : W32 :=
  (groups32 ps).foldl (addGroupSplit passes) acc

/-- The larger of two FP32 words: +0 above −0, NaN wins as the canonical NaN (R85, R131). -/
def maxF (a b : W32) : W32 :=
  let x := f32 a
  let y := f32 b
  if x.isNaN || y.isNaN then f32NaN
  else if FVal.lt x y then b
  else if FVal.lt y x then a
  else if x.neg? then b else a

/-- The smaller of two FP32 words, under the same rules. -/
def minF (a b : W32) : W32 :=
  let x := f32 a
  let y := f32 b
  if x.isNaN || y.isNaN then f32NaN
  else if FVal.lt x y then a
  else if FVal.lt y x then b
  else if x.neg? then a else b

/-- The larger of two INT32 words. -/
def maxI (a b : W32) : W32 := if a.toInt < b.toInt then b else a
/-- The smaller of two INT32 words. -/
def minI (a b : W32) : W32 := if b.toInt < a.toInt then b else a

/-- The order-free maximum of R85 over the present FP32 elements. -/
def maxRef (xs : List W32) : W32 := xs.foldl maxF 0xFF800000#32
/-- The order-free minimum of R85. -/
def minRef (xs : List W32) : W32 := xs.foldl minF 0x7F800000#32
/-- The INT32 maximum and minimum of R85. -/
def maxRefI (xs : List W32) : W32 := xs.foldl maxI 0x80000000#32
def minRefI (xs : List W32) : W32 := xs.foldl minI 0x7FFFFFFF#32

end Sys2Proof.Machine
end

