-- ==== Sys2Proof/Machine/Flags.lean ====
section
/-!
DEFINITION. The arithmetic of one element (chapter 5): every elementwise operation of the catalogue R533 on FP32 and INT32
words, each rounded once (R130). The functions that are not algebraic are enclosed between two integers at a working
precision, and the precision is doubled until both ends round to the same word.
(The KS4 has no condition flags; the one-bit results of this block are the INT32 1 or 0 of the comparisons here.)
-/
namespace Sys2Proof.Machine

def addF (a b : W32) : W32 := toF32 (FVal.add (f32 a) (f32 b))
def subF (a b : W32) : W32 := toF32 (FVal.sub (f32 a) (f32 b))
def mulF (a b : W32) : W32 := toF32 (FVal.mul (f32 a) (f32 b))
def fmaF (a b c : W32) : W32 := toF32 (FVal.add (FVal.mul (f32 a) (f32 b)) (f32 c))

/-- The value `n / d * 2^e` rounded once to FP32: the quotient is taken to 64 bits below its leading bit, with a sticky bit. -/
def ratioF (neg : Bool) (n d : Nat) (e : Int) : W32 :=
  let sh := Nat.log2 d + 64
  let q := (n <<< sh) / d
  let sticky := if (n <<< sh) % d = 0 then 0 else 1
  toF32 (.fin neg (2 * q + sticky) (e - sh - 1))

/-- Correctly rounded quotient (R130, R131). -/
def divF (a b : W32) : W32 :=
  match f32 a, f32 b with
  | .nan, _ => f32NaN
  | _, .nan => f32NaN
  | .inf _, .inf _ => f32NaN
  | .inf s, .fin t _ _ => toF32 (.inf (s != t))
  | .fin s _ _, .inf t => toF32 (.fin (s != t) 0 0)
  | .fin s m e, .fin t n f =>
    if n = 0 then (if m = 0 then f32NaN else toF32 (.inf (s != t)))
    else ratioF (s != t) m n (e - f)

/-- Newton's iteration toward the integer square root from above; stops when it no longer falls. -/
def isqrtLoop (n : Nat) : Nat → Nat → Nat
  | 0, x => x
  | fuel + 1, x => let y := (x + n / x) / 2; if y < x then isqrtLoop n fuel y else x

/-- Integer square root. -/
def isqrt (n : Nat) : Nat :=
  if n = 0 then 0 else isqrtLoop n (Nat.log2 n + 4) (p2 (Nat.log2 n / 2 + 1))

/-- Correctly rounded square root of a finite value: an even exponent and 64 more bits, with a sticky bit. -/
def sqrtFin (m : Nat) (e : Int) : W32 :=
  let odd : Nat := if e % 2 = 0 then 0 else 1
  let n := m <<< (128 + odd)
  let r := isqrt n
  let sticky := if r * r = n then 0 else 1
  toF32 (.fin false (2 * r + sticky) ((e - odd) / 2 - 64 - 1))

def sqrtF (a : W32) : W32 :=
  match f32 a with
  | .nan => f32NaN
  | .inf s => if s then f32NaN else a
  | .fin s m e => if m = 0 then toF32 (.fin s 0 0) else if s then f32NaN else sqrtFin m e

/-- Correctly rounded 1 ÷ √(m 2^e): √(2^(2K) ÷ m) with a sticky bit. -/
def rsqrtFin (m : Nat) (e : Int) : W32 :=
  let odd : Nat := if e % 2 = 0 then 0 else 1
  let k := Nat.log2 m + 96
  let n := p2 (2 * k) / (m <<< odd)
  let r := isqrt n
  let sticky := if r * r * (m <<< odd) = p2 (2 * k) then 0 else 1
  toF32 (.fin false (2 * r + sticky) (-((e - odd) / 2) - k - 1))

def rsqrtF (a : W32) : W32 :=
  match f32 a with
  | .nan => f32NaN
  | .inf s => if s then f32NaN else toF32 .zero
  | .fin s m e => if m = 0 then toF32 (.inf s) else if s then f32NaN else rsqrtFin m e

/-- A non-negative real enclosed between `lo * 2^exp` and `hi * 2^exp`. -/
structure Encl where
  lo  : Nat
  hi  : Nat
  exp : Int
  deriving DecidableEq, Repr

namespace Encl

/-- Sum of two enclosures at one exponent. -/
def add (a b : Encl) : Encl :=
  let q := min a.exp b.exp
  { lo := (a.lo <<< (a.exp - q).toNat) + (b.lo <<< (b.exp - q).toNat),
    hi := (a.hi <<< (a.exp - q).toNat) + (b.hi <<< (b.exp - q).toNat), exp := q }

/-- Difference of two enclosures, cut off at zero. -/
def sub (a b : Encl) : Encl :=
  let q := min a.exp b.exp
  { lo := (a.lo <<< (a.exp - q).toNat) - (b.hi <<< (b.exp - q).toNat),
    hi := (a.hi <<< (a.exp - q).toNat) - (b.lo <<< (b.exp - q).toNat), exp := q }

/-- An enclosure trimmed to about `p` bits, outward. -/
def trim (p : Nat) (a : Encl) : Encl :=
  let k := Nat.log2 (a.hi + 1)
  if k ≤ p then a
  else { lo := a.lo >>> (k - p), hi := (a.hi >>> (k - p)) + 1, exp := a.exp + (k - p : Nat) }

def mul (p : Nat) (a b : Encl) : Encl :=
  trim p { lo := a.lo * b.lo, hi := a.hi * b.hi, exp := a.exp + b.exp }

/-- Quotient of enclosures; the divisor's lower end is not zero. -/
def div (p : Nat) (a b : Encl) : Encl :=
  let sh := Nat.log2 (b.hi + 1) + p
  { lo := (a.lo <<< sh) / b.hi, hi := (a.hi <<< sh) / b.lo + 1, exp := a.exp - b.exp - sh }

def exact (m : Nat) (e : Int) : Encl := { lo := m, hi := m, exp := e }

end Encl

/-- The two bounds of a series Σ term_k in units of `2^(-p)`, where the next term is `t * num / (den (k+1))`; every step
truncates, and each truncated term is short by less than `k + 1` units in the upper bound. -/
def seriesLoop (step : Nat → Nat → Nat) : Nat → Nat → Nat → Nat → Nat × Nat
  | 0, k, _, acc => (acc, k)
  | fuel + 1, k, t, acc =>
    if t = 0 then (acc, k) else seriesLoop step fuel (k + 1) (step k t) (acc + t)

/-- e^y for a real y in [0, 1/2] given as `y * 2^(-p)` exactly: the Taylor series at precision `p`. -/
def expSeries (p y : Nat) : Encl :=
  let (s, k) := seriesLoop (fun k t => ((t * y) >>> p) / (k + 1)) (2 * p + 8) 0 (p2 p) 0
  { lo := s, hi := s + 2 * k + 2, exp := -(p : Int) }

/-- Repeated squaring of an enclosure. -/
def squareTimes (p : Nat) : Nat → Encl → Encl
  | 0, a => a
  | n + 1, a => squareTimes p n (Encl.mul p a a)

/-- e^x for x = `m * 2^e` with 0 ≤ x < 2^8: x is divided by 2^9, and the series is squared nine times. -/
def expEncl (p m : Nat) (e : Int) : Encl :=
  let sh := e - 9 + p
  let ylo := if 0 ≤ sh then m <<< sh.toNat else m >>> (-sh).toNat
  let lo := expSeries p ylo
  let hi := if 0 ≤ sh then lo else expSeries p (ylo + 1)
  squareTimes p 9 { lo := lo.lo, hi := hi.hi, exp := lo.exp }

/-- e^(−x) for the same range. -/
def expNegEncl (p m : Nat) (e : Int) : Encl := Encl.div p (Encl.exact 1 0) (expEncl p m e)

/-- The FP32 word of an enclosure's two ends when they agree, doubling the precision until they do. -/
def ziv (f : Nat → Encl) (neg : Bool) : Nat → Nat → W32
  | 0, p => let r := f p; toF32 (.fin neg r.lo r.exp)
  | fuel + 1, p =>
    let r := f p
    let a := toF32 (.fin neg r.lo r.exp)
    let b := toF32 (.fin neg r.hi r.exp)
    if a = b then a else ziv f neg fuel (2 * p)

/-- True when the magnitude `m * 2^e` is at least `k`. -/
def magGe (m : Nat) (e : Int) (k : Nat) : Bool :=
  if 0 ≤ e then k ≤ m <<< e.toNat else k <<< (-e).toNat ≤ m

/-- EXP (R130, R131). Beyond ±128 the result has overflowed or is below half the smallest subnormal. -/
def expF (a : W32) : W32 :=
  match f32 a with
  | .nan => f32NaN
  | .inf s => if s then toF32 .zero else a
  | .fin s m e =>
    if m = 0 then f32One
    else if magGe m e 128 then (if s then toF32 .zero else toF32 (.inf false))
    else ziv (fun p => if s then expNegEncl p m e else expEncl p m e) false 6 96

/-- 2 atanh(n/d) at precision `p`, for 0 ≤ n/d ≤ 1/2: the series 2 Σ z^(2k+1)/(2k+1). -/
def atanh2 (p n d : Nat) : Encl :=
  let z := (n <<< p) / d
  let z2 := (z * z) >>> p
  let (s, k) := (List.range (p + 4)).foldl (fun (acc : (Nat × Nat) × Nat) j =>
    let ((s, cnt), t) := acc
    if t = 0 then acc else ((s + t / (2 * j + 1), cnt + 1), (t * z2) >>> p)) ((0, 0), z) |>.1
  { lo := 2 * s, hi := 2 * s + 8 * k + 8, exp := -(p : Int) }

/-- ln 2 = 2 atanh(1/3). -/
def ln2Encl (p : Nat) : Encl := atanh2 p 1 3

/-- |ln x| for x = `m * 2^e` ≠ 1, and its sign: x = y 2^k with y in [3/4, 3/2). -/
def lnEncl (p m : Nat) (e : Int) : Bool × Encl :=
  let L := Nat.log2 m
  let big := 2 * m ≥ 3 * p2 L
  let lead := if big then L + 1 else L
  let k : Int := lead + e
  let one := p2 lead
  let yNeg := decide (m < one)
  let n := if yNeg then one - m else m - one
  let part := atanh2 p n (m + one)
  let l2 := ln2Encl (p + 8)
  let kl : Encl := { lo := l2.lo * k.natAbs, hi := l2.hi * k.natAbs, exp := l2.exp }
  if k = 0 then (yNeg, part)
  else if decide (k < 0) = yNeg then (yNeg, Encl.add kl part)
  else (decide (k < 0), Encl.sub kl part)

/-- LOG (R130, R131). -/
def logF (a : W32) : W32 :=
  match f32 a with
  | .nan => f32NaN
  | .inf s => if s then f32NaN else a
  | .fin s m e =>
    if m = 0 then toF32 (.inf true)
    else if s then f32NaN
    else if a = f32One then toF32 .zero
    else ziv (fun p => (lnEncl p m e).2) (lnEncl 96 m e).1 6 96

/-- TANH (R130, R131). Below 2^−13 the result rounds to the operand: tanh x lies within x³/3 of x. -/
def tanhF (a : W32) : W32 :=
  match f32 a with
  | .nan => f32NaN
  | .inf s => toF32 (.fin s 1 0)
  | .fin s m e =>
    if m = 0 ∨ (Nat.log2 m : Int) + e < -13 then a
    else if magGe m e 16 then toF32 (.fin s 1 0)
    else ziv (fun p =>
      let t := expNegEncl p m (e + 1)
      Encl.div p (Encl.sub (Encl.exact 1 0) t) (Encl.add (Encl.exact 1 0) t)) s 6 96

/-- 1 ÷ (1 + e^(−x)) as an enclosure, for x of either sign with |x| < 256. -/
def sigmoidEncl (p : Nat) (s : Bool) (m : Nat) (e : Int) : Encl :=
  let t := if m = 0 then Encl.exact 1 0 else expNegEncl p m e
  Encl.div p (if s then t else Encl.exact 1 0) (Encl.add (Encl.exact 1 0) t)

/-- SIGMOID (R130, R131). -/
def sigmoidF (a : W32) : W32 :=
  match f32 a with
  | .nan => f32NaN
  | .inf s => if s then toF32 .zero else f32One
  | .fin s m e =>
    if magGe m e 128 then (if s then toF32 .zero else f32One)
    else ziv (fun p => sigmoidEncl p s m e) false 6 96

/-- SILU (R130, R131): x ÷ (1 + e^(−x)); at 128 and above the result is x, and at −128 and below it is −0. -/
def siluF (a : W32) : W32 :=
  match f32 a with
  | .nan => f32NaN
  | .inf s => if s then toF32 (.fin true 0 0) else a
  | .fin s m e =>
    if m = 0 then a
    else if magGe m e 128 then (if s then toF32 (.fin true 0 0) else a)
    else ziv (fun p => Encl.mul p (Encl.exact m e) (sigmoidEncl p s m e)) s 6 96

/-- arctan(1/n) at precision `p`, alternating series. -/
def arctanInv (p n : Nat) : Encl :=
  let (pos, neg, k) := (List.range (p + 4)).foldl (fun (acc : (Nat × Nat × Nat) × Nat) j =>
    let ((a, b, cnt), t) := acc
    if t = 0 then acc
    else
      let u := t / (2 * j + 1)
      ((if j % 2 = 0 then a + u else a, if j % 2 = 0 then b else b + u, cnt + 1), t / (n * n)))
    ((0, 0, 0), p2 p / n) |>.1
  { lo := pos - neg - (k + 1), hi := pos - neg + (k + 1), exp := -(p : Int) }

/-- π = 16 arctan(1/5) − 4 arctan(1/239). -/
def piEncl (p : Nat) : Encl :=
  let a := arctanInv p 5
  let b := arctanInv p 239
  { lo := 16 * a.lo - 4 * b.hi, hi := 16 * a.hi - 4 * b.lo, exp := -(p : Int) }

/-- √(2π). -/
def sqrt2piEncl (p : Nat) : Encl :=
  let x := piEncl (2 * p)
  { lo := isqrt (2 * x.lo), hi := isqrt (2 * x.hi) + 1, exp := -(p : Int) }

/-- φ(y) S(y) for y = `m * 2^e`, with S(y) = y + y³/3 + y⁵/(3·5) + …: the distance of Φ(y) from 1/2. -/
def phiHalfEncl (p m : Nat) (e : Int) : Encl :=
  let half := expNegEncl p (m * m) (2 * e - 1)
  let sh := e + p
  let ylo := if 0 ≤ sh then m <<< sh.toNat else m >>> (-sh).toNat
  let sq (y : Nat) : Nat := (y * y) >>> p
  let s1 := seriesLoop (fun k t => ((t * sq ylo) >>> p) / (2 * k + 3)) (8 * p + 64) 0 ylo 0
  let yhi := if 0 ≤ sh then ylo else ylo + 1
  let s2 := seriesLoop (fun k t => ((t * (sq yhi + 1)) >>> p) / (2 * k + 3) + 1) (s1.2 + 1) 0 yhi 0
  let S : Encl := { lo := s1.1, hi := s2.1 + 16, exp := -(p : Int) }
  Encl.div p (Encl.mul p half S) (sqrt2piEncl p)

/-- GELU (R130, R131): x Φ(x); at 16 and above the result is x, and at −16 and below it is −0. -/
def geluF (a : W32) : W32 :=
  match f32 a with
  | .nan => f32NaN
  | .inf s => if s then toF32 (.fin true 0 0) else a
  | .fin s m e =>
    if m = 0 then a
    else if magGe m e 16 then (if s then toF32 (.fin true 0 0) else a)
    else ziv (fun p =>
      let d := phiHalfEncl p m e
      let phi := if s then Encl.sub (Encl.exact 1 (-1)) d else Encl.add (Encl.exact 1 (-1)) d
      Encl.mul p (Encl.exact m e) phi) s 5 320

end Sys2Proof.Machine
end

