-- ==== Sys2Proof/Machine/VecOps.lean ====
section
/-!
DEFINITION. The operation catalogue of the vector engine (R533) and the result of each operation on one element
(R130 to R132, R539).
-/
namespace Sys2Proof.Machine

/-- The operations of R533 that may stand in OP. -/
inductive VOp
  | copy | add | sub | mul | fma | div | recip | sqrt | rsqrt | exp | log | tanh | sigmoid | gelu | silu
  | max | min | abs | neg | clamp | cmpEq | cmpLt | cmpLe | select | dropout
  | iadd | isub | imul | shl | shr | cvtF2i | cvtI2f
  | redSum | redSumsq | redDot | redMax | redMin | redArgmax | redArgmin
  deriving DecidableEq, Repr

/-- Codes of R533; 0x00 is NONE and every other unlisted code is reserved. -/
def VOp.ofCode : Nat → Option VOp
  | 0x01 => some .copy | 0x02 => some .add | 0x03 => some .sub | 0x04 => some .mul | 0x05 => some .fma
  | 0x06 => some .div | 0x07 => some .recip | 0x08 => some .sqrt | 0x09 => some .rsqrt | 0x0A => some .exp
  | 0x0B => some .log | 0x0C => some .tanh | 0x0D => some .sigmoid | 0x0E => some .gelu | 0x0F => some .silu
  | 0x10 => some .max | 0x11 => some .min | 0x12 => some .abs | 0x13 => some .neg | 0x14 => some .clamp
  | 0x15 => some .cmpEq | 0x16 => some .cmpLt | 0x17 => some .cmpLe | 0x18 => some .select
  | 0x19 => some .dropout | 0x20 => some .iadd | 0x21 => some .isub | 0x22 => some .imul | 0x23 => some .shl
  | 0x24 => some .shr | 0x28 => some .cvtF2i | 0x29 => some .cvtI2f | 0x40 => some .redSum
  | 0x41 => some .redSumsq | 0x42 => some .redDot | 0x43 => some .redMax | 0x44 => some .redMin
  | 0x45 => some .redArgmax | 0x46 => some .redArgmin
  | _ => none

/-- Number of operands (R533). -/
def VOp.arity : VOp → Nat
  | .add | .sub | .mul | .div | .max | .min | .cmpEq | .cmpLt | .cmpLe
  | .iadd | .isub | .imul | .shl | .shr | .redDot => 2
  | .fma | .clamp | .select => 3
  | _ => 1

def VOp.isReduction : VOp → Bool
  | .redSum | .redSumsq | .redDot | .redMax | .redMin | .redArgmax | .redArgmin => true
  | _ => false

/-- The summing reductions, which may start from their destination (R133). -/
def VOp.isSumRed : VOp → Bool
  | .redSum | .redSumsq | .redDot => true
  | _ => false

/-- The operations marked chainable in R533. -/
def VOp.chainable : VOp → Bool
  | .fma | .clamp | .select | .dropout => false
  | op => !op.isReduction

/-- The Types column of R533. -/
inductive VTy
  | f | i | fi
  deriving DecidableEq, Repr

def VOp.ty : VOp → VTy
  | .add | .sub | .mul | .fma | .div | .recip | .sqrt | .rsqrt | .exp | .log | .tanh | .sigmoid | .gelu | .silu
  | .dropout | .cvtF2i => .f
  | .iadd | .isub | .imul | .shl | .shr | .cvtI2f => .i
  | _ => .fi

/-- The type of an operation's result, given the type in which it works (R129, R533). -/
def VOp.resultInt (op : VOp) (int : Bool) : Bool :=
  match op with
  | .cmpEq | .cmpLt | .cmpLe | .cvtF2i | .redArgmax | .redArgmin => true
  | .cvtI2f => false
  | _ => int

/-- An exact integer narrowed to INT32: wrapped, or clamped under SAT (R132). -/
def narrowI (sat : Bool) (x : Int) : W32 :=
  if sat then BitVec.ofInt 32 (Max.max (-2147483648) (Min.min 2147483647 x)) else BitVec.ofInt 32 x

/-- SHL and SHR of R132: the count is bits [7:0] of b, unsigned. -/
def shlI (a b : W32) : W32 := a <<< nbits b.toNat 0 8
def shrI (a b : W32) : W32 := a.sshiftRight (nbits b.toNat 0 8)

/-- INT32 1 or 0. -/
def boolI (p : Bool) : W32 := if p then 1#32 else 0#32

/-- A NaN operand made canonical; any other word unchanged (R46). -/
def quietF (a : W32) : W32 := if (f32 a).isNaN then f32NaN else a

/-- ABS and NEG in FP32 (R539). -/
def absF (a : W32) : W32 := if (f32 a).isNaN then f32NaN else a &&& 0x7FFFFFFF#32
def negF (a : W32) : W32 := if (f32 a).isNaN then f32NaN else a ^^^ 0x80000000#32

/-- One elementwise operation in FP32 on words (R130, R131, R539). -/
def evalF (op : VOp) (a b c : W32) : W32 :=
  match op with
  | .copy => quietF a
  | .add => addF a b
  | .sub => subF a b
  | .mul => mulF a b
  | .fma => fmaF a b c
  | .div => divF a b
  | .recip => divF f32One a
  | .sqrt => sqrtF a
  | .rsqrt => rsqrtF a
  | .exp => expF a
  | .log => logF a
  | .tanh => tanhF a
  | .sigmoid => sigmoidF a
  | .gelu => geluF a
  | .silu => siluF a
  | .max => maxF a b
  | .min => minF a b
  | .abs => absF a
  | .neg => negF a
  | .clamp => minF (maxF a b) c
  | .cmpEq => boolI (FVal.eqv (f32 a) (f32 b))
  | .cmpLt => boolI (FVal.lt (f32 a) (f32 b))
  | .cmpLe => boolI (FVal.lt (f32 a) (f32 b) || FVal.eqv (f32 a) (f32 b))
  | .cvtF2i => BitVec.ofInt 32 ((f32 a).toIntClamped .rne 0 (-2147483648) 2147483647)
  | _ => a

/-- One elementwise operation in INT32 on words (R132, R539). -/
def evalI (op : VOp) (sat : Bool) (a b c : W32) : W32 :=
  match op with
  | .iadd => narrowI sat (a.toInt + b.toInt)
  | .isub => narrowI sat (a.toInt - b.toInt)
  | .imul => narrowI sat (a.toInt * b.toInt)
  | .shl => shlI a b
  | .shr => shrI a b
  | .max => maxI a b
  | .min => minI a b
  | .abs => narrowI sat (a.toInt.natAbs : Int)
  | .neg => narrowI sat (-a.toInt)
  | .clamp => minI (maxI a b) c
  | .cmpEq => boolI (a == b)
  | .cmpLt => boolI (decide (a.toInt < b.toInt))
  | .cmpLe => boolI (decide (a.toInt ≤ b.toInt))
  | .cvtI2f => toF32 (FVal.ofInt a.toInt 0)
  | _ => a

/-- The word of SELECT's choice: b where a is not ±0 or 0, a NaN counting as non-zero (R131). -/
def selectW (a : CVal) (b c : W32) : W32 :=
  let zero : Bool := match a with
    | .f w => (f32 w).isZero
    | .i w => w == 0#32
  if zero then c else b

/-- The result of one elementwise operation of OP or of a chain, in the working type `int` (R129). -/
def VOp.eval (op : VOp) (sat int : Bool) (a b c : CVal) : CVal :=
  match op with
  | .select =>
    let w := selectW a b.bits c.bits
    CVal.ofBits int (if int then w else quietF w)
  | _ =>
    let w := if int then evalI op sat a.bits b.bits c.bits else evalF op a.bits b.bits c.bits
    CVal.ofBits (op.resultInt int) w

/-- The kept or dropped result of DROPOUT (R138): kept when `u ≥ IMM0`, then a × IMM1. -/
def dropoutEval (u imm0 imm1 : W32) (a : W32) : W32 × Bool :=
  if imm0.toNat ≤ u.toNat then (mulF a imm1, true) else (0#32, false)

/-- Lowest index attaining the extreme `m`, or holding a NaN when `m` is NaN, or −1 when none is present (R134). -/
def argIndex (eq : W32 → Bool) : List (Option W32) → Nat → W32
  | [], _ => BitVec.ofInt 32 (-1)
  | none :: xs, i => argIndex eq xs (i + 1)
  | some x :: xs, i => if eq x then BitVec.ofNat 32 i else argIndex eq xs (i + 1)

/-- RED_ARGMAX and RED_ARGMIN over one run (R134, R85). -/
def argRed (isMax int : Bool) (xs : List (Option W32)) : W32 :=
  let ys := xs.filterMap id
  if int then
    let m := if isMax then maxRefI ys else minRefI ys
    argIndex (fun x => x == m) xs 0
  else
    let m := if isMax then maxRef ys else minRef ys
    if (f32 m).isNaN then argIndex (fun x => (f32 x).isNaN) xs 0
    else argIndex (fun x => x == m) xs 0

/-- One output of a reduction (R133 to R135, R84, R85): `start` is the starting accumulator, the lists run along RED_DIM
with absent elements as `none`. -/
def redEval (op : VOp) (sat int : Bool) (start : W32) (a : List (Option W32)) (b : List (Option W32)) : W32 :=
  let pairs := a.zip b
  let fprod := pairs.map fun (x, y) => match x, y with
    | some p, some q => some (FVal.mul (f32 p) (f32 q))
    | _, _ => none
  let iprod := pairs.map fun (x, y) => match x, y with
    | some p, some q => some (p.toInt * q.toInt)
    | _, _ => none
  match op with
  | .redSum => if int then dotReferenceInt sat start (a.map (·.map BitVec.toInt)) else dotReference start (a.map (·.map f32))
  | .redSumsq | .redDot => if int then dotReferenceInt sat start iprod else dotReference start fprod
  | .redMax => if int then maxRefI (a.filterMap id) else maxRef (a.filterMap id)
  | .redMin => if int then minRefI (a.filterMap id) else minRef (a.filterMap id)
  | .redArgmax => argRed true int a
  | _ => argRed false int a

end Sys2Proof.Machine
end

