-- ==== Sys2Proof/Machine/Engine.lean ====
section
/-!
DEFINITION. What the slugs of every class share: the TDs they name, reading and writing elements for an engine through its
platen cache and the remote spaces, the queues, the hazards of R95, admission (R156 to R158, R164, R191), and the end of a
slug (R152, R180, R185).
-/
namespace Sys2Proof.Machine

/-! ### Queues -/

def Engine.queue (x : Engine) : QId → List QEntry
  | .move => x.qMove
  | .matrix => x.qMatrix
  | .vector => x.qVector
  | .fabric => x.qFabric
  | .host => x.qHost
  | .spike => x.qSpike
  | .update => x.qUpdate

/-- A queue replaced; one that is empty now has been empty since cycles were last counted (R216). -/
def Engine.setQueue (x : Engine) (q : QId) (l : List QEntry) : Engine :=
  let x : Engine := if l.isEmpty && !x.emptied.contains q then { x with emptied := x.emptied ++ [q] } else x
  match q with
  | .move => { x with qMove := l }
  | .matrix => { x with qMatrix := l }
  | .vector => { x with qVector := l }
  | .fabric => { x with qFabric := l }
  | .host => { x with qHost := l }
  | .spike => { x with qSpike := l }
  | .update => { x with qUpdate := l }

/-- Depths of R158. -/
def QId.depth : QId → Nat
  | .move => 64
  | .matrix => 32
  | .vector => 32
  | .fabric => 32
  | .host => 16
  | .spike => 16
  | .update => 16

/-- The queues of units on the bed die, which a parked face die does not hold (R419). -/
def QId.onBed : QId → Bool
  | .fabric | .host | .update => true
  | .move | .matrix | .vector | .spike => false

/-- The queue of a class (R158, R161); QUOIN and CONTROL slugs have none. -/
def classQueue : Nat → Option QId
  | 0 => some .move
  | 1 => some .matrix
  | 2 => some .vector
  | 3 => some .vector
  | 5 => some .fabric
  | 6 => some .host
  | 7 => some .spike
  | 8 => some .update
  | _ => none

/-- Every entry of the seven queues, oldest admission first within each. -/
def Engine.entries (x : Engine) : List QEntry := QId.all.flatMap x.queue

/-- A slug admitted earlier has not completed (R174). -/
def Engine.earlierRuns (x : Engine) (id : Nat) : Bool :=
  x.entries.any (fun q => q.id < id) || x.finishing.any (fun f => f.entry.id < id) || x.calls.any (fun k => k.entry.id < id && k.leader.isNone)

/-! ### TDs of a slug -/

/-- The TD a slug names, from the copies of its entry (R164). A TD never loaded is PLACE_ILLEGAL. -/
def QEntry.td (q : QEntry) (ref : Nat) : Except Status TD :=
  match Tab.find? ref q.tds with
  | none => .error .placeIllegal
  | some w => TD.read ref w

/-- A TD reference that may be null. -/
def QEntry.td? (q : QEntry) (ref : Nat) : Except Status (Option TD) :=
  if ref = nullTd then .ok none else (q.td ref).map some

/-- A TD reference that must not be null. -/
def QEntry.tdReq (q : QEntry) (ref : Nat) : Except Status TD :=
  if ref = nullTd then .error .placeIllegal else q.td ref

/-- Fail with a status when a condition holds. -/
def failIf (p : Bool) (st : Status) : Except Status Unit := if p then .error st else .ok ()

/-- The result of an access: what it gives or the fault, and the chip afterwards. -/
abbrev Res (α : Type) := Except Status α × Chip

/-! ### Reading for an engine -/

namespace Chip

/-- The 128 bytes of an HBM line as a fetch reads them. -/
def memLine (c : Chip) (addr : Nat) : BitVec 1024 := BitVec.ofNat 1024 (c.seenWord addr 128)

/-- Bytes of a line's data. -/
def sliceLine (d : BitVec 1024) (off n : Nat) : List Byte := toBytes n (d.toNat >>> (8 * off))

/-- A cached read of an HBM line by an engine's movement path, vector engine or fused kernel (R198, R200, R202, R203): `addr` is
the line's address in `space`, `lcl` its LOCAL address. `need` are the bytes wanted. -/
def readCached (c : Chip) (e : Nat) (ent : QEntry) (td : TD) (space addr lcl : Nat) (need : List Nat) : Res (BitVec 1024) :=
  let x := c.engine e
  match x.findLine space addr with
  | some l =>
    if l.state = .trackedInvalid then
      match c.accessError (e / 16) lcl, c.ueAt need with
      | some st, _ => (.error st, c)
      | none, some a => (.error (ueStatus a), c.ueEvent a)
      | none, none =>
        let d := c.memLine lcl
        let l' := { l with data := d, state := .tracked }
        let x1 := { x.mapCache (fun m => if m.space == l.space && m.addr == l.addr then some l' else some m) with
                      cnt := { x.cnt with refetch := bump48 x.cnt.refetch 1 } }
        (.ok d, (((c.setEngine e (x1.touch ent td.id td.streaming l')).dirRegister e (lcl / 128)).countRead (e / 16) lcl 128).bankIssue e lcl)
    else
      let x1 := { x with cnt := { x.cnt with pltHit := bump48 x.cnt.pltHit 1 } }
      (.ok l.data, c.setEngine e (x1.touch ent td.id td.streaming l))
  | none =>
    match c.accessError (e / 16) lcl, c.ueAt need with
    | some st, _ => (.error st, c)
    | none, some a => (.error (ueStatus a), c.ueEvent a)
    | none, none =>
      let d := c.memLine lcl
      let x1 := { x with cnt := { x.cnt with pltMiss := bump48 x.cnt.pltMiss 1, bytesHbm := bump48 x.cnt.bytesHbm 128 } }
      if x1.sets = 0 || (c.ueAt (addrRange lcl 128)).isSome then (.ok d, ((c.setEngine e x1).countRead (e / 16) lcl 128).bankIssue e lcl)
      else
        let (x2, old) := x1.install ent td.id td.streaming space addr d .demand
        let c1 := c.setEngine e x2
        let c2 := match old with
          | some o => c1.lineLeft e o
          | none => c1
        (.ok d, ((c2.dirRegister e (lcl / 128)).countRead (e / 16) lcl 128).bankIssue e lcl)

/-- A WRITE or READ request's target address split on 1,024-byte frames and 4 KiB boundaries, and on the 256-byte chunks of an
engine's own requests (R209, R285). -/
def splitRun (maxLen : Nat) : Nat → Nat → Nat → List (Nat × Nat)
  | 0, _, _ => []
  | fuel + 1, a, n =>
    if n = 0 then []
    else
      let k := min n (maxLen - a % maxLen)
      (a, k) :: splitRun maxLen fuel (a + k) (n - k)

/-- Bytes that an engine's own unit reads from HBM outside the cache: they are counted, and each line takes part in the quota of its bank
(R210, R224, R501). -/
def hbmFetch (c : Chip) (e a n : Nat) : Chip :=
  (splitRun 128 n a n).foldl (fun c (b, k) => (c.countRead (e / 16) b k).bankIssue e b) c

/-- The units whose reads look up the platen cache: the movement path, the vector engine and the fused kernels (R198). -/
def looksUp (s : SlugWord) : Bool := slugClass s == 0 || slugClass s == 2 || slugClass s == 3

/-- Bytes of one 128-byte line: through the cache in HBM for the units that look it up, direct elsewhere (R198). -/
def readPart (c : Chip) (e : Nat) (ent : QEntry) (td : TD) (space addr lcl n : Nat) : Res (List Byte) :=
  let direct : Res (List Byte) :=
    match c.readLocal (e / 16) (addrRange lcl n) with
    | .ok bs => (.ok bs, c.hbmFetch e lcl n)
    | .error st =>
      (.error st, match (c.ueAt (addrRange lcl n)), (addrRange lcl n).findSome? (c.accessError (e / 16)) with
        | some a, none => c.ueEvent a
        | _, _ => c)
  match placeOf lcl with
  | .hbm _ =>
    if looksUp ent.slug then
      let off := lcl % 128
      match c.readCached e ent td space (addr - off) (lcl - off) (addrRange lcl n) with
      | (.ok d, c1) => (.ok (sliceLine d off n), c1)
      | (.error st, c1) => (.error st, c1)
    else direct
  | _ => direct

/-- Read `n` bytes at a LOCAL address that `space` names as `addr` (LOCAL itself, or BROADSHEET with the own id). An element that
straddles two lines is read from both. -/
def readOwn (c : Chip) (e : Nat) (ent : QEntry) (td : TD) (space addr lcl n : Nat) : Res (List Byte) :=
  let k := min n (128 - lcl % 128)
  match c.readPart e ent td space addr lcl k with
  | (.error st, c1) => (.error st, c1)
  | (.ok bs, c1) =>
    if k = n then (.ok bs, c1)
    else match c1.readPart e ent td space (addr + k) (lcl + k) (n - k) with
      | (.error st, c2) => (.error st, c2)
      | (.ok bs2, c2) => (.ok (bs ++ bs2), c2)

/-- A BROADSHEET address may be accessed on its own device: HBM and platen scratch only (R27, R28). -/
def broadsheetOk (c : Chip) (lcl : Nat) : Bool :=
  match placeOf lcl with
  | .hbm _ => true
  | .platen _ _ => c.mapped lcl
  | _ => false

/-- Bytes from the cells that remote reads have gathered. -/
def fromGot (got : List Host.Cell) (a n : Nat) : Option (List Byte) := (addrRange a n).mapM fun i => cellAt i got

/-- Read `n` bytes of an element for an engine's slug, in any space. A remote byte comes from what the slug has gathered. -/
def readBytes (c : Chip) (e : Nat) (ent : QEntry) (td : TD) (a n : Nat) : Res (List Byte) :=
  match td.space with
  | .lcl => if p2 48 ≤ a then (.error .addrUnmapped, c) else c.readOwn e ent td 0 a a n
  | .broadsheet =>
    if a >>> 48 = c.fab.deviceId ∧ c.fab.idValid then
      if (addrRange (a % p2 48) n).all c.broadsheetOk then c.readOwn e ent td 1 a (a % p2 48) n else (.error .addrRefused, c)
    else match fromGot ent.prog.gotB a n with
      | some bs => (.ok bs, c)
      | none => (.error .addrRefused, c)
  | .host =>
    if p2 52 ≤ a + n - 1 then (.error .addrUnmapped, c)
    else match fromGot ent.prog.gotH a n with
      | some bs => (.ok bs, c)
      | none => (.error .hostLost, c)

/-- The raw bits of the element of a TD at coordinates. -/
def readElem (c : Chip) (e : Nat) (ent : QEntry) (td : TD) (cs : List Nat) : Res Nat :=
  match c.readBytes e ent td (td.addr cs) td.elemBytes with
  | (.ok bs, c1) =>
    let v := ofBytes bs
    (.ok (if td.fmt = .int4 then (if td.high cs then v / 16 else v % 16) else v), c1)
  | (.error st, c1) => (.error st, c1)

/-- The element converted on load (R52). -/
def loadAt (c : Chip) (e : Nat) (ent : QEntry) (td : TD) (cs : List Nat) : Res CVal :=
  match c.readElem e ent td cs with
  | (.ok v, c1) => (.ok (loadElem td.fmt v), c1)
  | (.error st, c1) => (.error st, c1)

/-! ### Writing for an engine -/

/-- The error that writing an element of a TD would meet at its address, remote targets apart (R24, R27, R29). -/
def destError (c : Chip) (e : Nat) (td : TD) (a : Nat) : Option Status :=
  let bytes := addrRange a td.elemBytes
  match td.space with
  | .lcl => if bytes.any (p2 48 ≤ ·) then some .addrUnmapped else bytes.findSome? (c.accessError (e / 16))
  | .broadsheet =>
    if a >>> 48 = c.fab.deviceId ∧ c.fab.idValid then
      if (addrRange (a % p2 48) td.elemBytes).all c.broadsheetOk then (addrRange (a % p2 48) td.elemBytes).findSome? (c.accessError (e / 16))
      else some .addrRefused
    else none
  | .host => if bytes.any (p2 52 ≤ ·) then some .addrUnmapped else none

/-- The random word of an element, for a destination that rounds stochastically (R56, R274). -/
def elemWord (ent : QEntry) (td : TD) (i : Nat) : W32 :=
  match td.rmode with
  | .stochastic => randomWord ent.seed td.stream i
  | _ => 0

/-- Rounding controls of a destination TD for element index `i` (R52, R53). -/
def ctlOf (ent : QEntry) (td : TD) (i : Nat) : ConvCtl := { mode := td.rmode, sat := td.sat, u := elemWord ent td i }

/-- A pending element write: address of its first byte, bits, width in bits, and which nibble of an INT4 pair. -/
structure EWrite where
  addr : Nat
  bits : Nat
  fmt  : Fmt
  high : Bool
  deriving DecidableEq, Repr

/-- The bytes of element writes, later ones over earlier ones; an INT4 element keeps the other nibble of its byte, also beside a writer that no
quoin orders (R50; DESIGN CHOICE, log entry 100). -/
def cellsOf (old : Nat → Byte) (ws : List EWrite) : List Host.Cell :=
  ws.foldl (fun cs w =>
    match w.fmt with
    | .int4 =>
      let b := ((cellAt w.addr cs).getD (old w.addr)).toNat
      let v := if w.high then b % 16 + 16 * (w.bits % 16) else b / 16 * 16 + w.bits % 16
      cellSet w.addr (BitVec.ofNat 8 v) cs
    | f => (toBytes (f.width / 8) w.bits).zipIdx.foldl (fun cs (b, i) => cellSet (w.addr + i) b cs) cs) []

/-- The proofreader's count of a stored element that is NaN or infinite in a floating-point format (R233): the engine's
counter, and the count of the layer in force at admission. -/
def countNonFinite (c : Chip) (e layer : Nat) (fmt : Fmt) (bits : Nat) : Chip :=
  if fmt.isInt then c
  else
    let sat (t : Tab Nat) : Tab Nat := Tab.set layer (min (p2 32 - 1) (Tab.get 0 t layer + 1)) t
    match fmt.decode bits with
    | .nan => { c.onEngine e (fun x => { x with nan := bump48 x.nan 1 }) with
                  prf := { c.prf with layerNan := sat c.prf.layerNan } }
    | .inf _ => { c.onEngine e (fun x => { x with infs := bump48 x.infs 1 }) with
                  prf := { c.prf with layerInf := sat c.prf.layerInf } }
    | .fin _ _ _ => c

def countStores (c : Chip) (e layer : Nat) (ws : List EWrite) : Chip :=
  ws.foldl (fun c w => c.countNonFinite e layer w.fmt w.bits) c

/-- Consecutive cells grouped into runs. -/
def runsOf : List Host.Cell → List (Nat × List Byte)
  | [] => []
  | (a, b) :: cs =>
    match runsOf cs with
    | (a2, bs) :: rs => if a + 1 = a2 then (a, b :: bs) :: rs else (a, [b]) :: (a2, bs) :: rs
    | [] => [(a, [b])]

/-- WRITE requests for bytes on other devices (R304): one per run within a chunk of `maxLen` bytes. -/
def sendWrites (c : Chip) (e entry unit maxLen : Nat) (cells : List Host.Cell) : Chip :=
  (runsOf cells).foldl (fun c (a, bs) =>
    (splitRun maxLen bs.length a bs.length).foldl (fun c (b, k) =>
      c.request e entry 1 (b >>> 48) { opcode := opWrite, dst := b >>> 48, addr := b % p2 48, unit := unit }
        ((bs.drop (b - a)).take k)) c) c

/-- The engine's own copies of another device's lines take what it writes there (R198, R203). -/
def patchFar (c : Chip) (e : Nat) (cells : List Host.Cell) : Chip :=
  c.onEngine e fun x => x.mapCache fun l => if l.space.toNat = 1 then some { l with data := patchLine l l.addr cells } else some l

/-- Store element writes of a slug to their space: LOCAL and own-id BROADSHEET to memory, other devices as WRITE requests that
the slug then waits for, HOST into the line cache. The whole call is one write for R535: a bad unit only partly covered
refuses it. -/
def storeElems (c : Chip) (e : Nat) (ent : QEntry) (td : TD) (maxLen unit : Nat) (ws : List EWrite) : Res Unit :=
  match td.space with
  | .lcl =>
    match c.writeLocal (e / 16) (some e) (cellsOf c.mem.get ws) with
    | .ok c1 => (.ok (), c1)
    | .error st => (.error st, c)
  | .broadsheet =>
    let (own, far) := ws.partition fun w => w.addr >>> 48 == c.fab.deviceId && c.fab.idValid
    match c.writeLocal (e / 16) (some e) (cellsOf c.mem.get (own.map fun w => { w with addr := w.addr % p2 48 })) with
    | .ok c1 =>
      if far.isEmpty then (.ok (), c1)
      else
        let cells := cellsOf (fun a => (cellAt a ent.prog.gotB).getD 0) far
        (.ok (), (c1.patchFar e cells).sendWrites e ent.id unit maxLen cells)
    | .error st => (.error st, c)
  | .host => (.ok (), c.hostStore (some e) (cellsOf (fun a => BitVec.ofNat 8 ((c.hostLineData (a / 64)).toNat >>> (8 * (a % 64)))) ws))

end Chip

end Sys2Proof.Machine
end

