-- ==== Sys2Proof/Machine/Hazard.lean ====
section
/-!
DEFINITION. What the slugs of an engine use: the TDs a slug names (R164), the products and tiles of a matrix slug (R100, R103 to R107),
and the blocks of the operand buffers, the accumulator slots and the scratch blocks that order slugs against each other (R95, R221).
-/
namespace Sys2Proof.Machine

/-! ### TD references by class (R168 to R171, R187, R227, R247, R305, R334) -/

/-- The TD references of a VECTOR slug: the operands that OP takes, the destinations and the mask. -/
def vectorRefs (s : SlugWord) : List (Nat × Bool) :=
  let n := match VOp.ofCode (fld s 71 64) with
    | some op => op.arity
    | none => 0
  (if fld s 112 111 == 0 then [(fld s 126 117, false)] else []) ++
  (if Nat.ble 2 n && fld s 114 113 == 0 then [(fld s 136 127, false)] else []) ++
  (if Nat.ble 3 n && fld s 116 115 == 0 then [(fld s 146 137, false)] else []) ++
  (if bit s 147 then [] else [(fld s 157 148, true)]) ++ [(fld s 167 158, true), (fld s 177 168, false)]

/-- The TD references of a slug, `(reference, written)`; register operands are left out. -/
def slugRefs (s : SlugWord) : List (Nat × Bool) :=
  let r (hi lo : Nat) (w : Bool) : Nat × Bool := (fld s hi lo, w)
  match slugClass s with
  | 0 => [r 77 68 false, r 87 78 true]
  | 1 => if slugOp s = 0 then [r 109 100 false, r 119 110 false, r 129 120 true, r 139 130 false, r 149 140 false]
         else [r 132 123 false, r 142 133 false, r 152 143 false, r 162 153 true, r 172 163 true, r 182 173 false, r 192 183 false]
  | 2 => vectorRefs s
  | 3 => [r 77 68 false, r 87 78 false, r 97 88 false, r 107 98 false, r 117 108 true, r 127 118 true, r 137 128 true, r 147 138 false]
  | 5 => [r 77 68 false, r 87 78 true, r 97 88 true, r 107 98 false]
  | 6 => [r 77 68 false]
  | 7 => if slugOp s = 1 then [r 77 68 true] else if slugOp s = 0 || (slugOp s == 5 && bit s 109) then [r 77 68 false] else []
  | 8 => [r 105 96 false, r 115 106 true, r 125 116 true, r 135 126 true, r 145 136 true, r 155 146 true, r 165 156 true]
  | 9 => if slugOp s = 2 then
      ((List.range 8).map fun n => r (105 + 10 * n) (96 + 10 * n) false) ++ (if fld s 83 68 == 0x11 then [r 329 320 false] else [])
    else []
  | _ => []

/-- A matrix slug has GALLEY output on a product (R99, R117). -/
def galleyOut (s : SlugWord) : Bool :=
  slugClass s == 1 &&
    (if slugOp s = 0 then fld s 82 81 == 2 else slugOp s == 1 && (fld s 88 87 == 2 || fld s 90 89 == 2))

/-! ### Products and tiles (R100, R103 to R107) -/

/-- One product of a matrix slug (R103 to R106). -/
structure Product where
  num   : Nat
  a     : TD
  b     : TD
  fa    : Nat
  fb    : Nat
  pass  : Nat
  cont  : Bool
  sat   : Bool
  ks2   : Bool
  col   : Bool
  out   : Nat
  base  : Nat
  count : Nat
  dst   : Option TD
  rmask : Option TD
  cmask : Option TD
  deriving DecidableEq, Repr

namespace Product

def m (p : Product) : Nat := p.a.ext.getD 1 1
def k (p : Product) : Nat := p.a.ext.headD 0
def n (p : Product) : Nat := p.b.ext.headD 0
def rows (p : Product) : Nat := (p.m + 31) / 32
def cols (p : Product) : Nat := (p.n + 31) / 32
def tiles (p : Product) : Nat := p.rows * p.cols
def isInt (p : Product) : Bool := p.fa == 5 || p.fa == 6
def isSplit (p : Product) : Bool := p.fa == 8
def hasMask (p : Product) : Bool := p.rmask.isSome || p.cmask.isSome

end Product

/-- Groups per stroke of a legal pair of compute formats (R63); none of an illegal one. -/
def groupRate (fa fb : Nat) : Option Nat :=
  let half (f : Nat) : Bool := f == 1 || f == 2
  let eighth (f : Nat) : Bool := f == 3 || f == 4
  if half fa && (half fb || eighth fb) || eighth fa && half fb then some 1
  else if eighth fa && eighth fb then some 2
  else if fa = 8 ∧ fb = 8 then some 1
  else if fa = 5 ∧ (fb = 5 ∨ fb = 6) ∨ fa = 6 ∧ fb = 5 then some 2
  else if fa = 6 ∧ fb = 6 then some 4
  else none

/-- Strokes of one tile (R90). A tile of K = 0 counts one (DESIGN CHOICE, log entry 105). -/
def Product.strokes (p : Product) : Nat :=
  let g := (p.k + 31) / 32
  let n := if p.isSplit then g * p.pass else (let r := (groupRate p.fa p.fb).getD 1; (g + r - 1) / r)
  if p.k = 0 then 1 else n

/-- Tile row and column of tile `t` (R100). -/
def Product.tileAt (p : Product) (t : Nat) : Nat × Nat :=
  if p.col then (t % p.rows, t / p.rows) else (t / p.cols, t % p.cols)

/-- The products of a slug, with its TDs read (R104, R106, R168). -/
def matrixProducts (ent : QEntry) : Except Status (List Product) := do
  let s := ent.slug
  if slugOp s = 0 then
    let a ← ent.tdReq (fld s 109 100)
    let b ← ent.tdReq (fld s 119 110)
    let dst ← ent.td? (fld s 129 120)
    let rmask ← ent.td? (fld s 139 130)
    let cmask ← ent.td? (fld s 149 140)
    return [{ num := 0, a, b, fa := fld s 71 68, fb := fld s 75 72, pass := fld s 77 76, cont := bit s 78, sat := bit s 79,
              ks2 := bit s 80, col := bit s 83, out := fld s 82 81, base := fld s 91 84, count := fld s 99 92, dst, rmask, cmask }]
  else
    let dy ← ent.tdReq (fld s 132 123)
    let wt ← ent.tdReq (fld s 142 133)
    let xt ← ent.tdReq (fld s 152 143)
    let dx ← ent.td? (fld s 162 153)
    let dw ← ent.td? (fld s 172 163)
    let rmask ← ent.td? (fld s 182 173)
    let cmask ← ent.td? (fld s 192 183)
    return [{ num := 0, a := dy, b := wt, fa := fld s 71 68, fb := fld s 75 72, pass := fld s 81 80, cont := bit s 85, sat := bit s 82,
              ks2 := bit s 83, col := bit s 84, out := fld s 88 87, base := fld s 98 91, count := fld s 106 99, dst := dx,
              rmask := none, cmask := none },
            { num := 1, a := xt, b := dy, fa := fld s 79 76, fb := fld s 71 68, pass := fld s 81 80, cont := bit s 86, sat := bit s 82,
              ks2 := bit s 83, col := bit s 84, out := fld s 90 89, base := fld s 114 107, count := fld s 122 115, dst := dw, rmask, cmask }]

/-- Valid rows and columns of a tile (R100, R110). -/
def Product.validRows (p : Product) (ti : Nat) : Nat := min 32 (p.m - 32 * ti)
def Product.validCols (p : Product) (tj : Nat) : Nat := min 32 (p.n - 32 * tj)

/-- The product whose tile comes next (R107): the smaller count of strokes begun, dX on a tie, the other when one has none left. -/
def nextProduct (ps : List Product) (d0 d1 : Nat) : Option (Product × Nat) :=
  match ps with
  | [p] => if d0 < p.tiles then some (p, d0) else none
  | [x, w] =>
    if d0 < x.tiles ∧ (w.tiles ≤ d1 ∨ d0 * x.strokes ≤ d1 * w.strokes) then some (x, d0)
    else if d1 < w.tiles then some (w, d1) else none
  | _ => none

/-! ### Blocks and slots (R95, R221) -/

/-- What a slug reads and writes of the tracked memory of its engine: 16 KiB blocks of the operand buffers and staging as
their number in the 8 MiB block, accumulator slot s as 1000 + s, and own platen scratch blocks as 2000 + n. -/
structure Uses where
  reads  : List Nat := []
  writes : List Nat := []
  deriving DecidableEq, Repr

def Uses.add (a b : Uses) : Uses := { reads := a.reads ++ b.reads, writes := a.writes ++ b.writes }

/-- Codes of the tracked memory of engine `e` in a LOCAL span. -/
def trackedIn (e lo hi : Nat) : List Nat :=
  let b := bufferOf e
  let p := sliceOf e
  let blocks (base : Nat) (code0 : Nat) (off0 off1 unit : Nat) : List Nat :=
    let l := max lo (base + off0)
    let h := min hi (base + off1)
    if h ≤ l then []
    else (List.range ((h - 1 - base) / unit - (l - base) / unit + 1)).map fun i => code0 + (l - base) / unit + i
  blocks b 0 0 0x400000 0x4000 ++
  (blocks (b + 0x400000) 1000 0 0x100000 0x1000) ++
  blocks b 0 0x500000 0x600000 0x4000 ++
  blocks p 2000 0 0x2000000 0x4000

/-- Tracked memory under one element of a TD. -/
def TD.codesAt (t : TD) (e : Nat) (cs : List Nat) : List Nat :=
  if t.space == .lcl then trackedIn e (t.addr cs) (t.addr cs + t.elemBytes) else []

/-- Tracked memory under the elements of a TD from one element index on. -/
def TD.codesFrom (t : TD) (e i : Nat) : List Nat :=
  ((List.range (t.count - i)).flatMap fun k => t.codesAt e (coordsOf t.ext (i + k))).eraseDups

/-- Tracked memory under a TD that a slug names. -/
def QEntry.trackedTd (q : QEntry) (e ref : Nat) : List Nat :=
  match q.td? ref with
  | .ok (some t) => t.codesFrom e 0
  | _ => []

/-- A run of slots. -/
def slotCodes (base count : Nat) : List Nat := (List.range (count + 1)).map (1000 + base + ·)

/-- Tracked memory under rows `[lo, hi)` of a two-dimensional operand, and under its columns. -/
def TD.rowCodes (t : TD) (e lo hi : Nat) : List Nat :=
  ({ t with base := t.addr [0, lo], ext := t.ext.set 1 (hi - lo) } : TD).codesFrom e 0
def TD.colCodes (t : TD) (e lo hi : Nat) : List Nat :=
  ({ t with base := t.addr [lo, 0], ext := t.ext.set 0 (hi - lo) } : TD).codesFrom e 0

/-- Tracked memory under columns `[cl, ch)` of rows `[rl, rh)`. -/
def TD.boxCodes (t : TD) (e cl ch rl rh : Nat) : List Nat :=
  ({ t with base := t.addr [cl, rl], ext := (t.ext.set 0 (ch - cl)).set 1 (rh - rl) } : TD).codesFrom e 0

/-- Tracked memory under entries `[lo, hi)` of a mask. -/
def maskCodes (t : Option TD) (e lo hi : Nat) : List Nat := (t.map fun t => t.colCodes e lo hi).getD []

namespace Product

/-- The slot of tile `t` (R98). -/
def slotOf (p : Product) (t : Nat) : Nat := p.base + t % (p.count + 1)

/-- What columns `[cl, ch)` of rows `[rl, rh)` of the output touch beside operands and slots: their masks and their part of a STORE
destination. -/
def sides (p : Product) (e cl ch rl rh : Nat) : Uses :=
  { reads := maskCodes p.rmask e rl rh ++ maskCodes p.cmask e cl ch, writes := (p.dst.map fun t => t.boxCodes e cl ch rl rh).getD [] }

/-- What tile `t` uses. -/
def tileUses (p : Product) (e t : Nat) : Uses :=
  let (ti, tj) := p.tileAt t
  Uses.add (p.sides e (32 * tj) (32 * tj + p.validCols tj) (32 * ti) (32 * ti + p.validRows ti))
    { reads := p.a.rowCodes e (32 * ti) (32 * ti + p.validRows ti) ++ p.b.colCodes e (32 * tj) (32 * tj + p.validCols tj),
      writes := [1000 + p.slotOf t] }

/-- What the tiles from `t` on still use: in ROW_MAJOR order the rows of A from the current tile row on, and in its last tile row the
columns of B from the current tile on; in column order the other way round. -/
def restUses (p : Product) (e t : Nat) : Uses :=
  if p.tiles ≤ t then {}
  else
    let (ti, tj) := p.tileAt t
    let row := if p.col && tj + 1 != p.cols then 0 else ti
    let col := if !p.col && ti + 1 != p.rows then 0 else tj
    Uses.add (p.sides e (32 * col) p.n (32 * row) p.m)
      { reads := p.a.rowCodes e (32 * row) p.m ++ p.b.colCodes e (32 * col) p.n,
        writes := (List.range (min (p.tiles - t) (p.count + 1))).map fun k => 1000 + p.slotOf (t + k) }

end Product

/-- Staging blocks that a vector or fused slug names (R128, R153). -/
def stageCodes (s : SlugWord) : List Nat :=
  match slugClass s with
  | 2 => (List.range (fld s 229 223)).map (320 + fld s 222 217 + ·)
  | 3 => (List.range (fld s 160 154)).map (320 + fld s 153 148 + ·)
  | _ => []

/-- Everything that a slug's TDs and its staging region cover. -/
def QEntry.allUses (q : QEntry) (e : Nat) : Uses :=
  let rs := slugRefs q.slug
  { reads := ((rs.filter fun p => !p.2).map (·.1)).flatMap (q.trackedTd e),
    writes := ((rs.filter (·.2)).map (·.1)).flatMap (q.trackedTd e) ++ stageCodes q.slug }

/-- The destination coordinates of source coordinates under COPY_T: the first two swapped (R94). -/
def swap2 : List Nat → List Nat
  | a :: b :: r => b :: a :: r
  | l => l

/-- What element `i` of a MOVE uses; a SET has no source. -/
def QEntry.moveUsesAt (q : QEntry) (e i : Nat) : Uses :=
  let perm := if slugOp q.slug = 1 then swap2 else fun l => l
  let td (ref : Nat) : Option TD := match q.td? ref with | .ok t => t | .error _ => none
  match td (fld q.slug 77 68), td (fld q.slug 87 78) with
  | some s, some d => { reads := s.codesAt e (coordsOf s.ext i), writes := d.codesAt e (perm (coordsOf s.ext i)) }
  | none, some d => { writes := d.codesAt e (coordsOf d.ext i) }
  | _, none => {}

/-- What element `i` of an elementwise vector slug uses: its sources and its mask broadcast, its destinations and staging. -/
def QEntry.vecUsesAt (q : QEntry) (e : Nat) (d : TD) (i : Nat) : Uses :=
  let cs := coordsOf d.ext i
  let at_ (p : Nat × Bool) : List Nat := match q.td? p.1 with
    | .ok (some t) => t.codesAt e (t.broadcast cs)
    | _ => []
  let rs := slugRefs q.slug
  { reads := (rs.filter fun p => !p.2).flatMap at_, writes := (rs.filter (·.2)).flatMap at_ ++ stageCodes q.slug }

/-- The destination of an elementwise vector slug without a GALLEY source and without a reduction. -/
def QEntry.vecDst (q : QEntry) : Option TD :=
  if slugClass q.slug = 2 && fld q.slug 112 111 != 3 && !bit q.slug 147 && fld q.slug 180 178 == 7 then
    (match q.td? (fld q.slug 157 148) with | .ok t => t | .error _ => none)
  else none

/-- The uses of the elements of a walk from one on, `n` in all. -/
def usesFrom (at_ : Nat → Uses) (i n : Nat) : Uses :=
  (List.range (n - i)).foldl (fun u k =>
    let v := at_ (i + k)
    { reads := (u.reads ++ v.reads).eraseDups, writes := (u.writes ++ v.writes).eraseDups }) {}

/-- Elements that a MOVE walks. -/
def QEntry.moveCount (q : QEntry) : Nat :=
  let n (ref : Nat) : Option Nat := match q.td? ref with | .ok (some t) => some t.count | _ => none
  ((n (fld q.slug 77 68)).orElse fun _ => n (fld q.slug 87 78)).getD 0

/-- What output `i` of a reduction uses: its source and what goes with it along the reduced dimension, its destination and its staging. -/
def QEntry.redUsesAt (q : QEntry) (e : Nat) (a d : TD) (dim i : Nat) : Uses :=
  let cs := coordsOf d.ext i
  let run := (List.range (a.ext.getD dim 1)).map fun k => cs.set dim k
  let at_ (p : Nat × Bool) : List Nat := match q.td? p.1 with
    | .ok (some t) => run.flatMap fun cs => t.codesAt e (t.broadcast cs)
    | _ => []
  let dst := d.codesAt e cs
  { reads := ((slugRefs q.slug).filter fun p => !p.2).flatMap at_ ++ dst, writes := dst ++ stageCodes q.slug }

/-- The source, the destination and the reduced dimension of a reduction to memory. -/
def QEntry.redTds (q : QEntry) : Option (TD × TD × Nat) :=
  if slugClass q.slug = 2 && fld q.slug 180 178 < 6 && fld q.slug 112 111 == 0 && !bit q.slug 147 then
    match q.td? (fld q.slug 126 117), q.td? (fld q.slug 157 148) with
    | .ok (some a), .ok (some d) => if d.ext == a.ext.set (fld q.slug 180 178) 1 then some (a, d, fld q.slug 180 178) else none
    | _, _ => none
  else none

/-- The TD that gives a fused kernel its rows: the first input, or the destination of a kernel that takes its tiles from the galley (R144). -/
def QEntry.fusedRowTd (q : QEntry) : Option TD :=
  match q.td? (if fld q.slug 67 64 = 6 ∨ fld q.slug 67 64 = 7 then fld q.slug 117 108 else fld q.slug 77 68) with
  | .ok t => t
  | .error _ => none

/-- What row `r` of a fused kernel uses: of a TD that has the kernel's columns or rows, the elements of that row, and of any other TD
all. An output that has no rows is reached with the last one. -/
def QEntry.fusedUsesAt (q : QEntry) (e : Nat) (x : TD) (r : Nat) : Uses :=
  let outer := coordsOf x.ext.tail r
  let at_ (p : Nat × Bool) : List Nat := match q.td? p.1 with
    | .ok (some t) =>
      if t.ext.tail == x.ext.tail then (List.range (t.ext.headD 0)).flatMap fun i => t.codesAt e (i :: outer)
      else if p.2 && decide (r + 1 < x.ext.tail.foldl (· * ·) 1) then []
      else if t.ext.headD 0 == x.ext.headD 0 then (List.range (t.ext.headD 0)).flatMap fun i => t.codesAt e (t.broadcast (i :: outer))
      else t.codesFrom e 0
    | _ => []
  let rs := slugRefs q.slug
  { reads := (rs.filter fun p => !p.2).flatMap at_, writes := (rs.filter (·.2)).flatMap at_ ++ stageCodes q.slug }

/-- The elements of a product's destination that a GALLEY consumer has still to do with: those of the tiles it has not taken. -/
def QEntry.openCells (q : QEntry) (p : Nat) (d : TD) : List (List Nat) :=
  ((List.range d.count).map (coordsOf d.ext)).filter fun cs => !q.prog.tiles.contains (p, cs.getD 1 0 / 32, cs.headD 0 / 32)

/-- What the elements of a set of a consumer's destination use: sources and mask broadcast, and the destination itself. -/
def QEntry.cellUses (q : QEntry) (e : Nat) (d : TD) (css : List (List Nat)) : Uses :=
  let rd := ((slugRefs q.slug).filter fun p => !p.2).flatMap fun p => match q.td? p.1 with
    | .ok (some t) => css.flatMap fun cs => t.codesAt e (t.broadcast cs)
    | _ => []
  { reads := rd.eraseDups, writes := (css.flatMap (d.codesAt e)).eraseDups ++ stageCodes q.slug }

/-- A slug that consumes the galley (R139, R150). -/
def isConsumer (s : SlugWord) : Bool :=
  (slugClass s == 2 && fld s 112 111 == 3) || (slugClass s == 3 && (fld s 67 64 == 6 || fld s 67 64 == 7))

/-- The destinations of the products of a GALLEY consumer, by product. -/
def QEntry.prodTds (q : QEntry) : List (Nat × TD) :=
  let refs := if slugClass q.slug = 2 then [(0, fld q.slug 157 148), (1, fld q.slug 167 158)] else [(0, fld q.slug 117 108)]
  refs.filterMap fun (p, r) => match q.td? r with
    | .ok (some d) => some (p, d)
    | _ => none

/-- STATS of a kernel that takes its tiles from the galley: its rows are written with those of the first output. -/
def QEntry.statsUses (q : QEntry) (e : Nat) : Uses :=
  if slugClass q.slug = 3 then { writes := q.trackedTd e (fld q.slug 127 118) } else {}

/-- The tracked memory that an earlier slug still reads and writes: what the rest of its walk will reach (R95). A PREFETCH touches none
(R198), and neither does a consumer that only drains. -/
def QEntry.holds (q : QEntry) (e : Nat) : Uses :=
  if slugClass q.slug = 0 then
    (if slugOp q.slug = 2 || q.prog.phase == 1 then {} else usesFrom (q.moveUsesAt e) q.prog.done0 q.moveCount)
  else if slugClass q.slug = 1 then
    match matrixProducts q with
    | .ok [p] => p.restUses e q.prog.done0
    | .ok [x, w] => Uses.add (x.restUses e q.prog.done0) (w.restUses e q.prog.done1)
    | _ => {}
  else if q.prog.drain.isSome then {}
  else if isConsumer q.slug then
    q.prodTds.foldl (fun u (p, d) => Uses.add u (q.cellUses e d (q.openCells p d))) (q.statsUses e)
  else match q.vecDst, q.redTds with
    | some d, _ => usesFrom (q.vecUsesAt e d) q.prog.done0 d.count
    | none, some (a, d, dim) => usesFrom (q.redUsesAt e a d dim) q.prog.done0 d.count
    | none, none =>
      match (if slugClass q.slug = 3 then q.fusedRowTd else none) with
      | some x => usesFrom (q.fusedUsesAt e x) q.prog.done0 (x.ext.tail.foldl (· * ·) 1)
      | none => q.allUses e

/-- The tracked memory under the tile at the head of the galley, of a consumer that would take it: of a kernel that stores whole rows, what
their elements use. -/
def Engine.tileNeeds (x : Engine) (e : Nat) (q : QEntry) : Uses :=
  match x.galley with
  | [] => {}
  | g :: _ =>
    match q.prodTds.find? fun p => p.1 == g.product with
    | none => {}
    | some (_, d) =>
      let mine (cs : List Nat) : Bool := cs.getD 1 0 / 32 == g.row && (slugClass q.slug == 3 || cs.headD 0 / 32 == g.col)
      Uses.add (q.cellUses e d (((List.range d.count).map (coordsOf d.ext)).filter mine)) (q.statsUses e)

/-- The tracked memory that a slug reaches next: the wait of R95 applies block by block, as each block is reached. A reduction to a register
and the slugs of the other queues reach all of theirs at once (DESIGN CHOICE, log entry 74). -/
def Engine.needs (x : Engine) (e : Nat) (q : QEntry) : Uses :=
  if slugClass q.slug = 0 then
    (if slugOp q.slug = 2 || q.prog.phase == 1 then {} else q.moveUsesAt e q.prog.done0)
  else if slugClass q.slug = 1 then
    match matrixProducts q with
    | .ok ps => (match nextProduct ps q.prog.done0 q.prog.done1 with
      | some (p, t) => p.tileUses e t
      | none => {})
    | .error _ => {}
  else if q.prog.drain.isSome then {}
  else if isConsumer q.slug then x.tileNeeds e q
  else match q.vecDst, q.redTds with
    | some d, _ => q.vecUsesAt e d q.prog.done0
    | none, some (a, d, dim) => q.redUsesAt e a d dim q.prog.done0
    | none, none =>
      match (if slugClass q.slug = 3 then q.fusedRowTd else none) with
      | some x => q.fusedUsesAt e x q.prog.done0
      | none => q.allUses e

/-- The own platen scratch part is tracked only between a SPIKE slug and another (R221). -/
def scratchCode (n : Nat) : Bool := decide (2000 ≤ n)

/-- A later slug must wait for an earlier one (R95). -/
def mustWait (earlier later : Uses) (spike : Bool) : Bool :=
  let ok (n : Nat) : Bool := spike || !scratchCode n
  earlier.writes.any (fun n => ok n && (later.reads.contains n || later.writes.contains n)) ||
  earlier.reads.any (fun n => ok n && later.writes.contains n)

/-- Some earlier slug of the engine, not completed, still holds a block or slot among those given (R95). An engine reset clears this
state for the entries it leaves in the queues (R119). -/
def Engine.blockedAt (x : Engine) (e : Nat) (q : QEntry) (u : Uses) : Bool :=
  x.entries.any fun p => decide (p.id < q.id) && !p.mute && mustWait (p.holds e) u (slugClass p.slug == 7 || slugClass q.slug == 7)

/-- The block or slot that a slug reaches next is not free (R95). -/
def Engine.blocked (x : Engine) (e : Nat) (q : QEntry) : Bool := x.blockedAt e q (x.needs e q)

/-- How many elements of a walk, from `i` on, can be reached: up to the first that an earlier slug holds back. -/
def Engine.reach (x : Engine) (e : Nat) (q : QEntry) (at_ : Nat → Uses) : Nat → Nat → Nat
  | 0, i => i
  | fuel + 1, i => if x.blockedAt e q (at_ i) then i else reach x e q at_ fuel (i + 1)

end Sys2Proof.Machine
end

