-- ==== Sys2Proof/Machine/Admit.lean ====
section
/-!
DEFINITION. Admission and scheduling of an engine's slugs: the TDs a slug names (R164), the blocks and slots it uses (R95,
R221), the header check and control levels (R156, R184, R191), the ring (R336), the pump that admits while it may (R158), the
gathering of remote bytes, and the end of a slug (R186).
-/
namespace Sys2Proof.Machine

/-- The entry that carries no tile (R110, R117). Its other tag fields hold the least values their encodings allow (DESIGN CHOICE, log
entry 75). -/
def abortEntry (seq : BitVec 16) : GEntry :=
  { seq, product := 0, row := 0, col := 0, vrows := 1, vcols := 1, rmask := 0, cmask := 0, int := false, last := false,
    abort := true, vals := [] }

/-- An earlier matrix slug still has tiles of its own to publish before an ABORT entry (R112, R117). -/
def Engine.tilesBefore (x : Engine) (id : Nat) : Bool := x.qMatrix.any fun q => decide (q.id < id) && galleyOut q.slug

/-- Publish ABORT entries in slug order, while their turn has come and the galley has room (R110, R112, R117). -/
def Engine.publishAborts : Nat → Engine → Engine
  | 0, x => x
  | fuel + 1, x =>
    match x.aborts with
    | [] => x
    | (id, q) :: qs =>
      if x.galley.length < 16 ∧ !x.tilesBefore id then
        publishAborts fuel { x with aborts := qs, galley := x.galley ++ [abortEntry q] }
      else x

/-- The array waits for a galley entry: for a tile, or for an ABORT entry whose turn has come (R111, R117). -/
def Engine.arrayWaits (x : Engine) : Bool :=
  decide (16 ≤ x.galley.length) && (x.galleyWait || match x.aborts with | (id, _) :: _ => !x.tilesBefore id | [] => false)

/-- A slug has ended that halts the engine, or ends its CALL, once it completes: nothing more is admitted and no admitted slug begins
(R185). -/
def Engine.halting (x : Engine) : Bool :=
  x.finishing.any fun f => f.status != .success && !f.entry.mute && (f.entry.call.isSome || !slugContinue f.entry.slug)

/-- A slug that has ended needs a completion record (R180). -/
def Finish.needsRecord (f : Finish) : Bool := !f.entry.mute && (f.status != .success || slugCmpl f.entry.slug)

/-- A full ring holds back a slug that needs a record, and admissions wait behind it (R181, R337). -/
def Engine.recordWaits (x : Engine) : Bool :=
  x.finishing.any fun f => f.needsRecord &&
    if f.entry.ring then (match x.ring with | some r => (r.cqWritten - r.cqConsumed).toNat == p2 r.cqLog2 | none => false)
    else !x.cring.broken && decide (p2 x.cring.log2 ≤ x.cring.head - x.cring.seen)

/-- The slug reaches memory beyond its engine's own operand buffers and platen slice, for which it takes request slots (R209). -/
def QEntry.usesSlots (q : QEntry) (e : Nat) : Bool :=
  (slugClass q.slug != 5 && slugClass q.slug != 6 && slugClass q.slug != 8) && (slugRefs q.slug).any fun (r, _) => match q.td? r with
    | .ok (some t) => t.space != .lcl || t.addrs.any fun a =>
        !decide (bufferOf e ≤ a ∧ a < bufferOf e + 0x800000) && !decide (sliceOf e ≤ a ∧ a < sliceOf e + 0x2000000)
    | _ => false

/-! ### Admission -/

/-- The header check at admission (R156, R160, R161, R184). -/
def headerReserved (s : SlugWord) : Bool :=
  decide (9 < slugClass s) || slugRetry s == 3 || fld s 63 56 != 0

/-- A slug class that the basic level locks (R191). -/
def lockedClass (s : SlugWord) : Bool := slugClass s != 0 && slugClass s != 4 && slugClass s != 9

/-- The status with which admission rejects a slug, if it does. -/
def admissionError (expert : Bool) (it : StreamItem) : Option Status :=
  if headerReserved it.slug then some .reservedEncoding
  else if !expert && (it.origin == .ring || it.origin == .list) && lockedClass it.slug then some .levelLocked
  else none

namespace Chip

/-- The queue entry of a slug admitted now, and the engine's counts afterwards (R164, R202, R275, R344). -/
def makeEntry (c : Chip) (e : Nat) (it : StreamItem) : QEntry × Chip :=
  let x := c.engine e
  let tds := it.own.foldl (fun t (k, w) => Tab.set k w t) x.tds
  let refs := (slugRefs it.slug).map (·.1)
  let copies := refs.foldl (fun t r => match Tab.find? r tds with
    | some w => Tab.set r w t
    | none => t) ([] : Tab TDWord)
  let ent : QEntry := { id := x.nextId, slug := it.slug, origin := it.origin, ring := it.ring, depth := it.depth, call := it.call,
                        session := if c.host.inForce then c.host.session else 0, adm := x.adm + 1, seed := c.seed, layer := x.layer, tds := copies }
  (ent, c.setEngine e { x with nextId := x.nextId + 1, adm := x.adm + 1, seed := c.seed, tds })

/-- Line 1 of an engine's control block (R335). -/
def line1 (r : HostRing) : List Byte :=
  toBytes 64 (r.sqHead.toNat + r.cqWritten.toNat <<< 32 + r.resumeSeen.toNat <<< 64 + r.halted.toNat <<< 80
    + (r.haltStatus % 256) <<< 88 + (r.session % p2 16) <<< 96)

def onRing (c : Chip) (e : Nat) (f : HostRing → HostRing) : Chip :=
  c.onEngine e fun x => { x with ring := x.ring.map f }

/-- Write line 1 of an engine's control block, while its session is in force (R335, R343). A write that cannot be issued waits (R327). A halt
that line 1 now says is signalled under every IRQ_MODE but NONE (R337). -/
def writeLine1 (c : Chip) (e : Nat) : Chip :=
  match (c.engine e).ring with
  | none => c
  | some r =>
    if !c.host.inForce then c
    else if !c.ringAvail e then c.onRing e fun r => { r with due := true }
    else
      match c.hostCtlWrite (r.ctlBase + 64) (line1 r) with
      | (false, c1) => c1.onRing e fun r => { r with due := true }
      | (true, c1) =>
        let c1 := c1.onRing e fun r => { r with due := false, signal := false }
        if r.signal && r.irqMode != 0 then c1.msixRaise r.irqVector else c1

/-- A ring halts: line 1 says so, and the halt is signalled whether or not a record accompanies it (R337, R338). -/
def haltRing (c : Chip) (e : Nat) (st : Nat) : Chip :=
  (c.onRing e fun r => { r with halted := true, haltStatus := st, signal := true }).writeLine1 e

/-- Admission is open: the formes have started (R466), and nothing of R34, R181, R185 or R419 holds it. -/
def admits (c : Chip) (e : Nat) : Bool :=
  let x := c.engine e
  c.formesUp && !x.retired && !x.parked && !x.stopAdm && !x.halted && !x.halting && !x.recordWaits && x.core.isNone

/-- Read the next slug of the engine's host ring into its empty stream (R336). -/
def fetchRing (c : Chip) (e : Nat) : Chip :=
  match (c.engine e).ring with
  | none => c
  | some r =>
    let ahead := (r.sqTail - r.sqHead).toNat
    if !c.host.inForce || c.host.state != .attached || c.hostShut e || r.halted || ahead = 0 then c
    else if p2 r.sqLog2 < ahead then
      let c1 := c.haltRing e Status.ringInvalid.code
      c1.raise Status.ringInvalid.code .deferred e (.engine e) [BitVec.ofNat 64 r.sqHead.toNat, BitVec.ofNat 64 r.sqTail.toNat]
    else
      match c.hostRead (r.sqBase + 64 * (r.sqHead.toNat % p2 r.sqLog2)) 64 with
      | (none, c) => c
      | (some (.error st), c) => c.haltRing e st.code
      | (some (.ok bs), c) => c.onEngine e fun x => { x with stream := [{ slug := BitVec.ofNat 512 (ofBytes bs), origin := .ring, ring := true, counts := true }] }

/-- Drop the front of the stream, counting a ring slug as admitted (R336, R338). -/
def popStream (c : Chip) (e : Nat) : Chip :=
  match (c.engine e).stream with
  | [] => c
  | it :: rest =>
    let c1 := c.onEngine e fun x => { x with stream := rest }
    if it.counts then (c1.onRing e fun r => { r with sqHead := r.sqHead + 1 }).writeLine1 e else c1

/-- A matrix slug that has GALLEY output and ends otherwise than with success publishes one ABORT entry, which waits for a free
entry like any other (R117, R185). -/
def abortFor (c : Chip) (e : Nat) (ent : QEntry) (st : Status) : Chip :=
  if st ≠ .success ∧ galleyOut ent.slug then
    c.onEngine e fun x =>
      let as := x.aborts.filter (fun p => p.1 < ent.id) ++ [(ent.id, BitVec.ofNat 16 (slugSeq ent.slug))] ++ x.aborts.filter fun p => ent.id < p.1
      ({ x with aborts := as } : Engine).publishAborts as.length
  else c

/-- Every SNAPSHOT line of an engine is invalidated when a QUOIN or WAIT completes, and what a PREFETCH in progress has read for one is
stale (R205). -/
def dropSnapshots (c : Chip) (e : Nat) : Chip :=
  let ids := ((c.engine e).qMove.filter fun q => slugOp q.slug == 2 && !bit q.slug 88).map (·.id)
  let c1 := c.onEngine e fun x => x.mapCache fun l => if l.state = .snapshot then none else some l
  if ids.isEmpty then c1
  else (c1.onFab fun f => { f with reqs := f.reqs.map fun r =>
      if r.engine == e && ids.contains r.entry && r.answer.isSome then { r with stale := true } else r }).onHost fun h => { h with
    reqs := h.reqs.map fun r => if r.engine == e && ids.contains r.entry && r.answer.isSome then { r with stale := true } else r }

/-- A slug that ends outside the queues: rejected, flushed, refused by its session, or carried out by the control core. -/
def finishNow (c : Chip) (e : Nat) (ent : QEntry) (st : Status) : Chip :=
  let c1 := if slugClass ent.slug = 4 then c.dropSnapshots e else c
  (c1.abortFor e ent st).onEngine e fun x => { x with finishing := x.finishing ++ [{ entry := ent, status := st }] }

/-- Admit the slug at the front of the stream when its queue has room; QUOIN and CONTROL slugs stay for the control core.
Answers whether anything was admitted (R156 to R158). DEDUCED, log entry 49. -/
def admitOne (c : Chip) (e : Nat) : Chip × Bool :=
  match (c.engine e).stream with
  | [] => (c, false)
  | it :: _ =>
    match admissionError c.imp.engExpert it with
    | some st =>
      let (ent, c1) := (c.popStream e).makeEntry e it
      (c1.finishNow e ent st, true)
    | none =>
      match classQueue (slugClass it.slug) with
      | none => (c, false)
      | some q =>
        if ((c.engine e).queue q).length < q.depth then
          let (ent, c1) := (c.popStream e).makeEntry e it
          (c1.onEngine e fun x => x.setQueue q (x.queue q ++ [ent]), true)
        else (c, false)

/-- Admit while admission is open and something can be admitted; `fuel` bounds the admissions of one command. -/
def pump : Nat → Nat → Chip → Chip
  | 0, _, c => c
  | fuel + 1, e, c =>
    if !c.admits e then c
    else
      let c1 := if (c.engine e).stream.isEmpty then c.fetchRing e else c
      let (c2, more) := c1.admitOne e
      if more then pump fuel e c2 else c2

/-- How many admissions one command may bring: more than the queues hold. -/
def pumpFuel : Nat := 256

/-- Admission of an engine proceeds. -/
def pumpE (c : Chip) (e : Nat) : Chip := pump pumpFuel e c

/-! ### The queue entry in hand -/

def updEntry (c : Chip) (e : Nat) (q : QId) (ent : QEntry) : Chip :=
  c.onEngine e fun x => x.setQueue q ((x.queue q).map fun p => if p.id = ent.id then ent else p)

def dropEntry (c : Chip) (e : Nat) (q : QId) (id : Nat) : Chip :=
  c.onEngine e fun x => x.setQueue q ((x.queue q).filter fun p => p.id != id)

/-! ### Remote bytes -/

/-- What gathering answers: all bytes are there, more are awaited, or a remote access failed. -/
inductive Gather
  | ready
  | waiting
  | failed (st : Status)
  deriving DecidableEq, Repr

/-- Bytes that a TD's elements occupy on another device or in host memory, in rising order without repeats. -/
def remoteBytes (c : Chip) (td : TD) : List Nat :=
  let far (a : Nat) : Bool := match td.space with
    | .lcl => false
    | .broadsheet => !(a >>> 48 == c.fab.deviceId && c.fab.idValid)
    | .host => decide (a < p2 52)
  sortAddrs ((td.addrs.filter far).flatMap fun a => addrRange a td.elemBytes)

/-- Valid platen lines that PREFETCH filled serve a remote read (R198). -/
def lineByte (c : Chip) (e space a : Nat) : Option Byte :=
  match (c.engine e).findLine space (a / 128 * 128) with
  | some l => if l.state = .trackedInvalid then none else some (BitVec.ofNat 8 (l.data.toNat >>> (8 * (a % 128))))
  | none => none

/-- A TRACKED_INVALID line is refetched whole (R203). -/
def widenInvalid (c : Chip) (e space : Nat) (as : List Nat) : List Nat :=
  sortAddrs (as.flatMap fun a => match (c.engine e).findLine space (a / 128 * 128) with
    | some l => if l.state = .trackedInvalid then addrRange (a / 128 * 128) 128 else [a]
    | none => [a])

/-- Lines that the bytes of a TD on another device or in host memory lie in. -/
def remoteLines (c : Chip) (td : TD) : List Nat := ((c.remoteBytes td).map (· / 128 * 128)).eraseDups

/-- The lines of some sources that an engine holds TRACKED_INVALID, each with the TD that reads it. -/
def invalidLines (c : Chip) (e : Nat) (srcs : List TD) : Tab TD :=
  srcs.foldl (fun t td => (c.remoteLines td).foldl (fun t a => match (c.engine e).findLine td.space.code a with
    | some l => if l.state = .trackedInvalid then Tab.set a td t else t
    | none => t) t) []

/-- A refetched line counts one PREFETCH_REFETCH and takes its new bytes; it is TRACKED again where it is still registered (R202,
R203). -/
def refetched (c : Chip) (e : Nat) (ent : QEntry) (td : TD) (a : Nat) (live : Bool) (bs : List Byte) : Chip :=
  match (c.engine e).findLine td.space.code a with
  | none => c
  | some l =>
    let l' := if live then { l with data := BitVec.ofNat 1024 (ofBytes bs), state := .tracked } else l
    c.onEngine e fun x =>
      let x1 := x.mapCache fun m => if m.space == l.space && m.addr == l.addr then some l' else some m
      { x1.touch ent td.id td.streaming l' with cnt := { x1.cnt with refetch := bump48 x1.cnt.refetch 1 } }

/-- The key of a WATCH that a refetch sends. -/
def watchKey : Nat := 9

/-- Lines of another device whose refetching READ has been answered: each is TRACKED again when its watch stands and no invalidation has
come since (R203). -/
def restoreFar (c : Chip) (e : Nat) (ent : QEntry) (srcs : List TD) : Chip :=
  let done (r : FabReq) : Bool := match r.answer with | some (.success, _) => !r.stale | _ => false
  let at_ (r : FabReq) : Nat := fld r.thdr 31 16 * p2 48 + fld r.thdr 111 64
  let answers := c.fabAnswers e ent.id
  (c.invalidLines e (srcs.filter (·.space == .broadsheet))).foldl (fun c (a, td) =>
    match answers.find? fun r => r.key == 0 && decide (at_ r ≤ a ∧ a + 128 ≤ at_ r + 4 * fld r.thdr 168 160) with
    | none => c
    | some r => match r.answer with
      | some (.success, bs) =>
        c.refetched e ent td a (done r && answers.any fun w => w.key == watchKey && at_ w == a && done w) ((bs.drop (a - at_ r)).take 128)
      | _ => c) c

/-- The bytes of a platen line of HOST space, while the host line cache holds both of its lines. -/
def hostBoth (c : Chip) (a : Nat) : Option (List Byte) :=
  match Tab.find? (a / 64) c.host.lines, Tab.find? (a / 64 + 1) c.host.lines with
  | some x, some y => if x.ue || y.ue then none else some (toBytes 64 x.data.toNat ++ toBytes 64 y.data.toNat)
  | _, _ => none

/-- Refetched HOST lines: each is TRACKED again while the host line cache still holds it (R203). -/
def restoreHost (c : Chip) (e : Nat) (ent : QEntry) (srcs : List TD) : Chip :=
  (c.invalidLines e (srcs.filter (·.space == .host))).foldl (fun c (a, td) =>
    match c.hostBoth a with
    | some bs => c.refetched e ent td a true bs
    | none => c.refetched e ent td a false []) c

/-- Hits of remote sources on lines that PREFETCH filled: each line is touched and counted (R198, R202). -/
def touchHits (c : Chip) (e : Nat) (ent : QEntry) (td : TD) (got : List Host.Cell) : Chip :=
  let lines := (((c.remoteBytes td).filter fun a => (cellAt a got).isNone && (c.lineByte e td.space.code a).isSome).map (· / 128 * 128)).eraseDups
  lines.foldl (fun c a => match (c.engine e).findLine td.space.code a with
    | some l => c.onEngine e fun x => ({ x with cnt := { x.cnt with pltHit := bump48 x.cnt.pltHit 1 } } : Engine).touch ent td.id td.streaming l
    | none => c) c

/-- Put answered bytes into cells. -/
def addCells (cs : List Host.Cell) (a : Nat) (bs : List Byte) : List Host.Cell :=
  (bs.zipIdx a).foldl (fun cs (b, i) => cellSet i b cs) cs

/-- Take a slug's answered READ requests (key 0) and host answers into its entry; the first failure is reported. -/
def absorb (c : Chip) (e : Nat) (ent : QEntry) : QEntry × Option Status × Chip :=
  let fs := (c.fabAnswers e ent.id).filter fun r => r.key == 0
  let hs := c.host.reqs.filter fun r => r.engine == e && r.entry == ent.id && r.answer.isSome
  let bad := (fs.findSome? fun r => match r.answer with
      | some (st, _) => if st = .success then none else some st
      | none => none).orElse fun _ => hs.findSome? fun r => match r.answer with
      | some (_, true) => some .hostPoison
      | _ => none
  let gotB := fs.foldl (fun cs r => match r.answer with
    | some (_, bs) => addCells cs (fld r.thdr 31 16 * p2 48 + fld r.thdr 111 64) bs
    | none => cs) ent.prog.gotB
  let gotH := hs.foldl (fun cs r => match r.answer with
    | some (d, _) => addCells cs (r.line * 64) (toBytes 64 d.toNat)
    | none => cs) ent.prog.gotH
  let c1 := (c.onFab fun f => { f with reqs := f.reqs.filter fun r => !(r.engine == e && r.entry == ent.id && r.key == 0 && r.answer.isSome) }).onHost
    fun h => { h with reqs := h.reqs.filter fun r => !(r.engine == e && r.entry == ent.id && r.kind == .rdShared && r.answer.isSome) }
  ({ ent with prog := { ent.prog with gotB, gotH } }, bad, c1)

/-- Gather the remote bytes of the sources and the ownership of the HOST lines of the destinations. Requests are issued
while the unit has free slots. Only the movement path looks up the platen cache (R198). -/
def gather (c : Chip) (e : Nat) (q : QId) (ent : QEntry) (srcs dsts : List TD) (maxLen unit : Nat) : Gather × QEntry × Chip :=
  let cached : Bool := q == .move
  let (ent1, bad0, c1) := (if cached then c.restoreFar e ent srcs else c).absorb e ent
  let read := (((srcs.filter (·.space == .host)).flatMap c1.remoteBytes).map (· / 64)).eraseDups
  let ueLine : Bool := read.any fun a => match Tab.find? a c1.host.lines with
    | some l => l.ue
    | none => false
  let c1 := if ueLine then c1.noteHlc read else c1
  -- the way to the host leads through F0's network-on-chip (R421)
  let shut : Bool := c1.formeDown.contains 0 && e / 16 != 0 && (srcs ++ dsts).any (·.space == .host)
  match (if shut then some Status.pathReset else if ueLine then some Status.hostPoison else bad0) with
  | some st =>
    let ent2 := { ent1 with prog := { ent1.prog with far := !shut && bad0.isSome && !ueLine } }
    (.failed st, ent2, c1.updEntry e q ent2)
  | none =>
    let bs := (srcs.filter (·.space == .broadsheet)).flatMap c1.remoteBytes
    let hs := (srcs.filter (·.space == .host)).flatMap c1.remoteBytes
    -- bytes that valid prefetched lines serve
    let served (space : Nat) (cs : List Host.Cell) (as : List Nat) : List Host.Cell :=
      as.foldl (fun cs a => if !cached || (cellAt a cs).isSome then cs else match c1.lineByte e space a with
        | some b => cellSet a b cs
        | none => cs) cs
    -- bytes of lines the host line cache holds
    let hitH (cs : List Host.Cell) : List Host.Cell := hs.foldl (fun cs a =>
      if (cellAt a cs).isSome then cs
      else match Tab.find? (a / 64) c1.host.lines with
        | some l => cellSet a (BitVec.ofNat 8 (l.data.toNat >>> (8 * (a % 64)))) cs
        | none => cs) cs
    let gotB := served 1 ent1.prog.gotB bs
    let gotH := hitH (served 2 ent1.prog.gotH hs)
    let ent2 := { ent1 with prog := { ent1.prog with gotB, gotH } }
    let c1 := if cached then srcs.foldl (fun c td => c.touchHits e ent2 td (if td.space = .host then ent1.prog.gotH else ent1.prog.gotB)) c1 else c1
    let widen (space : Nat) (as : List Nat) : List Nat := if cached then c1.widenInvalid e space as else as
    let missB := widen 1 (bs.filter fun a => (cellAt a gotB).isNone)
    let pendB := c1.fab.reqs.filter fun r => r.engine == e && r.entry == ent.id && r.key == 0
    let covered (a : Nat) : Bool := pendB.any fun r =>
      let s := fld r.thdr 31 16 * p2 48 + fld r.thdr 111 64
      decide (s ≤ a ∧ a < s + 4 * fld r.thdr 168 160)
    let runs := (runsOf ((missB.filter fun a => !covered a).map fun a => (a, (0 : Byte)))).flatMap fun (a, bs) =>
      let lo := a / 4 * 4
      splitRun maxLen (bs.length + 4) lo ((a + bs.length + 3) / 4 * 4 - lo)
    let wantH := ((widen 2 (hs.filter fun a => (cellAt a gotH).isNone)).map fun a => (a / 64, HReqKind.rdShared)).eraseDups
    let dstBytes := (dsts.filter (·.space == .host)).flatMap c1.remoteBytes
    let ownH := ((dstBytes.map (· / 64)).eraseDups.filter fun l => !c1.hostOwns e ent.id l).map fun l =>
      (l, if (addrRange (l * 64) 64).all dstBytes.contains then HReqKind.rdOwnNoData else HReqKind.rdOwn)
    let mine (l : Nat) (k : HReqKind) : Option HReq := c1.host.reqs.find? fun r => r.engine == e && r.entry == ent.id && r.line == l && r.kind == k
    -- ownership that a snoop has taken away again is asked for anew
    let newH := (wantH ++ ownH).filter fun (l, k) => match mine l k with
      | some r => r.answer.isSome
      | none => true
    let openH := wantH ++ ownH
    -- a line that is refetched is watched again before it is read
    let watch := if cached then ((c1.invalidLines e (srcs.filter (·.space == .broadsheet))).map (·.1)).filter fun a =>
        missB.contains a && !(c1.fab.reqs.any fun r => r.engine == e && r.entry == ent.id && r.key == watchKey &&
          fld r.thdr 31 16 == a >>> 48 && fld r.thdr 111 64 == a % p2 48) else []
    let c2 := watch.foldl (fun c a =>
      c.request e ent.id watchKey (a >>> 48) { opcode := opWatch, dst := a >>> 48, addr := a % p2 48, unit := unit, arg := 1 } []) c1
    let c2 := runs.foldl (fun c (a, n) =>
      c.request e ent.id 0 (a >>> 48) { opcode := opRead, dst := a >>> 48, addr := a % p2 48, unit := unit, lenW := n / 4 } []) c2
    let c2 := c2.hostTouch (((hs.filter fun a => (cellAt a gotH).isSome && (cellAt a (served 2 ent1.prog.gotH hs)).isNone).map (· / 64)).eraseDups)
    let c3 := (newH.take (c2.slotRoom unit)).foldl (fun c (l, k) => c.askHost e ent.id l k) c2
    let c4 := c3.updEntry e q ent2
    if missB.isEmpty && openH.isEmpty then
      let hitW := (dstBytes.map (· / 64)).eraseDups.filter fun l => !(c4.host.reqs.any fun r => r.engine == e && r.entry == ent.id && r.line == l && r.kind != .rdShared)
      let c5 := c4.hostTouch hitW
      (.ready, ent2, if cached then c5.restoreHost e ent2 srcs else c5)
    else (.waiting, ent2, c4)

/-- A slug that ends forgets its answered requests and those not yet issued; those outstanding keep their slot and TXN until they are
answered, and a QUOIN waits for them (R209, R284, R317). -/
def clearRemote (c : Chip) (e id : Nat) : Chip :=
  let mine (r : FabReq) : Bool := r.engine == e && r.entry == id
  let leave (r : FabReq) : FabReq := if mine r then { r with orphan := true } else r
  (c.onFab fun f => { f with reqs := (f.reqs.filter fun r => !(mine r && (r.answer.isSome || r.queued))).map leave }).onHost fun h =>
    { h with reqs := h.reqs.filter fun r => !(r.engine == e && r.entry == id) }

/-! ### Sessions and the end of a slug -/

/-- The slug touches host memory (R344). -/
def touchesHost (q : QEntry) : Bool :=
  let hostTd (ref : Nat) : Bool := match Tab.find? ref q.tds with
    | some w => fld w 124 123 == 2
    | none => false
  match slugClass q.slug with
  | 6 => true
  | 4 => if slugOp q.slug = 0 then (4 ≤ fld q.slug 70 68 || fld q.slug 73 72 == 2) else false
  | 9 => if slugOp q.slug = 1 || slugOp q.slug = 3 then fld q.slug 89 88 == 2 else (slugRefs q.slug).any fun (r, _) => hostTd r
  | _ => (slugRefs q.slug).any fun (r, _) => hostTd r

/-- A slug that touches host memory outside its own session in force completes with HOST_LOST (R344). -/
def sessionError (c : Chip) (q : QEntry) : Option Status :=
  if touchesHost q && !(c.host.inForce && q.session == c.host.session) then some .hostLost else none

/-- The device's own id as the BROADSHEET space names it, none before it has one (R28, R289). -/
def selfId (c : Chip) : Option Nat := if c.fab.idValid then some c.fab.deviceId else none

/-- The TD of a slug is the BROADSHEET one whose BASE names a role (R305). -/
def isRoleTd (q : QEntry) (t : TD) : Bool := slugClass q.slug == 5 && bit q.slug 111 && t.space == .broadsheet

/-- Where an element of a slug's TD lies, as far as this device knows: a role of which its own entry names it the holder is its own memory
(R28, R300, R305); any other role is a place apart. -/
def slugLoc (c : Chip) (q : QEntry) (t : TD) (a : Nat) : Nat × Nat :=
  if isRoleTd q t then
    let ent := Tab.get 0 c.fab.roles (a / p2 48)
    if bit ent 32 && some (fld ent 15 0) == c.selfId then (0, fld ent 111 64 + a % p2 48) else (3, a)
  else t.locOf c.selfId a

/-- Some byte of one TD of a slug is a byte of another. -/
def slugOverlap (c : Chip) (q : QEntry) (a b : TD) : Bool :=
  let at_ (t : TD) : List (Nat × Nat) := (List.range t.count).map fun i => c.slugLoc q t (t.rawAddr (coordsOf t.ext i))
  let bs := at_ b
  (at_ a).any fun x => bs.any fun y => x.1 == y.1 && decide (x.2 < y.2 + b.elemBytes ∧ y.2 < x.2 + a.elemBytes)

/-- Restartable slugs of R186 and R322. The keep mask is a destination, and MASK a source (DESIGN CHOICE, log entry 81). -/
def restartable (c : Chip) (q : QEntry) : Bool :=
  let s := q.slug
  let tdOf (ref : Nat) : Option TD := match q.td? ref with
    | .ok t => t
    | .error _ => none
  let noOverlap : Bool := match tdOf (fld s 77 68), tdOf (fld s 87 78) with
    | some a, some b => !c.slugOverlap q b a
    | _, _ => true
  match slugClass s with
  | 0 => noOverlap
  | 1 => if slugOp s = 0 then !bit s 78 && fld s 82 81 != 2
         else !bit s 85 && !bit s 86 && fld s 88 87 != 2 && fld s 90 89 != 2
  | 2 =>
    let rs := vectorRefs s
    let sumStart := (match VOp.ofCode (fld s 71 64) with | some op => op.isSumRed | none => false) && bit s 256
    fld s 112 111 != 3 && !bit s 147 && !sumStart &&
      !((rs.filter (·.2)).any fun d => (rs.filter fun p => !p.2).any fun r => match tdOf d.1, tdOf r.1 with
        | some d, some t => d.identical c.selfId t
        | _, _ => false)
  | 5 => (slugOp s == 0 || slugOp s == 1) && noOverlap
  | _ => false

/-- Retries that PATH_RETRY allows (R186). DEDUCED, log entry 49. -/
def retryLimit (s : SlugWord) : Nat := match slugRetry s with | 1 => 1 | 2 => 4 | _ => 0

/-- The mask of a vector slug selects a position. -/
def maskOn (c : Chip) (m : Option TD) (cs : List Nat) : Bool :=
  match m with
  | none => true
  | some t => c.seenWord (t.addr (t.broadcast cs)) t.elemBytes != 0

/-- The elements that a restartable slug accesses, in the order of its walk from where it stands (R94, R99, R126, R133). -/
def accessOrder (c : Chip) (q : QEntry) : List (TD × List Nat) :=
  let s := q.slug
  let td (ref : Nat) : Option TD := match q.td? ref with | .ok t => t | .error _ => none
  let at_ (ref : Nat) (cs : List Nat) : List (TD × List Nat) := ((td ref).map fun t => (t, t.broadcast cs)).toList
  let move : List (TD × List Nat) :=
    let perm := if slugClass s = 0 ∧ slugOp s = 1 then swap2 else fun l => l
    match td (fld s 77 68), td (fld s 87 78) with
    | some a, some d => ((List.range (a.count - q.prog.done0)).map (q.prog.done0 + ·)).flatMap fun i => [(a, coordsOf a.ext i), (d, perm (coordsOf a.ext i))]
    | none, some d => ((List.range (d.count - q.prog.done0)).map (q.prog.done0 + ·)).map fun i => (d, coordsOf d.ext i)
    | _, none => []
  match slugClass s with
  | 0 => move
  | 5 => move
  | 1 =>
    match matrixProducts q with
    | .error _ => []
    | .ok ps => match nextProduct ps q.prog.done0 q.prog.done1 with
      | none => []
      | some (p, t) =>
        let (ti, tj) := p.tileAt t
        let mask (m : Option TD) (lo n : Nat) : List (TD × List Nat) := (m.map fun t => (List.range n).map fun i => (t, [lo + i])).getD []
        mask p.rmask (32 * ti) (p.validRows ti) ++ mask p.cmask (32 * tj) (p.validCols tj) ++
          (p.dst.map fun d => (List.range (p.validRows ti * p.validCols tj)).map fun k =>
            (d, [32 * tj + k % p.validCols tj, 32 * ti + k / p.validCols tj])).getD []
  | 2 =>
    let mask := td (fld s 177 168)
    let srcs := (((vectorRefs s).filter fun p => !p.2).map (·.1)).filter (· != fld s 177 168)
    let pos (cs : List Nat) : List (TD × List Nat) :=
      at_ (fld s 177 168) cs ++ (if c.maskOn mask cs then srcs.flatMap fun r => at_ r cs else [])
    match td (fld s 157 148), td (fld s 126 117) with
    | some d, a => ((List.range (d.count - q.prog.done0)).map fun i => coordsOf d.ext (q.prog.done0 + i)).flatMap fun cs =>
      (if fld s 180 178 < 6 then (List.range ((a.map fun a => a.ext.getD (fld s 180 178) 1).getD 1)).flatMap fun k => pos (cs.set (fld s 180 178) k)
       else pos cs) ++
      (if fld s 180 178 < 6 || c.maskOn mask cs then (d, cs) :: at_ (fld s 167 158) cs else [])
    | none, _ => []
  | _ => []

/-- The domain in reset that refuses an element to an engine, and the stall counter that waiting for it is charged to (R212, R418): HBM_QUEUE for
HBM, PLATEN_MISS for another engine's memory, FABRIC_RECV for another device, HOST_READ for the way to the host through F0 (R421). -/
def elemCause (c : Chip) (e : Nat) (q : QEntry) (t : TD) (cs : List Nat) : Option (Nat × Nat) :=
  let a := t.addr cs
  let f := e / 16
  if t.space = .host then (if c.formeDown.contains 0 && f != 0 then some (100, 10) else none)
  else match c.slugLoc q t a with
    | (0, l) => (addrRange l t.elemBytes).findSome? fun b => (c.addrCause f b).map fun d => (d, if b < hbmTop then 8 else 6)
    | _ => if c.domDown.contains (16 + f) then some (16 + f, 9) else none

/-- The domain whose reset ended a slug's access, which is the first that its walk is refused. None where another device refused it, whose
domains this one does not see (DESIGN CHOICE, log entry 99), or where it has recovered. -/
def resetCause (c : Chip) (e : Nat) (q : QEntry) : Option (Nat × Nat) :=
  if q.prog.far then none else (c.accessOrder q).findSome? fun (t, cs) => c.elemCause e q t cs

/-- The bed domain at whose edge a slug's access has ended, also of a slug that cannot be rerun. -/
def pathCause (c : Chip) (e : Nat) (q : QEntry) : Option Nat :=
  if q.prog.far then none
  else ((c.resetCause e q).map (·.1)).orElse fun _ => (slugRefs q.slug).findSome? fun (r, _) => match q.td? r with
    | .ok (some t) => (List.range t.count).findSome? fun i => (c.elemCause e q t (coordsOf t.ext i)).map (·.1)
    | _ => none

/-- The end of a begun slug: it leaves its queue and waits for its record, or, having met PATH_RESET with retries left, is held
until the domain has recovered (R180, R186, R418). -/
def endSlug (c : Chip) (e : Nat) (q : QId) (ent : QEntry) (st : Status) (detail : Nat) : Chip :=
  let c1 := (c.clearRemote e ent.id).notePath (if st = .pathReset then c.pathCause e ent else none)
  if st = .pathReset ∧ c.restartable ent ∧ ent.retries < retryLimit ent.slug then
    let cause := c.resetCause e ent
    (c1.updEntry e q { ent with retries := ent.retries + 1, began := true, prog := {}, held := cause.map (·.1),
                                why := (cause.map (·.2)).getD 0 }).onEngine e fun x =>
      { x with galleyWait := x.galleyWait && q != .matrix }
  else
    ((c1.dropEntry e q ent.id).abortFor e ent st).onEngine e fun x =>
      let x1 := { x with galleyWait := x.galleyWait && q != .matrix,
                         finishing := x.finishing ++ [{ entry := { ent with began := true }, status := st, detail := detail % p2 48 }] }
      if q = .matrix then x1.publishAborts x1.aborts.length else x1

/-- What a row of a slug class names: the head of the unit's queue, or a slug that the operator firmware issues now (R191: never
locked), which is admitted behind the stream first. DESIGN CHOICE, log entry 28. -/
def issueFirst (c : Chip) (e : Nat) (w : Option SlugWord) : Chip :=
  match w with
  | none => c
  | some s => c.onEngine e fun x => { x with stream := x.stream ++ [{ slug := s, origin := .firmware }] }

/-- The head of a queue that may run now: the engine is in service and moving, the slug waits for no domain and no ABORT entry of an
earlier matrix slug, the blocks and slots it reaches next are free, and so is a request slot if it takes one (R95, R113, R117, R159, R186,
R209, R419). -/
def readyHead (c : Chip) (e : Nat) (q : QId) : Option QEntry :=
  let x := c.engine e
  if (x.retired || x.parked) && !q.onBed then none
  else match x.queue q with
    | [] => none
    | ent :: _ =>
      if ent.held.isSome || (x.halting && !ent.began) || x.blocked e ent || (ent.usesSlots e && c.slotRoom e == 0) ||
        (q == .matrix && x.aborts.any fun p => decide (p.1 < ent.id)) then none
      else some ent

/-- The shape of every row of a slug class: the slug is issued if the firmware issues one, admission proceeds, the head of the
unit's queue runs when it may and is a slug of the row, and admission proceeds again into the room it leaves. DESIGN CHOICE, log entry 11.
DESIGN CHOICE, log entry 28. -/
def runHead (c : Chip) (e : Nat) (q : QId) (w : Option SlugWord) (isRow : SlugWord → Bool) (run : Chip → QEntry → Chip) : Chip :=
  let c1 := (c.issueFirst e w).pumpE e
  match c1.readyHead e q with
  | none => c1
  | some ent => if isRow ent.slug then (run c1 { ent with began := true }).pumpE e else c1

/-- A begun slug checks its session (R344) and then its fields; a failed check ends it. -/
def begin (c : Chip) (e : Nat) (q : QId) (ent : QEntry) (check : Except Status Unit) (run : Chip → Chip) : Chip :=
  match c.sessionError ent with
  | some st => c.endSlug e q ent st 0
  | none => (match check with
    | .error st => c.endSlug e q ent st 0
    | .ok () => run c)

/-- The failed requests of a slug, its reads apart: address and length of each, and its status. -/
def failedReqs (c : Chip) (e id : Nat) : List (Nat × Nat × Status) :=
  (c.fabAnswers e id).filterMap fun r => match r.answer with
    | some (st, _) => if st = .success ∨ r.key = 0 ∨ r.key = watchKey then none else some (fld r.thdr 31 16 * p2 48 + fld r.thdr 111 64, 4 * fld r.thdr 168 160, st)
    | none => none

/-- The end of a phase that waits for the RESPONSEs to a slug's own requests: still waiting, or the first failing status, with the DETAIL
that the failed requests leave. -/
def awaitWrites (c : Chip) (e : Nat) (q : QId) (ent : QEntry) (detail : List (Nat × Nat × Status) → Nat) (done : Chip → Chip) : Chip :=
  if c.fabWaiting e ent.id then c.updEntry e q ent
  else
    match c.failedReqs e ent.id with
    | (a, n, st) :: fs => c.endSlug e q { ent with prog := { ent.prog with far := true } } st (detail ((a, n, st) :: fs))
    | [] => done c

end Chip

end Sys2Proof.Machine
end

