-- ==== Sys2Proof/Machine/Move.lean ====
section
/-!
DEFINITION. The movement path (R52, R94, R171, R172, R534, R202 to R204): COPY, COPY_T, SET and PREFETCH.
-/
namespace Sys2Proof.Machine

def moveSrc (s : SlugWord) : Nat := fld s 77 68
def moveDst (s : SlugWord) : Nat := fld s 87 78
def moveTracked (s : SlugWord) : Bool := bit s 88
def moveValue (s : SlugWord) : W32 := BitVec.ofNat 32 (fld s 127 96)

/-- Reserved encodings of the MOVE body (R171, R534). -/
def moveReserved (s : SlugWord) : Bool :=
  !rsvdZero s [(89, 7), (128, 384)] || decide (3 < slugOp s) || (moveTracked s && slugOp s != 2)

/-- A LOCAL address in operand buffer A or B of some engine (R22, R52). -/
def inOperandBuffer (a : Nat) : Bool :=
  match placeOf a with
  | .buffer _ off => decide (off < 0x400000)
  | _ => false

/-- The TD lies in an operand buffer A or B, by its base (R52; DESIGN CHOICE, log entry 102). -/
def TD.inBuffer (t : TD) : Bool := t.space == .lcl && inOperandBuffer t.base

/-- The conversion controls of a movement (R52): RNE and the source's SATURATE bit into an operand buffer, the destination's
own controls elsewhere. SET has no source, and its SATURATE bit is then 0 (DESIGN CHOICE, log entry 14). -/
def moveCtl (ent : QEntry) (src : Option TD) (dst : TD) (i : Nat) : ConvCtl :=
  if dst.inBuffer then { mode := .rne, sat := match src with | some t => t.sat | none => false, u := 0 } else Chip.ctlOf ent dst i

/-- The operand TD's layout of R91 in one of the engine's own buffers: two-dimensional, unit inner stride, base and outer stride
multiples of 64, wholly within one buffer. A TD with no elements lies within every buffer (DESIGN CHOICE, log entry 76). -/
def TD.operandPlace (t : TD) (e : Nat) : Bool :=
  t.space == .lcl &&
  (t.stride.headD 0 == 0 || t.stride.headD 0 == (t.fmt.width / 8 : Nat)) &&
  t.base % 64 == 0 && t.stride.getD 1 0 % 64 == 0 &&
  match t.span with
  | none => decide (t.count = 0)
  | some (lo, hi) =>
    let b := bufferOf e
    decide ((b ≤ lo ∧ hi ≤ b + 0x200000) ∨ (b + 0x200000 ≤ lo ∧ hi ≤ b + 0x400000))

/-- The shape is two-dimensional at most. -/
def TD.twoDim (t : TD) : Bool := (t.ext.drop 2).all (· == 1)

/-- The checks of R534 for COPY. -/
def checkCopy (own : Option Nat) (ent : QEntry) : Except Status (TD × TD) := do
  failIf (moveReserved ent.slug) .reservedEncoding
  let src ← ent.tdReq (moveSrc ent.slug)
  let dst ← ent.tdReq (moveDst ent.slug)
  failIf (src.ext != dst.ext) .shapeIllegal
  failIf (dst.conflicts own src) .operandOverlap
  return (src, dst)

/-- The checks of R534 for COPY_T by engine `e`. -/
def checkCopyT (own : Option Nat) (e : Nat) (ent : QEntry) : Except Status (TD × TD) := do
  failIf (moveReserved ent.slug) .reservedEncoding
  let src ← ent.tdReq (moveSrc ent.slug)
  let dst ← ent.tdReq (moveDst ent.slug)
  failIf (decide (2 < src.ndim ∨ 2 < dst.ndim) || dst.ext.take 2 != (src.ext.take 2).reverse) .shapeIllegal
  failIf (!dst.operandPlace e) .placeIllegal
  failIf (dst.conflicts own src) .operandOverlap
  return (src, dst)

/-- The checks of R534 for SET. -/
def checkSet (ent : QEntry) : Except Status TD := do
  failIf (moveReserved ent.slug) .reservedEncoding
  failIf (moveSrc ent.slug != nullTd) .placeIllegal
  ent.tdReq (moveDst ent.slug)

/-- The checks of R534 for PREFETCH. -/
def checkPrefetch (ent : QEntry) : Except Status TD := do
  failIf (moveReserved ent.slug) .reservedEncoding
  failIf (moveDst ent.slug != nullTd) .placeIllegal
  ent.tdReq (moveSrc ent.slug)

/-- The element writes of a movement, in element-index order of the source, up to the first element that faults: the writes in
order, how many there are, and the fault. `perm` takes source coordinates to destination coordinates. -/
def moveElems (e : Nat) (ent : QEntry) (src dst : TD) (perm : List Nat → List Nat) :
    List Nat → Chip → List Chip.EWrite → List Chip.EWrite × Option Status × Chip
  | [], c, acc => (acc.reverse, none, c)
  | i :: is, c, acc =>
    let cs := coordsOf src.ext i
    match c.readElem e ent src cs with
    | (.error st, c1) => (acc.reverse, some st, c1)
    | (.ok v, c1) =>
      let ds := perm cs
      let a := dst.addr ds
      match c1.destError e dst a with
      | some st => (acc.reverse, some st, c1)
      | none =>
        let di := indexOf dst.ext ds
        moveElems e ent src dst perm is c1
          ({ addr := a, bits := convElem src.fmt dst.fmt (moveCtl ent (some src) dst di) v, fmt := dst.fmt, high := dst.high ds } :: acc)

/-- The element writes of a SET. -/
def setElems (e : Nat) (ent : QEntry) (dst : TD) :
    List Nat → Chip → List Chip.EWrite → List Chip.EWrite × Option Status × Chip
  | [], c, acc => (acc.reverse, none, c)
  | i :: is, c, acc =>
    let ds := coordsOf dst.ext i
    let a := dst.addr ds
    match c.destError e dst a with
    | some st => (acc.reverse, some st, c)
    | none =>
      let v := CVal.ofBits dst.fmt.isInt (moveValue ent.slug)
      setElems e ent dst is c
        ({ addr := a, bits := storeElem dst.fmt (moveCtl ent none dst i) none false v, fmt := dst.fmt, high := dst.high ds } :: acc)

namespace Chip

/-- Elements of a movement's first `n` that no failed WRITE covers (R180). -/
def landed (dst : TD) (perm : List Nat → List Nat) (ext : List Nat) (n : Nat) (bad : List (Nat × Nat × Status)) : Nat :=
  ((List.range n).filter fun i =>
    let a := dst.addr (perm (coordsOf ext i))
    !(bad.any fun (lo, k, _) => decide (lo < a + dst.elemBytes ∧ a < lo + k))).length

/-- A movement has done all it will: once its writes have their RESPONSEs it ends, with a fault it met or the first of theirs (R101,
R174, R180). -/
def moveAwait (c : Chip) (e : Nat) (ent : QEntry) (dst : TD) (perm : List Nat → List Nat) (ext : List Nat) : Chip :=
  c.awaitWrites e .move ent (landed dst perm ext ent.prog.done0) fun c => c.endSlug e .move ent (ent.prog.drain.getD .success) ent.prog.done0

/-- Store the writes of the elements up to `upto`. The movement goes on from there later, or has reached its last element or a fault,
after which it writes nothing more. -/
def moveFinish (e : Nat) (ent : QEntry) (dst : TD) (perm : List Nat → List Nat) (ext : List Nat) (upto total : Nat)
    (r : List EWrite × Option Status × Chip) : Chip :=
  let (ws, bad, c1) := r
  let done := ent.prog.done0 + ws.length
  match c1.storeElems e ent dst 256 e ws with
  | (.error st, c2) =>
    let c3 := match c2.ueAt (ws.map fun (w : EWrite) => w.addr) with | some a => c2.ueEvent a | none => c2
    c3.moveAwait e { ent with prog := { ent.prog with phase := 1, drain := some st } } dst perm ext
  | (.ok (), c2) =>
    let c3 := c2.countStores e ent.layer ws
    if bad.isSome || upto == total then
      c3.moveAwait e { ent with prog := { ent.prog with phase := 1, done0 := done, drain := bad } } dst perm ext
    else c3.updEntry e .move { ent with prog := { ent.prog with done0 := done } }

/-- The bytes of a source element are there, and so is the ownership of its destination's host lines. -/
def moveHas (c : Chip) (e : Nat) (ent : QEntry) (src : Option TD) (dst : TD) (a b : Nat) : Bool :=
  (match src with
   | none => true
   | some t => match t.space with
     | .lcl => true
     | .broadsheet => (c.fab.idValid && a >>> 48 == c.fab.deviceId) || (fromGot ent.prog.gotB a t.elemBytes).isSome
     | .host => t.barred || (fromGot ent.prog.gotH a t.elemBytes).isSome) &&
  (dst.space != .host || dst.barred || (addrRange b dst.elemBytes).all fun x => c.hostOwns e ent.id (x / 64))

/-- The elements of a movement that it reaches now, from the first not done: up to one whose block an earlier slug holds (R95), or whose
bytes are still on their way. -/
def moveUpto (c : Chip) (e : Nat) (ent : QEntry) (src : Option TD) (dst : TD) (perm : List Nat → List Nat) (total : Nat) (all : Bool) : Nat :=
  let free := (c.engine e).reach e ent (ent.moveUsesAt e) (total - ent.prog.done0) ent.prog.done0
  if all then free
  else
    let ext := match src with | some t => t.ext | none => dst.ext
    let has (i : Nat) : Bool :=
      let cs := coordsOf ext i
      c.moveHas e ent src dst (match src with | some t => t.addr cs | none => 0) (dst.addr (perm cs))
    match ((List.range (free - ent.prog.done0)).map (ent.prog.done0 + ·)).find? fun i => !has i with
    | some i => i
    | none => free

/-- A COPY, COPY_T or SET once checked: gather, then write the elements in order as far as they are reached (R94, R95, R172). -/
def moveRun (c : Chip) (e : Nat) (ent : QEntry) (src : Option TD) (dst : TD) (perm : List Nat → List Nat) : Chip :=
  let ext := match src with | some t => t.ext | none => dst.ext
  if ent.prog.phase = 1 then c.moveAwait e ent dst perm ext
  else
    let total := ext.foldl (· * ·) 1
    let walk (ent : QEntry) (c : Chip) (all : Bool) : Chip :=
      let upto := c.moveUpto e ent src dst perm total all
      let is := (List.range (upto - ent.prog.done0)).map (ent.prog.done0 + ·)
      moveFinish e ent dst perm ext upto total (match src with
        | some t => moveElems e ent t dst perm is c []
        | none => setElems e ent dst is c [])
    match c.gather e .move ent src.toList [dst] 256 e with
    | (.failed st, ent1, c1) => c1.moveAwait e { ent1 with prog := { ent1.prog with phase := 1, drain := some st } } dst perm ext
    | (.waiting, ent1, c1) => walk ent1 c1 false
    | (.ready, ent1, c1) => walk ent1 c1 true

/-- A MOVE COPY (R172). -/
def moveCopy (c : Chip) (e : Nat) (ent : QEntry) : Chip :=
  match checkCopy c.selfId ent with
  | .error st => c.begin e .move ent (.error st) id
  | .ok (src, dst) => c.begin e .move ent (.ok ()) fun c => c.moveRun e ent (some src) dst id

/-- A COPY_T (R94). -/
def moveCopyT (c : Chip) (e : Nat) (ent : QEntry) : Chip :=
  match checkCopyT c.selfId e ent with
  | .error st => c.begin e .move ent (.error st) id
  | .ok (src, dst) => c.begin e .move ent (.ok ()) fun c => c.moveRun e ent (some src) dst swap2

/-- A SET (R172). -/
def moveSet (c : Chip) (e : Nat) (ent : QEntry) : Chip :=
  match checkSet ent with
  | .error st => c.begin e .move ent (.error st) id
  | .ok dst => c.begin e .move ent (.ok ()) fun c => c.moveRun e ent none dst id

/-! ### PREFETCH (R203, R204) -/

/-- Install a prefetched line, replacing a copy the engine already holds under the same name (R202, R203). -/
def installPrefetched (c : Chip) (e : Nat) (ent : QEntry) (td : TD) (space addr : Nat) (data : BitVec 1024) (st : PLState) : Chip :=
  let same (l : PLine) : Bool := l.space.toNat == space && l.addr == addr
  let old := (c.engine e).cache.find? same
  let c0 := c.onEngine e fun x => x.mapCache fun l => if same l then none else some l
  let c0 := match old with | some o => c0.lineLeft e o | none => c0
  let (x1, out) := (c0.engine e).install ent td.id td.streaming space addr data st
  let c1 := c0.setEngine e x1
  match out with
  | some o => c1.lineLeft e o
  | none => c1

/-- The state in which a PREFETCH fills a line. -/
def prefetchState (ent : QEntry) : PLState := if moveTracked ent.slug then .tracked else .snapshot

def dropPrefetch (c : Chip) (e : Nat) : Chip :=
  c.onEngine e fun x => { x with cnt := { x.cnt with dropped := bump48 x.cnt.dropped 1 } }

/-- A line of this device's HBM: registered in its home directory when TRACKED, and in no entry when SNAPSHOT (R203). Lines of
operand buffers and platen scratch are never cached (R198); other lines are dropped and counted (R204). -/
def prefetchOwn (c : Chip) (e : Nat) (ent : QEntry) (td : TD) (space addr lcl : Nat) : Chip :=
  match placeOf lcl with
  | .hbm _ =>
    if (c.engine e).sets = 0 || (space = 0 && addr != lcl) || (c.accessError (e / 16) lcl).isSome then c.dropPrefetch e
    else match c.ueAt (addrRange lcl 128) with
      | some a => (c.ueEvent a).dropPrefetch e
      | none =>
        let c1 := ((c.installPrefetched e ent td space addr (c.memLine lcl) (prefetchState ent)).countRead (e / 16) lcl 128).bankIssue e lcl
        if moveTracked ent.slug then c1.dirRegister e (lcl / 128) else c1
  | _ => if c.mapped lcl && space = 0 then c else c.dropPrefetch e

/-- The 128-byte lines that a TD's elements lie in, in rising order. -/
def sourceLines (td : TD) : List Nat :=
  sortAddrs ((((List.range td.count).map fun i => td.rawAddr (coordsOf td.ext i)).flatMap fun a => [a, a + td.elemBytes - 1]).map fun a => a / 128 * 128)

/-- A line is on this device. -/
def ownLine (c : Chip) (td : TD) (a : Nat) : Bool :=
  match td.space with
  | .lcl => true
  | .broadsheet => a >>> 48 == c.fab.deviceId && c.fab.idValid
  | .host => false

/-- Lines whose requests one batch of a PREFETCH holds: with two requests each at most, no more than are free, and no more than bring the
engine's requests at HBM banks and this batch to 128 slots (R204, R209). -/
def prefetchBatch (c : Chip) (e : Nat) : Nat :=
  min (c.slotRoom e) (128 - ((c.engine e).banks.map fun b => b.2.queued + b.2.held + b.2.late).sum) / 2

/-- Issue the reads of one batch of remote lines, for a TRACKED line after its WATCH, so that no write passes unseen (R203). -/
def prefetchIssue (c : Chip) (e : Nat) (ent : QEntry) (td : TD) (lines : List Nat) : Chip :=
  lines.foldl (fun c a =>
    match td.space with
    | .host =>
      if p2 52 ≤ a then c
      else [a / 64, a / 64 + 1].foldl (fun c l =>
        if c.hostHolds l .rdShared then c.hostTouch [l]
        else c.askHost e ent.id l .rdShared) c
    | _ =>
      let c1 := if moveTracked ent.slug then
          c.request e ent.id 2 (a >>> 48) { opcode := opWatch, dst := a >>> 48, addr := a % p2 48, unit := e, arg := 1 } []
        else c
      c1.request e ent.id 0 (a >>> 48) { opcode := opRead, dst := a >>> 48, addr := a % p2 48, unit := e, lenW := 32 } []) c

/-- A slug's request of one key at one address, once it has its answer. -/
def answerAt (c : Chip) (e id key a : Nat) : Option FabReq :=
  c.fab.reqs.find? fun r => r.engine == e && r.entry == id && r.key == key && r.answer.isSome &&
    fld r.thdr 31 16 == a >>> 48 && fld r.thdr 111 64 == a % p2 48

/-- The two host lines of a platen line, as the host line cache holds them or as answered; none where one is poisoned, unread, or holds
an uncorrectable error (R204). -/
def hostPair (c : Chip) (e id a : Nat) : Option (List Byte) :=
  let one (l : Nat) : Option (List Byte) :=
    match Tab.find? l c.host.lines, c.host.reqs.find? fun r => r.engine == e && r.entry == id && r.line == l with
    | some h, _ => if h.ue then none else some (toBytes 64 h.data.toNat)
    | none, some r => (match r.answer with
      | some (d, false) => some (toBytes 64 d.toNat)
      | _ => none)
    | none, none => none
  match one (a / 64), one (a / 64 + 1) with
  | some x, some y => some (x ++ y)
  | _, _ => none

/-- What a request of a PREFETCH has read lies before a fence that has completed since (R205). -/
def fenced (c : Chip) (e id a : Nat) : Bool :=
  c.host.reqs.any fun r => r.engine == e && r.entry == id && (r.line == a / 64 || r.line == a / 64 + 1) && r.stale

/-- Install what one batch has brought (R203, R204): a TRACKED line whose source has been written since it was read is installed
TRACKED_INVALID, so that its next read refetches it; a SNAPSHOT line that was read before a fence which has completed since serves no
read after it, and is left out (R205). -/
def prefetchTake (c : Chip) (e : Nat) (ent : QEntry) (td : TD) (lines : List Nat) : Chip :=
  let tracked := moveTracked ent.slug
  lines.foldl (fun c a =>
    match td.space with
    | .host =>
      (match c.hostPair e ent.id a with
      | some bs =>
        if !tracked && c.fenced e ent.id a then c
        else
        let live := !tracked || (c.hostHolds (a / 64) .rdShared && c.hostHolds (a / 64 + 1) .rdShared)
        c.installPrefetched e ent td 2 a (BitVec.ofNat 1024 (ofBytes bs)) (if live then prefetchState ent else .trackedInvalid)
      | none => (c.noteHlc [a / 64, a / 64 + 1]).dropPrefetch e)
    | _ =>
      match c.answerAt e ent.id 0 a with
      | none => c.dropPrefetch e
      | some r =>
        match r.answer, tracked, c.answerAt e ent.id 2 a with
        | some (.success, bs), false, _ => if r.stale then c else c.installPrefetched e ent td 1 a (BitVec.ofNat 1024 (ofBytes bs)) .snapshot
        | some (.success, bs), true, some w =>
          if w.ended = some .success then
            c.installPrefetched e ent td 1 a (BitVec.ofNat 1024 (ofBytes bs)) (if r.stale || w.stale then .trackedInvalid else .tracked)
          else if w.ended = some .addrRefused then
            c.onEngine e fun x => { x with cnt := { x.cnt with trackRefused := bump48 x.cnt.trackRefused 1 } }
          else c.dropPrefetch e
        | _, _, _ => c.dropPrefetch e) c

/-- The next batch of a PREFETCH's lines: its own lines are installed at once, and the reads of the others go out; `done1` remembers how many
lines it holds. With no cache part every line is dropped (R204). -/
def prefetchNext (c : Chip) (e : Nat) (ent : QEntry) (td : TD) (lines : List Nat) (done : Nat) : Chip :=
  let n := min (lines.length - done) (c.prefetchBatch e)
  let batch := (lines.drop done).take n
  let far := batch.filter fun a => !c.ownLine td a
  let c1 := (batch.filter (c.ownLine td)).foldl (fun c a => c.prefetchOwn e ent td td.space.code a (a % p2 48)) c
  if (c.engine e).sets = 0 then (((lines.drop done).filter fun a => !c.ownLine td a).foldl (fun c _ => c.dropPrefetch e)
      (((lines.drop done).filter (c.ownLine td)).foldl (fun c a => c.prefetchOwn e ent td td.space.code a (a % p2 48)) c)).endSlug e .move ent .success 0
  else if far.isEmpty && lines.length ≤ done + n then c1.endSlug e .move ent .success 0
  else (c1.prefetchIssue e ent td far).updEntry e .move { ent with prog := { ent.prog with phase := 1, done0 := done, done1 := n } }

/-- A PREFETCH goes on, batch by batch. It never faults (R204). `phase` 0: nothing done; 1: a batch of `done1` lines is outstanding, `done0`
lines being finished with. -/
def prefetchRun (c : Chip) (e : Nat) (ent : QEntry) (td : TD) : Chip :=
  let lines := sourceLines td
  let waiting := c.fabWaiting e ent.id || c.host.reqs.any fun r => r.engine == e && r.entry == ent.id && r.answer.isNone
  if ent.prog.phase = 0 then
    if td.barred then (lines.foldl (fun c _ => c.dropPrefetch e) c).endSlug e .move ent .success 0
    else c.prefetchNext e ent td lines 0
  else if waiting then c
  else
    let batch := ((lines.drop ent.prog.done0).take ent.prog.done1).filter fun a => !c.ownLine td a
    let c1 := (c.prefetchTake e ent td batch).clearRemote e ent.id
    let done := ent.prog.done0 + ent.prog.done1
    if lines.length ≤ done then c1.endSlug e .move ent .success 0 else c1.prefetchNext e ent td lines done

def movePrefetch (c : Chip) (e : Nat) (ent : QEntry) : Chip :=
  match checkPrefetch ent with
  | .error st => c.begin e .move ent (.error st) id
  | .ok td => c.begin e .move ent (.ok ()) fun c => c.prefetchRun e ent td

end Chip

/-- A MOVE slug of an operation, or one of a reserved operation, which any row of the class rejects. -/
def isMove (op : Nat) (s : SlugWord) : Bool := slugClass s == 0 && (slugOp s == op || decide (3 < slugOp s))

end Sys2Proof.Machine
end

