-- ==== Sys2Proof/Machine/Matrix.lean ====
section
/-!
DEFINITION. The matrix array (chapter 4): the MATMUL and MATMUL_BWD_PAIR slugs, their checks, tiles, output modes and masks, and
the galley as the array fills it.
-/
namespace Sys2Proof.Machine

/-- First address of accumulator slot `s` of engine `e` (R97). -/
def slotAddr (e s : Nat) : Nat := bufferOf e + 0x400000 + s * 0x1000

/-- The code of a storage format (R41). -/
def Fmt.code : Fmt → Nat
  | .fp32 => 0 | .bf16 => 1 | .fp16 => 2 | .e4m3 => 3 | .e5m2 => 4 | .int8 => 5 | .int4 => 6 | .int32 => 7

/-- FORMAT_ILLEGAL of R115. -/
def Product.formatBad (p : Product) : Bool :=
  (groupRate p.fa p.fb).isNone || ((p.sat || p.ks2) && !p.isInt) || ((p.pass != 0) != p.isSplit) ||
  p.a.fmt.code != (if p.fa = 8 then 0 else p.fa) || p.b.fmt.code != (if p.fb = 8 then 0 else p.fb) ||
  (p.rmask.any fun t => t.fmt != .int8) || (p.cmask.any fun t => t.fmt != .int8)

/-- SHAPE_ILLEGAL of R115. A STORE destination of another shape than the output is given the same status (DESIGN CHOICE, log entry 77); a mask
whose further extents are 1 is one-dimensional (DESIGN CHOICE, log entry 103). -/
def Product.shapeBad (p : Product) : Bool :=
  !p.a.twoDim || !p.b.twoDim || p.a.ext.headD 0 != p.b.ext.getD 1 1 ||
  (p.dst.any fun t => !t.twoDim || t.ext.take 2 != [p.n, p.m]) ||
  (p.rmask.any fun t => t.ext.headD 0 != p.m || !t.ext.tail.all (· == 1)) ||
  (p.cmask.any fun t => t.ext.headD 0 != p.n || !t.ext.tail.all (· == 1))

/-- PLACE_ILLEGAL of R115. -/
def Product.placeBad (e : Nat) (p : Product) : Bool :=
  !p.a.operandPlace e || !p.b.operandPlace e || p.dst.isSome != (p.out == 1) ||
  ((p.out == 0 || p.out == 3) && p.hasMask) ||
  ([p.dst, p.rmask, p.cmask].any fun t => t.any fun t => t.space != .lcl)

/-- ACC_RANGE of R115 for one product. -/
def Product.accBad (p : Product) : Bool :=
  decide (255 < p.base + p.count) || ((p.out == 0 || p.cont) && decide (p.count + 1 < p.tiles))

/-- The slot ranges of two products meet (R106). -/
def slotsMeet (p q : Product) : Bool := decide (p.base ≤ q.base + q.count ∧ q.base ≤ p.base + p.count)

/-- Some byte of a TD's elements is at an unmapped LOCAL address. -/
def Chip.tdUnmapped (c : Chip) (t : TD) : Bool :=
  t.addrs.any fun a => (addrRange a t.elemBytes).any fun b => !c.mapped b

/-- The checks of R115, in the order of its table. DEDUCED, log entry 45. -/
def checkMatrix (c : Chip) (e : Nat) (ent : QEntry) : Except Status (List Product) := do
  let s := ent.slug
  failIf (decide (1 < slugOp s) || (if slugOp s = 0 then !rsvdZero s [(150, 362)] else !rsvdZero s [(193, 319)])) .reservedEncoding
  failIf (decide (8 < fld s 71 68 ∨ 8 < fld s 75 72) || (slugOp s == 1 && decide (8 < fld s 79 76))) .reservedEncoding
  let ps ← matrixProducts ent
  failIf (ps.any Product.formatBad) .formatIllegal
  failIf (ps.any Product.shapeBad || (match ps with | [x, w] => x.b.ext.headD 0 != w.a.ext.getD 1 1 | _ => false)) .shapeIllegal
  failIf (ps.any (Product.placeBad e)) .placeIllegal
  let ops := ps.flatMap fun p => [p.a, p.b]
  failIf (ps.any fun p => p.dst.any fun d => ops.any (d.overlaps c.selfId)) .operandOverlap
  failIf (ps.any Product.accBad || (match ps with | [p, q] => slotsMeet p q | _ => false)) .accRange
  failIf (ps.any fun p => [p.rmask, p.cmask].any fun t => t.any c.tdUnmapped) .addrUnmapped
  failIf (ps.any fun p => !p.hasMask && p.dst.any c.tdUnmapped) .addrUnmapped
  return ps

/-! ### One tile -/

/-- Raw bits of a TD's element as they are read from LOCAL memory, unchecked. -/
def Chip.rawAt (c : Chip) (t : TD) (cs : List Nat) : Nat :=
  let v := c.seenWord (t.addr cs) t.elemBytes
  if t.fmt = .int4 then (if t.high cs then v / 16 else v % 16) else v

/-- One accumulator after the first `groups` groups of row `m` of A and column `n` of B (R75, R80, R82, R103). -/
def Chip.cellValue (c : Chip) (p : Product) (acc : W32) (m n groups : Nat) : W32 :=
  let ks := List.range (min p.k (32 * groups))
  if p.isInt then
    dotReferenceInt p.sat acc (ks.map fun k =>
      some (signedOf p.a.fmt.width (c.rawAt p.a [k, m]) * signedOf p.b.fmt.width (c.rawAt p.b [n, k])))
  else if p.isSplit then
    dotSplit p.pass acc (ks.map fun k => (BitVec.ofNat 32 (c.rawAt p.a [k, m]), BitVec.ofNat 32 (c.rawAt p.b [n, k])))
  else
    dotReference acc (ks.map fun k =>
      some (FVal.mul (p.a.fmt.decode (c.rawAt p.a [k, m])) (p.b.fmt.decode (c.rawAt p.b [n, k]))))

/-- The starting accumulator of cell `(i, j)` (R98). A NaN in the slot is read canonical (R46), and so is what a tile of K = 0 writes back
(DESIGN CHOICE, log entry 78). -/
def Chip.cellStart (c : Chip) (e : Nat) (p : Product) (t i j : Nat) : W32 :=
  if p.cont then
    let w := BitVec.ofNat 32 (c.mem.read (slotAddr e (p.slotOf t) + 4 * (32 * i + j)) 4)
    if p.isInt then w else quietF w
  else 0#32

/-- The 1,024 values of tile `t` after `groups` groups; cells outside the output hold +0 (R100). -/
def Chip.tileValues (c : Chip) (e : Nat) (p : Product) (t groups : Nat) : List W32 :=
  let (ti, tj) := p.tileAt t
  (List.range 1024).map fun q =>
    let i := q / 32
    let j := q % 32
    if i < p.validRows ti ∧ j < p.validCols tj then c.cellValue p (c.cellStart e p t i j) (32 * ti + i) (32 * tj + j) groups else 0#32

/-- The first double-bit error that the strokes of a tile read: the group that meets it, and its address (R116). -/
def Chip.badRead (c : Chip) (p : Product) (ti tj : Nat) : Option (Nat × Nat) :=
  if c.ue.isEmpty then none
  else (List.range p.k).findSome? fun k =>
    (((List.range (p.validRows ti)).findSome? fun i => c.ueAt (addrRange (p.a.addr [k, 32 * ti + i]) p.a.elemBytes)).orElse fun _ =>
      (List.range (p.validCols tj)).findSome? fun j => c.ueAt (addrRange (p.b.addr [32 * tj + j, k]) p.b.elemBytes)).map fun a => (k / 32, a)

/-- 32 mask bits of a tile from a mask TD (R108, R109). -/
def Chip.maskBits (c : Chip) (e : Nat) (t : Option TD) (base count : Nat) : Except Status (BitVec 32) × Chip :=
  match t with
  | none => (.ok (BitVec.allOnes 32), c)
  | some td =>
    let as := (List.range count).map fun i => td.addr [base + i]
    match c.readLocal (e / 16) as with
    | .ok bs => (.ok (BitVec.ofNat 32 (bs.zipIdx.foldl (fun acc (b, i) => if b = 0 then acc else acc + p2 i) 0)), c)
    | .error st => (.error st, match c.ueAt as with | some a => c.ueEvent a | none => c)

/-- Write a tile's values to its slot (R97 to R99). -/
def Chip.writeSlot (c : Chip) (e s : Nat) (vals : List W32) : Chip :=
  (c.storeLocal (some e) (cellsAt (slotAddr e s) (vals.flatMap fun v => toBytes 4 v.toNat))).1

/-- The element writes that STORE makes of a tile: valid, selected elements in row order (R99, R100, R108). -/
def storeTile (ent : QEntry) (p : Product) (d : TD) (ti tj : Nat) (rm cm : BitVec 32) (vals : List W32) : List Chip.EWrite :=
  (List.range (p.validRows ti * p.validCols tj)).filterMap fun q =>
    let i := q / p.validCols tj
    let j := q % p.validCols tj
    if rm.getLsbD i && cm.getLsbD j then
      let cs := [32 * tj + j, 32 * ti + i]
      let v := CVal.ofBits p.isInt (vals.getD (32 * i + j) 0)
      some { addr := d.addr cs, fmt := d.fmt, high := d.high cs,
             bits := storeElem d.fmt (Chip.ctlOf ent d (indexOf d.ext cs)) (if d.scaleEn then some d.scale else none) p.ks2 v }
    else none

/-- The strokes counter that a product's tiles advance (R501). -/
def bumpStrokes (p : Product) (k : EngCnt) : EngCnt :=
  if p.isSplit then { k with strokesSplit := bump48 k.strokesSplit p.strokes }
  else if p.isInt then { k with strokesInt := bump48 k.strokesInt p.strokes }
  else if groupRate p.fa p.fb = some 2 then { k with strokes8 := bump48 k.strokes8 p.strokes }
  else { k with strokes16 := bump48 k.strokes16 p.strokes }

namespace Chip

/-- Some of the element writes of an operation that a fault cut short: each write that could still be made is made or not, as a
free value decides, for an element then holds its old or its new value (R116, R152). The proofreader counts those made (R233). DEDUCED, log
entry 45. -/
def tornWrites (c : Chip) (e layer : Nat) (td : TD) (ws : List EWrite) : Chip :=
  let (n, c1) := c.fresh
  let some_ := ws.zipIdx.filter fun (w, i) =>
    (Config.freeByte n i).getLsbD 0 && (c.destError e td w.addr).isNone && (c.ueAt (addrRange w.addr td.elemBytes)).isNone
  (c1.storeLocal (some e) (cellsOf c.mem.get (some_.map (·.1)))).1.countStores e layer (some_.map (·.1))

/-- What one tile's turn answers. -/
inductive TileEnd
  | left
  | waits
  | fault (st : Status)
  deriving DecidableEq, Repr

/-- The tag and values that a tile carries into the galley (R110). -/
def galleyEntry (ent : QEntry) (p : Product) (t : Nat) (rm cm : BitVec 32) (vals : List W32) : GEntry :=
  let (ti, tj) := p.tileAt t
  { seq := BitVec.ofNat 16 (slugSeq ent.slug), product := p.num, row := ti % 1024, col := tj % 1024, vrows := p.validRows ti,
    vcols := p.validCols tj, rmask := rm, cmask := cm, int := p.isInt, last := t + 1 == p.tiles, abort := false, vals }

/-- The galley can take a tile's entry (R111): those of earlier slugs have their place before it (R112). -/
def galleyFree (x : Engine) (ent : QEntry) : Bool := !(x.aborts.any fun p => decide (p.1 < ent.id)) && decide (x.galley.length < 16)

/-- Tile `t` of a product: masks, destination check, strokes and delivery (R99, R108, R109, R111, R115, R116). Under CONTINUE every word of
the slot is read, and an error in any of them ends the slug (DESIGN CHOICE, log entry 79). The galley entry is reserved before the tile's masks
are read (DESIGN CHOICE, log entry 104). -/
def runTile (c : Chip) (e : Nat) (ent : QEntry) (p : Product) (t : Nat) : TileEnd × Chip :=
  let (ti, tj) := p.tileAt t
  if p.out = 2 ∧ !galleyFree (c.engine e) ent then (.waits, c.onEngine e fun x => { x with galleyWait := true })
  else
    match c.maskBits e p.rmask (32 * ti) (p.validRows ti) with
    | (.error st, c1) => (.fault st, c1)
    | (.ok rm, c1) =>
    match c1.maskBits e p.cmask (32 * tj) (p.validCols tj) with
    | (.error st, c2) => (.fault st, c2)
    | (.ok cm, c2) =>
    let probe := match p.dst with
      | some d => if p.hasMask then (storeTile ent p d ti tj rm cm []).findSome? fun w =>
          if (addrRange w.addr d.elemBytes).any fun b => !c2.mapped b then some Status.addrUnmapped else none
        else none
      | none => none
    match probe with
    | some st => (.fault st, c2)
    | none =>
    let slotBytes := addrRange (slotAddr e (p.slotOf t)) 4096
    match (if p.cont then c2.ueAt slotBytes else none) with
    | some a => (.fault .bufferUe, c2.ueEvent a)
    | none =>
    let bad := c2.badRead p ti tj
    let good := match bad with
      | some (g, _) => g
      | none => (p.k + 31) / 32
    let vals := c2.tileValues e p t good
    let c3 := (c2.writeSlot e (p.slotOf t) vals).onEngine e fun x => { x with galleyWait := false, cnt := bumpStrokes p x.cnt }
    match bad with
    | some (_, a) => (.fault .bufferUe, c3.ueEvent a)
    | none =>
      match p.out, p.dst with
      | 2, _ => (.left, c3.onEngine e fun x => { x with galley := x.galley ++ [galleyEntry ent p t rm cm vals] })
      | 1, some d =>
        let ws := storeTile ent p d ti tj rm cm vals
        (match c3.storeElems e ent d 256 e ws with
        | (.ok (), c4) => (.left, c4.countStores e ent.layer ws)
        | (.error st, c4) => (.fault st, c4.tornWrites e ent.layer d ws))
      | _, _ => (.left, c3)

/-- DETAIL of a matrix slug (R180). -/
def matrixDetail (d0 d1 : Nat) : Nat := d0 % p2 24 + (d1 % p2 24) <<< 24

/-- Tiles one after another until the slug ends, or the array waits for the galley or for a block or slot that the tile reaches (R95, R101,
R107, R113, R116). -/
def runTiles (e : Nat) (ent : QEntry) (ps : List Product) : Nat → Nat → Nat → Chip → Chip
  | 0, _, _, c => c
  | fuel + 1, d0, d1, c =>
    match nextProduct ps d0 d1 with
    | none => c.endSlug e .matrix ent .success (matrixDetail d0 d1)
    | some (p, t) =>
      let wait : QEntry := { ent with prog := { ent.prog with phase := 1, done0 := d0, done1 := d1 } }
      if (c.engine e).blockedAt e ent (p.tileUses e t) then c.updEntry e .matrix wait
      else match c.runTile e ent p t with
      | (.left, c1) => if p.num = 0 then runTiles e ent ps fuel (d0 + 1) d1 c1 else runTiles e ent ps fuel d0 (d1 + 1) c1
      | (.waits, c1) => c1.updEntry e .matrix wait
      | (.fault st, c1) => c1.endSlug e .matrix wait st (matrixDetail d0 d1)

/-- A matrix slug runs, or goes on after a wait; its checks are made once, before its first stroke (R115). -/
def matrixRun (c : Chip) (e : Nat) (ent : QEntry) : Chip :=
  let go (ps : List Product) (c : Chip) : Chip :=
    runTiles e ent ps ((ps.map Product.tiles).sum + 1) ent.prog.done0 ent.prog.done1 c
  if ent.prog.phase = 1 then
    match matrixProducts ent with
    | .ok ps => go ps c
    | .error st => c.endSlug e .matrix ent st 0
  else
    match checkMatrix c e ent with
    | .error st => c.begin e .matrix ent (.error st) id
    | .ok ps => c.begin e .matrix ent (.ok ()) (go ps)

/-- A freed entry lets an array that waits under GALLEY_FULL go on (R111). -/
def galleyFreed (c : Chip) (e : Nat) : Chip :=
  let c1 := c.onEngine e fun x => x.publishAborts x.aborts.length
  if (c1.engine e).galleyWait then c1.runHead e .matrix none (fun s => slugClass s == 1) fun c ent => c.matrixRun e ent else c1

/-- The array has waited 2^24 ticks and nothing was freed (R114). -/
def galleyStuck (c : Chip) (e : Nat) : Chip :=
  if (c.engine e).arrayWaits then c.unitError evGalleyStuck .fatalEngine e (.engine e) none [] else c

end Chip

/-- A MATRIX slug of an operation, or one of a reserved operation, which either row of the class rejects. -/
def isMatrix (op : Nat) (s : SlugWord) : Bool := slugClass s == 1 && (slugOp s == op || decide (1 < slugOp s))

end Sys2Proof.Machine
end

