-- ==== Sys2Proof/Machine/Vector.lean ====
section
/-!
DEFINITION. Vector slugs (chapter 5): their fields, checks and types, the walk of a tensor, reductions, dropout, and consuming
the galley.
-/
namespace Sys2Proof.Machine

/-- A source of a vector operation (R127). -/
inductive VSrc
  | td (t : TD)
  | word (w : W32)
  | galley
  deriving DecidableEq, Repr

/-- A vector slug read into its fields (R124, R169). -/
structure VSlug where
  op     : VOp
  chain  : List (VOp × Nat)      -- with the register of a binary operation
  srcs   : List VSrc             -- the operands that OP takes
  dst    : Option TD
  regDst : Option Nat
  dst2   : Option TD
  mask   : Option TD
  redDim : Nat
  sat    : Bool
  ks2    : Bool
  seq    : Nat
  prods  : Nat
  drop   : Nat
  stage  : Nat
  blocks : Nat
  imm0   : W32
  imm1   : W32
  deriving DecidableEq, Repr

/-- Lane 0 of a register. -/
def Engine.lane0 (x : Engine) (r : Nat) : W32 := Tab.get 0 x.vregs (128 * r)

/-- A register set from lane 0 upward, every other lane zero (R128). -/
def Engine.setReg (x : Engine) (r : Nat) (vals : List W32) : Engine :=
  let rest := x.vregs.filter fun (k, _) => k / 128 != r
  { x with vregs := vals.zipIdx.foldl (fun t (v, i) => if v = 0 then t else Tab.set (128 * r + i) v t) rest,
           vregUe := x.vregUe.filter fun k => k / 64 != r }

/-- The chain up to its first NONE; none of a reserved encoding (R125). -/
def readChain : List (Nat × Nat) → Option (List (VOp × Nat))
  | [] => some []
  | (code, reg) :: rest =>
    if code = 0 then (if reg = 0 ∧ rest.all (fun p => p.1 == 0 && p.2 == 0) then some [] else none)
    else match VOp.ofCode code with
      | none => none
      | some op =>
        if !op.chainable || (op.arity != 2 && reg != 0) then none
        else (readChain rest).map fun t => (op, reg) :: t

/-- Kinds of the operands that the operation takes. -/
def kindOf (s : SlugWord) (i : Nat) : Nat := match i with | 0 => fld s 112 111 | 1 => fld s 114 113 | _ => fld s 116 115
def srcField (s : SlugWord) (i : Nat) : Nat := match i with | 0 => fld s 126 117 | 1 => fld s 136 127 | _ => fld s 146 137

/-- One operand read. A null TD is PLACE_ILLEGAL, as is a null DST of a slug without a GALLEY source (DESIGN CHOICE, log entry 80). -/
def readSrc (x : Engine) (ent : QEntry) (i : Nat) : Except Status VSrc :=
  let s := ent.slug
  match kindOf s i with
  | 0 => (ent.tdReq (srcField s i)).map .td
  | 1 => .ok (.word (x.lane0 (srcField s i)))
  | 2 => .ok (.word (BitVec.ofNat 32 (if i = 2 then fld s 319 288 else fld s 287 256)))
  | _ => if i = 0 then .ok .galley else .error .placeIllegal

/-- The fields of a vector slug, or the reserved encoding or unusable TD that rejects it (R6, R124, R125, R164, R169, R533). A null or
unusable TD of an operand and GALLEY as `b` or `c` reject before the formats and the shapes are tested (DESIGN CHOICE, log entry 109). -/
def readVector (x : Engine) (ent : QEntry) : Except Status VSlug := do
  let s := ent.slug
  failIf (!rsvdZero s [(230, 26), (320, 192)] || fld s 180 178 == 6) .reservedEncoding
  match VOp.ofCode (fld s 71 64), readChain [(fld s 79 72, fld s 100 96), (fld s 87 80, fld s 105 101), (fld s 95 88, fld s 110 106)] with
  | some op, some chain =>
    let used := List.range op.arity
    failIf ((used.any fun i => kindOf s i == 1 && 32 ≤ srcField s i) || (bit s 147 && 32 ≤ fld s 157 148)) .reservedEncoding
    let srcs ← used.mapM (readSrc x ent)
    let dst ← if bit s 147 then .ok none else ent.td? (fld s 157 148)
    let dst2 ← ent.td? (fld s 167 158)
    let mask ← ent.td? (fld s 177 168)
    failIf (kindOf s 1 == 3 || kindOf s 2 == 3) .placeIllegal
    return { op, chain, srcs, dst, regDst := if bit s 147 then some (fld s 157 148) else none, dst2, mask, redDim := fld s 180 178,
             sat := bit s 181, ks2 := bit s 182, seq := fld s 198 183, prods := fld s 200 199, drop := fld s 216 201,
             stage := fld s 222 217, blocks := fld s 229 223, imm0 := BitVec.ofNat 32 (fld s 287 256), imm1 := BitVec.ofNat 32 (fld s 319 288) }
  | _, _ => .error .reservedEncoding

/-- Lane 0 of a register that an operand names holds an uncorrectable error (R152, R153). -/
def opUe (x : Engine) (s : SlugWord) (op : VOp) : Bool :=
  (((List.range op.arity).filter fun i => kindOf s i == 1).map (srcField s)).any fun r => x.vregUe.contains (64 * r)

/-- Lane 0 of a register that a chained operation names holds an uncorrectable error. -/
def chainUe (x : Engine) (chain : List (VOp × Nat)) : Bool :=
  ((chain.filter fun (o, _) => o.arity == 2).map (·.2)).any fun r => x.vregUe.contains (64 * r)

/-- The register word that output `i` of a summing reduction starts from holds an uncorrectable error (R133). -/
def startUe (x : Engine) (s : SlugWord) (op : VOp) (i : Nat) : Bool :=
  op.isSumRed && bit s 256 && bit s 147 && x.vregUe.contains (64 * fld s 157 148 + i / 2)

/-- The slug names a register word that holds an uncorrectable error: lane 0 of an operand, or a destination that a sum starts from. -/
def regUe (x : Engine) (s : SlugWord) (op : VOp) (chain : List (VOp × Nat)) : Bool :=
  opUe x s op || chainUe x chain || (List.range 128).any (startUe x s op)

namespace VSlug

def usesGalley (v : VSlug) : Bool := v.srcs.head? == some .galley
def tdSrcs (v : VSlug) : List TD := v.srcs.filterMap fun | .td t => some t | _ => none
/-- A summing reduction starts from its destination (R133). -/
def fromDst (v : VSlug) : Bool := v.op.isSumRed && v.imm0.getLsbD 0

/-- TD sources that decide the type of an F/I operation (R129). -/
def typed (v : VSlug) : List TD :=
  let ts := (if v.op = .select then v.srcs.tail else v.srcs).filterMap fun | .td t => some t | _ => none
  ts ++ (if v.fromDst then v.dst.toList else [])

/-- The slug may work in a type (R129, R66). -/
def typeOk (v : VSlug) (int : Bool) : Bool :=
  let primary := match v.op.ty with
    | .f => !int
    | .i => int
    | .fi => if v.typed.isEmpty && !v.usesGalley then (match v.dst with | some d => d.fmt.isInt == int | none => true) else true
  let chainOk := v.chain.foldl (fun (acc : Bool × Bool × Bool) (op, _) =>
    let (ok, t, fl) := acc
    (ok && (match op.ty with | .f => !t | .i => t | .fi => true), op.resultInt t, fl || !t)) (true, v.op.resultInt int, false)
  primary && v.typed.all (fun t => t.fmt.isInt == int) && chainOk.1 &&
    !(v.ks2 && (!int || chainOk.2.2 || v.tdSrcs.any fun t => !t.fmt.isInt))

/-- The type the slug works in when no entry decides it. -/
def fixedInt (v : VSlug) : Bool := !v.typeOk false

/-- Destinations of the products that a consumer takes (R126). -/
def prodDst (v : VSlug) (p : Nat) : Option TD := if p = 0 then v.dst else v.dst2

end VSlug

/-- A source's extents fit an iteration space (R127). -/
def TD.fits (t : TD) (ext : List Nat) : Bool := (t.ext.zip ext).all fun (e, n) => e == 1 || e == n

/-- Extents of a reduction's output (R133). -/
def redExt (a : TD) (dim : Nat) : List Nat := a.ext.set dim 1

/-- DST2 of the slug is the keep mask of DROPOUT, and not the destination of product 1 (R138). -/
def VSlug.keepMask (v : VSlug) : Option TD := if v.op = .dropout ∧ (!v.usesGalley || v.prods == 1) then v.dst2 else none

/-- SHAPE_ILLEGAL of R151 for a vector slug. A keep mask of another shape than DST is given it too (DESIGN CHOICE, log entry 82). -/
def VSlug.shapeBad (v : VSlug) : Bool :=
  let reads := v.tdSrcs ++ v.mask.toList
  if v.op.isReduction then
    match v.srcs.head? with
    | some (.td a) =>
      v.redDim == 7 || reads.any (fun t => !t.fits a.ext) ||
      (match v.regDst, v.dst with
       | some _, _ => decide (128 < (redExt a v.redDim).foldl (· * ·) 1)
       | none, some d => d.ext != redExt a v.redDim
       | none, none => false)
    | _ => v.redDim == 7
  else
    v.redDim != 7 ||
    (if v.usesGalley then [0, 1].any fun p => bit (BitVec.ofNat 2 v.prods) p && (v.prodDst p).any fun d => reads.any fun t => !t.fits d.ext
     else v.dst.any fun d => reads.any (fun t => !t.fits d.ext)) ||
    (v.dst.any fun d => v.keepMask.any fun k => k.ext != d.ext)

/-- PLACE_ILLEGAL of R151 for a vector slug. -/
def VSlug.placeBad (v : VSlug) : Bool :=
  let all := v.tdSrcs ++ v.mask.toList ++ v.dst.toList ++ v.dst2.toList
  all.any (fun t => t.space != .lcl) ||
  (if v.op.isReduction then
     (match v.srcs.head? with | some (.td _) => false | _ => true) || (v.regDst.isNone && v.dst.isNone)
   else if v.usesGalley then
     v.regDst.isSome || v.prods == 0 || [0, 1].any fun p => bit (BitVec.ofNat 2 v.prods) p && (v.prodDst p).isNone
   else v.regDst.isSome || v.dst.isNone)

/-- Destinations of the slug. -/
def VSlug.dsts (v : VSlug) : List TD := v.dst.toList ++ v.dst2.toList

/-- The checks of R151 in the order of its table. MASK counts as a source in the overlap check (DESIGN CHOICE, log entry 81). -/
def checkVector (own : Option Nat) (x : Engine) (ent : QEntry) : Except Status VSlug := do
  let v ← readVector x ent
  failIf ((!v.typeOk false && !v.typeOk true) || (v.mask.any fun t => t.fmt != .int8)) .formatIllegal
  failIf v.shapeBad .shapeIllegal
  failIf v.placeBad .placeIllegal
  failIf (v.dsts.any fun d => (v.tdSrcs ++ v.mask.toList).any fun s => d.conflicts own s) .operandOverlap
  failIf ((v.blocks != 0 && decide (64 < v.stage + v.blocks)) || (v.op.isReduction && v.redDim != 0 && decide (v.blocks < 4))) .stageRange
  return v

/-- The rows of an iteration space (R126): the elements of each, how many runs along dimension 0 they form, and the coordinates of its first
element. -/
def rowList (ext : List Nat) : List (Nat × Nat × List Nat) :=
  let e0 := ext.headD 0
  let e1 := ext.getD 1 1
  if e0 = 16 ∨ e0 = 32 ∨ e0 = 64 then
    let per := 128 / e0
    (List.range ((ext.drop 2).foldl (· * ·) 1)).flatMap fun o => (List.range ((e1 + per - 1) / per)).map fun k =>
      let r := min per (e1 - k * per)
      (r * e0, r, 0 :: k * per :: coordsOf (ext.drop 2) o)
  else (List.range (ext.tail.foldl (· * ·) 1)).flatMap fun o => (List.range ((e0 + 127) / 128)).map fun k =>
    (min 128 (e0 - 128 * k), 1, 128 * k :: coordsOf ext.tail o)

/-- Storage bytes that a row of `n` elements in `r` runs takes of a TD, whose extents of 1 broadcast (R122, R127). -/
def TD.rowBytes (t : TD) (n r : Nat) : Nat :=
  ((if t.ext.headD 0 = 1 then 1 else n / r) * (if t.ext.getD 1 1 = 1 then 1 else r) * t.fmt.width + 7) / 8

/-- Steps per row of an operation (R121). -/
def VOp.cost : VOp → Nat
  | .div | .recip | .sqrt | .rsqrt | .exp | .log | .tanh | .sigmoid | .gelu | .silu => 2
  | _ => 1

def VSlug.chainCost (v : VSlug) : Nat := (v.chain.map fun (o, _) => o.cost).sum

/-- Steps of a row: the largest of its operation cost, its read bytes by 1 KiB and its write bytes by 512 (R122). -/
def rowSteps (ops : Nat) (reads writes : List TD) (n r : Nat) : Nat :=
  let bytes (ts : List TD) : Nat := (ts.map fun t => t.rowBytes n r).sum
  max ops (max ((bytes reads + 1023) / 1024) ((bytes writes + 511) / 512))

/-- Steps of a row of an elementwise slug or of a tile (R121). -/
def VSlug.rowCost (v : VSlug) (dsts : List TD) (n r : Nat) : Nat :=
  rowSteps (v.op.cost + v.chainCost) (v.tdSrcs ++ v.mask.toList) dsts n r

/-- Steps of a walk over an iteration space. -/
def VSlug.walkCost (v : VSlug) (dsts : List TD) (ext : List Nat) : Nat := ((rowList ext).map fun (n, r, _) => v.rowCost dsts n r).sum

/-- Steps of a reduction: each row of its source takes a reduction step. The row that begins an output reads the destination which the sum
starts from, and the row that ends one runs the chain and writes it (R121, R122, R125, R133). -/
def VSlug.redCost (v : VSlug) (a : TD) : Nat :=
  ((rowList a.ext).map fun (n, r, cs) =>
    let pos := cs.getD v.redDim 0
    let span := if v.redDim = 0 then n / r else if v.redDim = 1 then r else 1
    let ends := decide (a.ext.getD v.redDim 1 ≤ pos + span)
    rowSteps ((if v.redDim = 0 then 1 else 2) + if ends then v.chainCost else 0)
      (v.tdSrcs ++ v.mask.toList ++ if v.fromDst && pos == 0 then v.dst.toList else []) (if ends then v.dst.toList else []) n r).sum

/-- The type in which a slug takes an entry: SELECT takes its `a` in either type beside TD operands of one class (R129). -/
def VSlug.entryInt (v : VSlug) (g : GEntry) : Bool := if v.op = .select ∧ !v.typed.isEmpty then v.fixedInt else g.int

/-- The slug may take an entry of this type. A KS2_COMPAT consumer does not take a floating-point entry: it ends with GALLEY_MISMATCH
(DESIGN CHOICE, log entry 83). -/
def VSlug.takes (v : VSlug) (g : GEntry) : Bool := v.typeOk (v.entryInt g) && !(v.ks2 && !g.int)

/-- What an element's turn gives: nothing for an inactive element, its writes, or the fault it meets. -/
abbrev ElemRes (α : Type) := Except Status (Option α)

namespace Chip

/-- An engine's cache holds a valid copy of the LOCAL HBM line of an address. -/
def lineHit (c : Chip) (e a : Nat) : Bool :=
  decide (a < hbmTop) && match (c.engine e).findLine 0 (a / 128 * 128) with
    | some l => l.state != .trackedInvalid
    | none => false

/-- Load an element for the vector engine: the 32-byte sectors it lies in are fetched whole, unless the cache holds them (R137, R198). -/
def vecLoad (c : Chip) (e : Nat) (ent : QEntry) (td : TD) (cs : List Nat) : Res CVal :=
  let a := td.addr cs
  let n := td.elemBytes
  let fetched := (addrRange (a / 32 * 32) ((a + n + 31) / 32 * 32 - a / 32 * 32)).filter fun b => !c.lineHit e b
  match (if c.ue.isEmpty || p2 48 ≤ a then none else c.ueAt fetched), (addrRange a n).findSome? (c.accessError (e / 16)) with
  | some u, none => (.error (ueStatus u), c.ueEvent u)
  | _, _ => c.loadAt e ent td cs

/-- The mask selects a position of the iteration space (R136). -/
def maskAt (c : Chip) (e : Nat) (ent : QEntry) (mask : Option TD) (cs : List Nat) : Res Bool :=
  match mask with
  | none => (.ok true, c)
  | some t =>
    match c.vecLoad e ent t (t.broadcast cs) with
    | (.ok v, c1) => (.ok (v.bits != 0), c1)
    | (.error st, c1) => (.error st, c1)

/-- Some position of a walk is active. -/
def anyActive (c : Chip) (e : Nat) (ent : QEntry) (mask : Option TD) (css : List (List Nat)) : Bool :=
  css.any fun cs => match (c.maskAt e ent mask cs).1 with | .ok b => b | .error _ => false

/-- One operand at a position; `g` is the galley's value. -/
def srcAt (c : Chip) (e : Nat) (ent : QEntry) (int : Bool) (cs : List Nat) (g : CVal) : VSrc → Res CVal
  | .td t => c.vecLoad e ent t (t.broadcast cs)
  | .word w => (.ok (CVal.ofBits int w), c)
  | .galley => (.ok g, c)

/-- The operands at a position, in order. -/
def srcsAt (c : Chip) (e : Nat) (ent : QEntry) (int : Bool) (cs : List Nat) (g : CVal) : List VSrc → Res (List CVal)
  | [] => (.ok [], c)
  | s :: ss =>
    match c.srcAt e ent int cs g s with
    | (.error st, c1) => (.error st, c1)
    | (.ok v, c1) =>
      match srcsAt c1 e ent int cs g ss with
      | (.ok vs, c2) => (.ok (v :: vs), c2)
      | (.error st, c2) => (.error st, c2)

/-- The chained operations applied to a result (R125). -/
def runChain (x : Engine) (v : VSlug) (r : CVal) : CVal :=
  v.chain.foldl (fun r (op, reg) =>
    op.eval v.sat r.isInt r (CVal.ofBits r.isInt (x.lane0 reg)) (CVal.f 0)) r

/-- The result at a position, before it is stored, and the keep bit of DROPOUT (R125, R130 to R132, R138, R539). -/
def resultAt (x : Engine) (ent : QEntry) (v : VSlug) (int : Bool) (idx : Nat) (ops : List CVal) : CVal × Bool :=
  let a := ops.getD 0 (CVal.f 0)
  let b := ops.getD 1 (CVal.f 0)
  let d := ops.getD 2 (CVal.f 0)
  match v.op with
  | .dropout =>
    let (w, keep) := dropoutEval (randomWord ent.seed v.drop idx) v.imm0 v.imm1 a.bits
    (runChain x v (.f w), keep)
  | op => (runChain x v (op.eval v.sat int a b d), true)

/-- The write of a result to an element of a destination. The TD's rounding mode applies in the operand buffers too (DESIGN CHOICE, log
entry 101). -/
def elemWrite (ent : QEntry) (d : TD) (ks2 : Bool) (cs : List Nat) (r : CVal) : EWrite :=
  { addr := d.addr cs, fmt := d.fmt, high := d.high cs,
    bits := storeElem d.fmt (ctlOf ent d (indexOf d.ext cs)) (if d.scaleEn then some d.scale else none) ks2 r }

/-- One position of an elementwise slug: mask, operands, result, and its writes to the destination and to the keep mask. A keep mask of
another format than INT8 takes the 1 or 0 converted to it (DESIGN CHOICE, log entry 108). -/
def vecElem (c : Chip) (e : Nat) (ent : QEntry) (v : VSlug) (int : Bool) (d : TD) (keep : Option TD) (cs : List Nat) (g : CVal) :
    ElemRes (List (TD × EWrite)) × Chip :=
  match c.maskAt e ent v.mask cs with
  | (.error st, c1) => (.error st, c1)
  | (.ok false, c1) => (.ok none, c1)
  | (.ok true, c1) =>
    match c1.srcsAt e ent int cs g v.srcs with
    | (.error st, c2) => (.error st, c2)
    | (.ok ops, c2) =>
      let (r, kept) := resultAt (c2.engine e) ent v int (indexOf d.ext cs) ops
      let ws := (d, elemWrite ent d v.ks2 cs r) ::
        (match keep with
        | some k => [(k, { elemWrite ent { k with scaleEn := false } false cs (.i (boolI kept)) with addr := k.addr cs })]
        | none => [])
      match ws.findSome? fun (t, w) => c2.destError e t w.addr with
      | some st => (.error st, c2)
      | none => (.ok (some ws), c2)

/-- Positions in order, with the galley's value at each. -/
def vecElems (e : Nat) (ent : QEntry) (v : VSlug) (int : Bool) (d : TD) (keep : Option TD) :
    List (Nat × List Nat × CVal) → Chip → List (Nat × ElemRes (List (TD × EWrite))) × Chip
  | [], c => ([], c)
  | (i, cs, g) :: ps, c =>
    let (r, c1) := c.vecElem e ent v int d keep cs g
    let (rs, c2) := vecElems e ent v int d keep ps c1
    ((i, r) :: rs, c2)

/-- The writes of the positions before the first fault. DEDUCED, log entry 47. -/
def goodPrefix : List (Nat × ElemRes (List (TD × EWrite))) → List (Nat × TD × EWrite) × Option (Nat × Status)
  | [] => ([], none)
  | (i, .error st) :: _ => ([], some (i, st))
  | (_, .ok none) :: rs => goodPrefix rs
  | (i, .ok (some ws)) :: rs =>
    let (a, b) := goodPrefix rs
    (ws.map (fun (t, w) => (i, t, w)) ++ a, b)

/-- Every write that could be made, whatever others fault. -/
def allWrites (rs : List (Nat × ElemRes (List (TD × EWrite)))) : List (Nat × TD × EWrite) :=
  rs.flatMap fun (i, r) => match r with
    | .ok (some ws) => ws.map fun (t, w) => (i, t, w)
    | _ => []

/-- Store the results of a walk. A fault answers the index below which every active element is written; elements at or above it
hold their old or their new value (R152). The proofreader counts what is stored (R233). DEDUCED, log entry 47. -/
def commitElems (c : Chip) (e : Nat) (ent : QEntry) (rs : List (Nat × ElemRes (List (TD × EWrite)))) : Option (Nat × Status) × Chip :=
  let (good, bad) := goodPrefix rs
  let bytes := good.flatMap fun (_, t, w) => addrRange w.addr t.elemBytes
  let cut : Option (Nat × Status) := match c.uePartial bytes with
    | some a => (good.find? fun (_, t, w) => (addrRange w.addr t.elemBytes).contains a).map fun (i, _, _) => (i, ueStatus a)
    | none => none
  let stop := cut.orElse fun _ => bad
  let (now, later) := match stop with
    | some (i, _) => (good.filter (fun (p : Nat × TD × EWrite) => decide (p.1 < i)), (allWrites rs).filter fun (p : Nat × TD × EWrite) => decide (i ≤ p.1))
    | none => (good, [])
  let ws := now.map fun (_, _, w) => w
  let c1 := (c.storeLocal (some e) (cellsOf c.mem.get ws)).1.countStores e ent.layer ws
  let c2 := match cut, c.uePartial bytes with
    | some _, some a => c1.ueEvent a
    | _, _ => c1
  match stop with
  | none => (none, c2)
  | some _ =>
    match later.head? with
    | some (_, t, _) => (stop, c2.tornWrites e ent.layer t (later.map fun (_, _, w) => w))
    | none => (stop, c2)

/-- Contents of a staging region that the manual leaves unspecified after its use (R153). DEDUCED, log entry 46. -/
def scrapStage (c : Chip) (e stage blocks : Nat) : Chip :=
  if blocks = 0 then c
  else
    let lo := bufferOf e + 0x500000 + stage * 0x4000
    let (n, c1) := c.fresh
    { c1 with mem := c1.mem.fillRegion (.range lo (lo + blocks * 0x4000)) (some n) }

/-- Steps counted for the vector engine (R121, R501). -/
def addSteps (c : Chip) (e n : Nat) : Chip := c.onEngine e fun x => { x with cnt := { x.cnt with vectorSteps := bump48 x.cnt.vectorSteps n } }

/-- A vector register or galley word with an uncorrectable error has been read: a unit error of the engine (R478, R502). -/
def wordUe (c : Chip) (e : Nat) : Chip := c.unitError evUeBuffer .deferred e (.engine e) none []

/-- An elementwise slug without a GALLEY source (R126): its elements in order, as far as it reaches them now (R95). -/
def elementwise (c : Chip) (e : Nat) (ent : QEntry) (v : VSlug) : Chip :=
  match v.dst with
  | none => c.endSlug e .vector ent .placeIllegal 0
  | some d =>
    let start := ent.prog.done0
    let upto := (c.engine e).reach e ent (ent.vecUsesAt e d) (d.count - start) start
    let ps := ((List.range (upto - start)).map (start + ·)).map fun i => (i, coordsOf d.ext i, CVal.f 0)
    if regUe (c.engine e) ent.slug v.op v.chain && c.anyActive e ent v.mask (ps.map (·.2.1)) then (c.wordUe e).endSlug e .vector ent .bufferUe start
    else
      let (rs, c1) := vecElems e ent v v.fixedInt d v.keepMask ps c
      let c1 := if upto = d.count then c1.addSteps e (v.walkCost (d :: v.keepMask.toList) d.ext) else c1
      match c1.commitElems e ent rs with
      | (some (i, st), c2) => c2.endSlug e .vector ent st i
      | (none, c2) =>
        if upto = d.count then c2.endSlug e .vector ent .success d.count
        else c2.updEntry e .vector { ent with prog := { ent.prog with done0 := upto } }

/-! ### Reductions (R133 to R135) -/

/-- The active elements of a source along the reduced dimension, absent ones as `none`, with those of a second source. -/
def redRun (c : Chip) (e : Nat) (ent : QEntry) (v : VSlug) (int : Bool) : List (List Nat) → Res (List (Option W32 × Option W32))
  | [] => (.ok [], c)
  | cs :: rest =>
    match c.maskAt e ent v.mask cs with
    | (.error st, c1) => (.error st, c1)
    | (.ok false, c1) =>
      (match redRun c1 e ent v int rest with
      | (.ok l, c2) => (.ok ((none, none) :: l), c2)
      | (.error st, c2) => (.error st, c2))
    | (.ok true, c1) =>
      match c1.srcsAt e ent int cs (.f 0) v.srcs with
      | (.error st, c2) => (.error st, c2)
      | (.ok ops, c2) =>
        let a := (ops.getD 0 (.f 0)).bits
        let b := if v.op = .redSumsq then a else (ops.getD 1 (.f 0)).bits
        match redRun c2 e ent v int rest with
        | (.ok l, c3) => (.ok ((some a, some b) :: l), c3)
        | (.error st, c3) => (.error st, c3)

/-- One output element of a reduction. A sum none of whose elements is present keeps the bits it starts from, a NaN in a register among them
(DESIGN CHOICE, log entry 107). -/
def redOutput (c : Chip) (e : Nat) (ent : QEntry) (v : VSlug) (int : Bool) (a : TD) (i : Nat) (cs : List Nat) : Res CVal :=
  let start : Res CVal := match v.fromDst, v.dst, v.regDst with
    | true, some d, _ => c.vecLoad e ent d cs
    | true, none, some r => (.ok (CVal.ofBits int (Tab.get 0 (c.engine e).vregs (128 * r + i))), c)
    | _, _, _ => (.ok (CVal.ofBits int 0), c)
  match start with
  | (.error st, c1) => (.error st, c1)
  | (.ok s, c1) =>
    match c1.redRun e ent v int ((List.range (a.ext.getD v.redDim 1)).map fun k => cs.set v.redDim k) with
    | (.error st, c2) => (.error st, c2)
    | (.ok l, c2) =>
      let w := redEval v.op v.sat int s.bits (l.map (·.1)) (l.map (·.2))
      (.ok (runChain (c2.engine e) v (CVal.ofBits (v.op.resultInt int) w)), c2)

/-- Output `i` reads a register word with an uncorrectable error: what it starts from, a chained operand, or an operand of an active element
(R125, R137, R152). -/
def redRegUe (c : Chip) (e : Nat) (ent : QEntry) (v : VSlug) (a : TD) (i : Nat) (cs : List Nat) : Bool :=
  let x := c.engine e
  startUe x ent.slug v.op i || chainUe x v.chain ||
    (opUe x ent.slug v.op && c.anyActive e ent v.mask ((List.range (a.ext.getD v.redDim 1)).map fun k => cs.set v.redDim k))

/-- Every output in output index order. -/
def redOutputs (e : Nat) (ent : QEntry) (v : VSlug) (int : Bool) (a : TD) : List (Nat × List Nat) → Chip → List (Nat × Except Status CVal) × Chip
  | [], c => ([], c)
  | (i, cs) :: ps, c =>
    let (r, c1) := c.redOutput e ent v int a i cs
    let (rs, c2) := redOutputs e ent v int a ps c1
    ((i, r) :: rs, c2)

/-- The outputs, if none faulted. -/
def allOk (rs : List (Nat × Except Status CVal)) : Except Status (List CVal) :=
  rs.mapM fun (_, r) => r

/-- The outputs that a reduction forms from `start` up to `upto`, those that read a bad register word among them as faults, which are one unit
error. -/
def redFormed (c : Chip) (e : Nat) (ent : QEntry) (v : VSlug) (a : TD) (start upto : Nat) : List (Nat × Except Status CVal) × Chip :=
  let ps := ((List.range (upto - start)).map (start + ·)).map fun i => (i, coordsOf (redExt a v.redDim) i)
  let (rs, c1) := redOutputs e ent v v.fixedInt a ps c
  if regUe (c.engine e) ent.slug v.op v.chain && ps.any fun (i, cs) => c.redRegUe e ent v a i cs then
    (rs.map fun (i, r) => (i, if c.redRegUe e ent v a i (coordsOf (redExt a v.redDim) i) then .error .bufferUe else r), c1.wordUe e)
  else (rs, c1)

/-- A reduction slug: to a register all its outputs at once, to memory in order as far as it reaches them now (R95). -/
def reduction (c : Chip) (e : Nat) (ent : QEntry) (v : VSlug) : Chip :=
  match v.srcs.head? with
  | some (.td a) =>
    let ext := redExt a v.redDim
    let n := ext.foldl (· * ·) 1
    let start := ent.prog.done0
    let upto := match v.dst with
      | some d => (c.engine e).reach e ent (ent.redUsesAt e a d v.redDim) (n - start) start
      | none => n
    let (rs, c1) := c.redFormed e ent v a start upto
    let c2 := if upto = n then c1.addSteps e (v.redCost a) else c1
    let c3 := if v.redDim = 0 then c2 else c2.scrapStage e v.stage v.blocks
    match v.regDst, v.dst with
    | some r, _ =>
      (match allOk rs with
      | .ok vals => (c3.onEngine e fun x => x.setReg r (vals.map CVal.bits)).endSlug e .vector ent .success vals.length
      | .error st => c3.endSlug e .vector ent st 0)
    | none, some d =>
      let ws := rs.map fun (i, r) => match r with
        | .error st => (i, (.error st : ElemRes (List (TD × EWrite))))
        | .ok x =>
          let cs := coordsOf ext i
          match c3.destError e d (d.addr cs) with
          | some st => (i, .error st)
          | none => (i, .ok (some [(d, elemWrite ent d v.ks2 cs x)]))
      (match c3.commitElems e ent ws with
      | (none, c4) =>
        if upto = n then c4.endSlug e .vector ent .success n
        else c4.updEntry e .vector { ent with prog := { ent.prog with done0 := upto } }
      | (some (i, st), c4) => c4.endSlug e .vector ent st i)
    | none, none => c3.endSlug e .vector ent .placeIllegal 0
  | _ => c.endSlug e .vector ent .placeIllegal 0

/-! ### Consuming the galley (R139 to R141) -/

/-- LAST has been freed for every product of a set. -/
def allFreed (prods : Nat) (p : Progress) : Bool :=
  (prods % 2 == 0 || p.fin0) && (prods / 2 % 2 == 0 || p.fin1)

/-- The head entry freed, and what its LAST says noted. -/
def freeHead (c : Chip) (e : Nat) (g : GEntry) (p : Progress) : Chip × Progress :=
  (c.onEngine e fun x => let x1 := { x with galley := x.galley.tail }; x1.publishAborts x1.aborts.length,
   if g.last && !g.abort then (if g.product = 0 then { p with fin0 := true } else { p with fin1 := true }) else p)

/-- A consumer that has faulted drains: one entry of its producer is freed, until LAST of each product, an ABORT entry or another
producer's entry ends the drain (R141). -/
def drainStep (c : Chip) (e : Nat) (ent : QEntry) (seq prods : Nat) (st : Status) : Chip :=
  let detail := matrixDetail ent.prog.done0 ent.prog.done1
  if allFreed prods ent.prog then c.endSlug e .vector ent st detail
  else match (c.engine e).galley with
    | [] => c.updEntry e .vector ent
    | g :: _ =>
      if g.seq.toNat ≠ seq then c.endSlug e .vector ent st detail
      else
        let (c1, p1) := c.freeHead e g ent.prog
        let ent1 := { ent with prog := p1 }
        if g.abort || allFreed prods p1 then c1.endSlug e .vector ent1 st detail else c1.updEntry e .vector ent1

/-- A fault at step 4: processing stops, the head entry is freed, and the slug drains from there. -/
def beginDrain (c : Chip) (e : Nat) (ent : QEntry) (seq prods : Nat) (st : Status) : Chip :=
  c.drainStep e { ent with prog := { ent.prog with drain := some st } } seq prods st

/-- The active positions of a tile within a product's destination, with the tile's values (R136). -/
def tilePositions (g : GEntry) (d : TD) : List (Nat × List Nat × CVal) :=
  (List.range 1024).filterMap fun q =>
    let i := q / 32
    let j := q % 32
    let r := 32 * g.row + i
    let n := 32 * g.col + j
    if i < g.vrows ∧ j < g.vcols ∧ g.rmask.getLsbD i ∧ g.cmask.getLsbD j ∧ n < d.ext.headD 0 ∧ r < d.ext.getD 1 1 then
      some (q, n :: r :: List.replicate 4 0, CVal.ofBits g.int (g.vals.getD q 0))
    else none

/-- One entry is taken by a vector slug with a GALLEY source (R139). -/
def vecConsume (c : Chip) (e : Nat) (ent : QEntry) (v : VSlug) : Chip :=
    match (c.engine e).galley with
    | [] => c.updEntry e .vector ent
    | g :: _ =>
      let detail := matrixDetail ent.prog.done0 ent.prog.done1
      if g.abort && g.seq.toNat == v.seq then (c.freeHead e g ent.prog).1.endSlug e .vector ent .upstreamAbort detail
      else if g.seq.toNat ≠ v.seq ∨ !bit (BitVec.ofNat 2 v.prods) g.product ∨ !v.takes g then
        c.endSlug e .vector ent .galleyMismatch detail
      else
        match v.prodDst g.product with
        | none => c.endSlug e .vector ent .galleyMismatch detail
        | some d =>
          let ps := tilePositions g d
          let keep := if g.product = 0 then v.keepMask else none
          let bad := (ps.filter fun (q, _, _) => g.ue.contains (q / 2)).map (·.2.1)
          if c.anyActive e ent v.mask bad || (regUe (c.engine e) ent.slug v.op v.chain && c.anyActive e ent v.mask (ps.map (·.2.1))) then
            (c.wordUe e).beginDrain e ent v.seq v.prods .bufferUe
          else
          let (rs, c1) := vecElems e ent v (v.entryInt g) d keep ps c
          match (c1.addSteps e (8 * v.rowCost (d :: keep.toList) 128 4)).commitElems e ent rs with
          | (some (_, st), c2) => c2.beginDrain e ent v.seq v.prods st
          | (none, c2) =>
            let (c3, p1) := c2.freeHead e g ent.prog
            let p2 := if g.product = 0 then { p1 with done0 := p1.done0 + 1 } else { p1 with done1 := p1.done1 + 1 }
            let ent1 := { ent with prog := { p2 with tiles := p2.tiles ++ [(g.product, g.row, g.col)] } }
            if allFreed v.prods p2 then c3.endSlug e .vector ent1 .success (matrixDetail p2.done0 p2.done1)
            else c3.updEntry e .vector ent1

/-- A vector slug begins: checks, and then the walk, or the wait for its first galley entry. A consumer that has begun goes on
only as entries are taken. -/
def vectorRun (c : Chip) (e : Nat) (ent : QEntry) : Chip :=
  if ent.prog.phase = 1 then c
  else match checkVector c.selfId (c.engine e) ent with
    | .error st => c.begin e .vector ent (.error st) id
    | .ok v => c.begin e .vector ent (.ok ()) fun c =>
      if v.op.isReduction then c.reduction e ent v
      else if v.usesGalley then c.updEntry e .vector { ent with prog := { ent.prog with phase := 1 } }
      else c.elementwise e ent v

/-- A consuming vector slug takes the head entry, beginning first if it has not (R139). -/
def vectorTake (c : Chip) (e : Nat) (ent : QEntry) : Chip :=
  match ent.prog.drain with
  | some st => c.drainStep e ent (fld ent.slug 198 183) (fld ent.slug 200 199) st
  | none =>
  match checkVector c.selfId (c.engine e) ent with
  | .error st => c.begin e .vector ent (.error st) id
  | .ok v => if v.usesGalley && !v.op.isReduction then
      c.begin e .vector ent (.ok ()) fun c => c.vecConsume e { ent with prog := { ent.prog with phase := 1 } } v
    else c

end Chip

/-- A VECTOR slug of an operation. -/
def isVector (op : VOp) (s : SlugWord) : Bool := slugClass s == 2 && VOp.ofCode (fld s 71 64) == some op

/-- A VECTOR slug whose OP names no operation; the COPY row rejects it. -/
def badVector (s : SlugWord) : Bool := slugClass s == 2 && (VOp.ofCode (fld s 71 64)).isNone

end Sys2Proof.Machine
end

