-- ==== Sys2Proof/Machine/Fused.lean ====
section
/-!
DEFINITION. The fused kernels (R143 to R150): normalisation, softmax and loss over whole rows in FP32, and the two kernels that
ingest tiles from the galley.
-/
namespace Sys2Proof.Machine

/-- The kernels of R143. -/
inductive Kernel
  | layernormFwd | layernormBwd | rmsnormFwd | rmsnormBwd | softmaxFwd | softmaxBwd | softmaxFwdMm | softmaxBwdMm | xent
  deriving DecidableEq, Repr

def Kernel.ofCode : Nat → Option Kernel
  | 0 => some .layernormFwd | 1 => some .layernormBwd | 2 => some .rmsnormFwd | 3 => some .rmsnormBwd
  | 4 => some .softmaxFwd | 5 => some .softmaxBwd | 6 => some .softmaxFwdMm | 7 => some .softmaxBwdMm | 8 => some .xent
  | _ => none

/-- Numbers of input and output slots that a kernel names (R170). -/
def Kernel.ins : Kernel → Nat
  | .layernormFwd => 3 | .layernormBwd => 4 | .rmsnormFwd => 2 | .rmsnormBwd => 4 | .softmaxFwd => 1 | .softmaxBwd => 2
  | .softmaxFwdMm => 0 | .softmaxBwdMm => 1 | .xent => 2
def Kernel.outs : Kernel → Nat
  | .layernormFwd => 2 | .layernormBwd => 3 | .rmsnormFwd => 2 | .rmsnormBwd => 2 | .softmaxFwd => 2 | .softmaxBwd => 1
  | .softmaxFwdMm => 2 | .softmaxBwdMm => 1 | .xent => 3

def Kernel.isMm : Kernel → Bool
  | .softmaxFwdMm | .softmaxBwdMm => true
  | _ => false

/-- Statistics that a STATS TD of the kernel holds (R170). -/
def Kernel.stats : Kernel → Nat
  | .layernormFwd | .layernormBwd | .softmaxFwd | .softmaxFwdMm => 2
  | .rmsnormFwd | .rmsnormBwd => 1
  | _ => 0

/-- Steps per row of up to 128 elements: the costs of the operations of the kernel's pseudocode (R121, R145, R147, R150). -/
def Kernel.cost : Kernel → Nat
  | .layernormFwd => 5 | .layernormBwd => 13 | .rmsnormFwd => 3 | .rmsnormBwd => 8 | .softmaxFwd => 8 | .softmaxBwd => 4
  | .softmaxFwdMm => 6 | .softmaxBwdMm => 4 | .xent => 10

/-- A fused slug read into its fields (R170). -/
structure FSlug where
  kern   : Kernel
  ins    : List TD
  outs   : List TD
  mask   : Option TD
  stage  : Nat
  blocks : Nat
  causal : Bool
  seq    : Nat
  immA   : W32
  immB   : W32
  offset : Int
  deriving DecidableEq, Repr

/-- The fields of a fused slug, or what rejects it (R6, R143, R164, R170). A null TD in a role that the kernel names is PLACE_ILLEGAL
(DESIGN CHOICE, log entry 80). -/
def readFused (ent : QEntry) : Except Status FSlug := do
  let s := ent.slug
  failIf (!rsvdZero s [(179, 13), (288, 224)]) .reservedEncoding
  match Kernel.ofCode (fld s 67 64) with
  | none => .error .reservedEncoding
  | some kern =>
    let inRefs := (List.range 4).map fun i => fld s (77 + 10 * i) (68 + 10 * i)
    let outRefs := (List.range 3).map fun i => fld s (117 + 10 * i) (108 + 10 * i)
    failIf ((inRefs.drop kern.ins).any (· != nullTd) || (outRefs.drop kern.outs).any (· != nullTd)) .reservedEncoding
    let ins ← (inRefs.take kern.ins).mapM ent.tdReq
    let outs ← (outRefs.take kern.outs).mapM ent.tdReq
    let mask ← ent.td? (fld s 147 138)
    failIf (bit s 162) .formatIllegal
    return { kern, ins, outs, mask, stage := fld s 153 148, blocks := fld s 160 154, causal := bit s 161, seq := fld s 178 163,
             immA := BitVec.ofNat 32 (fld s 223 192), immB := BitVec.ofNat 32 (fld s 255 224),
             offset := signedOf 32 (fld s 287 256) }

namespace FSlug

def inp (f : FSlug) (i : Nat) : Option TD := f.ins[i]?
def out (f : FSlug) (i : Nat) : Option TD := f.outs[i]?

/-- The TD whose dimension 0 is the row (R144); the galley kernels take their destination's. -/
def rowTd (f : FSlug) : Option TD := if f.kern.isMm then f.out 0 else f.inp 0

def ext (f : FSlug) : List Nat := match f.rowTd with | some t => t.ext | none => []
def n (f : FSlug) : Nat := f.ext.headD 0
def rows (f : FSlug) : Nat := f.ext.tail.foldl (· * ·) 1

/-- Steps per row of up to 128 elements: a SCALE of 1.0 omits its multiplication (R147). SOFTMAX_FWD_MM scales as it ingests (R150). -/
def cost (f : FSlug) : Nat :=
  let scaled := f.kern == .softmaxFwd || f.kern == .softmaxBwd || f.kern == .softmaxBwdMm || f.kern == .xent
  f.kern.cost - if scaled && f.immA == f32One then 1 else 0

end FSlug

/-- Extents other than 1, in order. -/
def wide (ext : List Nat) : List Nat := ext.filter (· != 1)

/-- One element per row, in row order. -/
def perRow (f : FSlug) (t : TD) : Bool := wide t.ext == wide f.ext.tail
/-- A STATS TD: the statistics along dimension 0, one position per row (R170). -/
def statsShape (f : FSlug) (t : TD) : Bool := t.ext.headD 0 == f.kern.stats && wide t.ext.tail == wide f.ext.tail
/-- One element per column. -/
def perCol (f : FSlug) (t : TD) : Bool := t.ext.headD 0 == f.n && t.ext.tail.all (· == 1)

/-- SHAPE_ILLEGAL of R151 for a fused slug. -/
def FSlug.shapeBad (f : FSlug) : Bool :=
  let same (t : TD) : Bool := t.ext == f.ext
  let fit (t : TD) : Bool := t.fits f.ext
  decide (65536 < f.n) || (f.kern.isMm && decide (8192 < f.n)) || f.mask.any (fun t => !fit t) ||
  !(match f.kern, f.ins, f.outs with
    | .layernormFwd, [_, g, b], [y, st] => fit g && fit b && same y && statsShape f st
    | .layernormBwd, [_, x, g, st], [dx, dg, db] => same x && fit g && statsShape f st && same dx && perCol f dg && perCol f db
    | .rmsnormFwd, [_, g], [y, st] => fit g && same y && statsShape f st
    | .rmsnormBwd, [_, x, g, st], [dx, dg] => same x && fit g && statsShape f st && same dx && perCol f dg
    | .softmaxFwd, [_], [y, st] => same y && statsShape f st
    | .softmaxBwd, [_, y], [dx] => same y && same dx
    | .softmaxFwdMm, [], [_, st] => statsShape f st
    | .softmaxBwdMm, [p], [_] => same p
    | .xent, [_, l], [dx, lr, loss] => perRow f l && same dx && perRow f lr && loss.count == 1
    | _, _, _ => false)

/-- The checks of R151 for a fused slug; the tiles that an MM kernel ingests are floating-point (R150). DEDUCED, log entry 46. MASK counts
as a source in the overlap check (DESIGN CHOICE, log entry 81); outputs are no operands of the mixed-type check (DESIGN CHOICE, log
entry 110). -/
def checkFused (own : Option Nat) (ent : QEntry) : Except Status FSlug := do
  let f ← readFused ent
  let label := f.kern == .xent
  let classes := (if f.kern.isMm then [false] else []) ++ (if label then f.ins.take 1 else f.ins).map fun t => t.fmt.isInt
  failIf ((classes.contains true && classes.contains false) || (f.mask.any fun t => t.fmt != .int8) ||
    (label && (f.inp 1).any fun t => t.fmt != .int32)) .formatIllegal
  failIf f.shapeBad .shapeIllegal
  failIf ((f.ins ++ f.outs ++ f.mask.toList).any fun t => t.space != .lcl) .placeIllegal
  failIf (f.outs.any fun d => (f.ins ++ f.mask.toList).any fun s => d.conflicts own s) .operandOverlap
  failIf ((f.blocks != 0 && decide (64 < f.stage + f.blocks)) || decide (f.blocks * 0x4000 < 8 * f.n)) .stageRange
  return f

/-! ### The arithmetic of a row (R145, R147): absent elements are `none` -/

/-- `sum_ref`: dot_reference over the active elements from +0. -/
def sumRef (xs : Row) : W32 := dotReference 0 (xs.map (·.map f32))
/-- `sum_ref` of exact products. -/
def dotRef (xs ys : Row) : W32 :=
  dotReference 0 ((xs.zip ys).map fun (a, b) => match a, b with
    | some x, some y => some (FVal.mul (f32 x) (f32 y))
    | _, _ => none)

def map1 (f : W32 → W32) (xs : Row) : Row := xs.map (·.map f)
def map2 (f : W32 → W32 → W32) (xs ys : Row) : Row :=
  (xs.zip ys).map fun (a, b) => match a, b with
    | some x, some y => some (f x y)
    | _, _ => none
def map3 (f : W32 → W32 → W32 → W32) (xs ys zs : Row) : Row :=
  (xs.zip (ys.zip zs)).map fun (a, b, c) => match a, b, c with
    | some x, some y, some z => some (f x y z)
    | _, _, _ => none

/-- A count as FP32, rounded once. -/
def natF (n : Nat) : W32 := toF32 (FVal.ofInt n 0)
def countRow (xs : Row) : Nat := (xs.filterMap id).length

/-- `layernorm_fwd`: y, mean and rstd. -/
def layernormFwd (x gamma beta : Row) (eps : W32) : Row × W32 × W32 :=
  let n := natF (countRow x)
  let mean := divF (sumRef x) n
  let d := map1 (fun v => subF v mean) x
  let var := divF (dotRef d d) n
  let rstd := rsqrtF (addF var eps)
  (map3 (fun d g b => fmaF (mulF d rstd) g b) d gamma beta, mean, rstd)

/-- `layernorm_bwd`: dx and xh. -/
def layernormBwd (dy x gamma : Row) (mean rstd : W32) : Row × Row :=
  let n := natF (countRow x)
  let xh := map1 (fun v => mulF (subF v mean) rstd) x
  let g := map2 mulF dy gamma
  let c1 := divF (sumRef g) n
  let c2 := divF (dotRef g xh) n
  (map2 (fun g xh => mulF rstd (subF (subF g c1) (mulF xh c2))) g xh, xh)

/-- `rmsnorm_fwd`: y and rr. -/
def rmsnormFwd (x gamma : Row) (eps : W32) : Row × W32 :=
  let rr := rsqrtF (addF (divF (dotRef x x) (natF (countRow x))) eps)
  (map2 (fun v g => mulF (mulF v rr) g) x gamma, rr)

/-- `rmsnorm_bwd`: dx and xh. -/
def rmsnormBwd (dy x gamma : Row) (rr : W32) : Row × Row :=
  let xh := map1 (fun v => mulF v rr) x
  let g := map2 mulF dy gamma
  let c := divF (dotRef g xh) (natF (countRow x))
  (map2 (fun g xh => mulF rr (subF g (mulF xh c))) g xh, xh)

/-- `softmax_fwd`: y, m and s. -/
def softmaxFwd (x : Row) (scale : W32) : Row × W32 × W32 :=
  let z := map1 (fun v => mulF v scale) x
  let m := maxRef (z.filterMap id)
  let e := map1 (fun v => expF (subF v m)) z
  let s := sumRef e
  (map1 (fun v => divF v s) e, m, s)

/-- `softmax_bwd`. -/
def softmaxBwd (dy y : Row) (scale : W32) : Row :=
  let t := dotRef dy y
  map2 (fun d y => mulF (mulF y (subF d t)) scale) dy y

/-- `xent`: the row's loss and dx. -/
def xentRow (x : Row) (label : Nat) (scale gscale : W32) : W32 × Row :=
  let (y, m, s) := softmaxFwd x scale
  let zl := mulF ((x.getD label none).getD 0) scale
  let loss := subF (addF m (logF s)) zl
  (loss, y.zipIdx.map fun (v, i) => v.map fun v => mulF (subF v (if i = label then f32One else 0)) gscale)

/-- An FP32 accumulator with a group of 32 rows in formation (R75, R146). -/
def groupPush (p : W32 × List FVal) (x : Option FVal) (rowIdx : Nat) : W32 × List FVal :=
  let g := p.2 ++ x.toList
  if rowIdx % 32 = 31 then (addGroup p.1 g, []) else (p.1, g)

def groupEnd (p : W32 × List FVal) : W32 := addGroup p.1 p.2

/-- Column sums over rows: DGAMMA and DBETA (R146). -/
def colSums (start : List W32) (rows : List (List (Option FVal))) : List W32 :=
  let upd (acc : List (W32 × List FVal)) (r : List (Option FVal) × Nat) : List (W32 × List FVal) :=
    (acc.zip r.1).map fun (p, x) => groupPush p x r.2
  (rows.zipIdx.foldl upd (start.map fun w => (w, []))).map groupEnd

namespace Chip

/-- An element as FP32, an integer one converted under RNE. -/
def asF32 (v : CVal) : W32 := match v with
  | .f w => w
  | .i w => toF32 (FVal.ofInt w.toInt 0)

/-- The elements of a list of coordinates, absent where the mask list says so. -/
def loadRow (e : Nat) (ent : QEntry) (t : TD) : List (List Nat × Bool) → Chip → Res Row
  | [], c => (.ok [], c)
  | (_, false) :: ps, c =>
    (match loadRow e ent t ps c with
    | (.ok r, c1) => (.ok (none :: r), c1)
    | (.error st, c1) => (.error st, c1))
  | (cs, true) :: ps, c =>
    match c.vecLoad e ent t (t.broadcast cs) with
    | (.error st, c1) => (.error st, c1)
    | (.ok v, c1) =>
      match loadRow e ent t ps c1 with
      | (.ok r, c2) => (.ok (some (asF32 v) :: r), c2)
      | (.error st, c2) => (.error st, c2)

/-- The mask over a row's positions; it is not read where a position is inactive already (R137). -/
def rowMask (e : Nat) (ent : QEntry) (mask : Option TD) : List (List Nat × Bool) → Chip → Res (List Bool)
  | [], c => (.ok [], c)
  | (_, false) :: ps, c =>
    (match rowMask e ent mask ps c with
    | (.ok r, c1) => (.ok (false :: r), c1)
    | (.error st, c1) => (.error st, c1))
  | (cs, true) :: ps, c =>
    match c.maskAt e ent mask cs with
    | (.error st, c1) => (.error st, c1)
    | (.ok b, c1) =>
      match rowMask e ent mask ps c1 with
      | (.ok r, c2) => (.ok (b :: r), c2)
      | (.error st, c2) => (.error st, c2)

/-- The inputs of a row, all loaded: the row TDs over the active positions. -/
def loadRows (e : Nat) (ent : QEntry) (ps : List (List Nat × Bool)) : List TD → Chip → Res (List Row)
  | [], c => (.ok [], c)
  | t :: ts, c =>
    match loadRow e ent t ps c with
    | (.error st, c1) => (.error st, c1)
    | (.ok r, c1) =>
      match loadRows e ent ps ts c1 with
      | (.ok rs, c2) => (.ok (r :: rs), c2)
      | (.error st, c2) => (.error st, c2)

/-- The statistics of a row, from its STATS TD. -/
def loadStats (c : Chip) (e : Nat) (ent : QEntry) (t : TD) (r : Nat) : Res Row :=
  loadRow e ent t ((List.range (t.ext.headD 0)).map fun k => (k :: coordsOf t.ext.tail r, true)) c

/-- The label of a row (R149): `none` makes the row inactive; the flag says that it was out of range. -/
def rowLabel (c : Chip) (e : Nat) (ent : QEntry) (f : FSlug) (t : TD) (r : Nat) : Res (Option Nat × Bool) :=
  match c.vecLoad e ent t (coordsOf t.ext r) with
  | (.error st, c1) => (.error st, c1)
  | (.ok v, c1) =>
    let l := v.bits.toInt
    (.ok (if 0 ≤ l ∧ l < (f.n : Int) then (some l.toNat, false) else (none, l != -1)), c1)

/-- One row of a kernel that reads its inputs from memory. -/
def fusedRow (c : Chip) (e : Nat) (ent : QEntry) (f : FSlug) (r : Nat) : Res RowOut :=
  let pos := (List.range f.n).map fun i => i :: coordsOf f.ext.tail r
  match (match f.kern, f.inp 1 with
      | .xent, some t => c.rowLabel e ent f t r
      | _, _ => (.ok (none, false), c)) with
  | (.error st, c1) => (.error st, c1)
  | (.ok (label, bad), c1) =>
  if f.kern = .xent ∧ label = none then (.ok { live := false, range := bad }, c1)
  else
  let q := (coordsOf f.ext.tail r).headD 0
  let late (i : Nat) : Bool := f.kern == .softmaxFwd && f.causal && decide ((q : Int) + f.offset < i)
  match rowMask e ent f.mask (pos.zipIdx.map fun (cs, i) => (cs, !late i)) c1 with
  | (.error st, c2) => (.error st, c2)
  | (.ok ms, c2) =>
  let act := ms.zipIdx.map fun (b, i) => b || label == some i
  let ps := pos.zip act
  let rowTds := match f.kern with
    | .layernormBwd | .rmsnormBwd => f.ins.take 3
    | .xent => f.ins.take 1
    | _ => f.ins
  match loadRows e ent ps rowTds c2 with
  | (.error st, c3) => (.error st, c3)
  | (.ok rs, c3) =>
  match (match f.kern, f.inp 3 with
      | .layernormBwd, some t | .rmsnormBwd, some t => c3.loadStats e ent t r
      | _, _ => (.ok [], c3)) with
  | (.error st, c4) => (.error st, c4)
  | (.ok sts, c4) =>
  let x := rs.getD 0 []
  let st0 := (sts.getD 0 none).getD 0
  let st1 := (sts.getD 1 none).getD 0
  let prodOf (dy xh : Row) : List (Option FVal) := (dy.zip xh).map fun (a, b) => match a, b with
    | some a, some b => some (FVal.mul (f32 a) (f32 b))
    | _, _ => none
  let out : RowOut := match f.kern with
    | .layernormFwd =>
      let (y, m, rstd) := layernormFwd x (rs.getD 1 []) (rs.getD 2 []) f.immA
      { y, stats := [m, rstd] }
    | .layernormBwd =>
      let (dx, xh) := layernormBwd x (rs.getD 1 []) (rs.getD 2 []) st0 st1
      { y := dx, prod := prodOf x xh, dy := x.map (·.map f32) }
    | .rmsnormFwd =>
      let (y, rr) := rmsnormFwd x (rs.getD 1 []) f.immA
      { y, stats := [rr] }
    | .rmsnormBwd =>
      let (dx, xh) := rmsnormBwd x (rs.getD 1 []) (rs.getD 2 []) st0
      { y := dx, prod := prodOf x xh }
    | .softmaxFwd =>
      let (y, m, s) := softmaxFwd x f.immA
      { y, stats := [m, s] }
    | .softmaxBwd => { y := softmaxBwd x (rs.getD 1 []) f.immA }
    | .xent =>
      let (loss, dx) := xentRow x (label.getD 0) f.immA f.immB
      { y := dx, loss := some loss }
    | _ => {}
  (.ok out, c4)

/-- The writes of FP32 results to elements of a destination, numbered from `base` on by `stride` for the progress count: 1 for the elements of
the row tensor, and 0 for an output beside it, whose elements come after those of the rows so far (R152). -/
def rowWrites (c : Chip) (e : Nat) (ent : QEntry) (d : TD) (base stride : Nat) (css : List (List Nat)) (vals : Row) :
    List (Nat × ElemRes (List (TD × EWrite))) :=
  (css.zip vals).zipIdx.map fun ((cs, v), i) => match v with
    | none => (base + stride * i, .ok none)
    | some w =>
      match c.destError e d (d.addr cs) with
      | some st => (base + stride * i, .error st)
      | none => (base + stride * i, .ok (some [(d, elemWrite ent d false cs (.f w))]))

/-- Commit a row's first output and then its statistics or its loss (R152). -/
def commitRow (c : Chip) (e : Nat) (ent : QEntry) (f : FSlug) (r : Nat) (o : RowOut) : Option (Nat × Status) × Chip :=
  let outer := coordsOf f.ext.tail r
  let first := match f.out 0 with
    | some d => c.rowWrites e ent d (r * f.n) 1 ((List.range f.n).map fun i => i :: outer) o.y
    | none => []
  match c.commitElems e ent first with
  | (some x, c1) => (some x, c1)
  | (none, c1) =>
    let second := match f.out 1 with
      | none => []
      | some d =>
        if f.kern = .xent then c1.rowWrites e ent d ((r + 1) * f.n) 0 [coordsOf d.ext r] [o.loss]
        else if o.stats.isEmpty then []
        else c1.rowWrites e ent d ((r + 1) * f.n) 0 ((List.range o.stats.length).map fun k => k :: coordsOf d.ext.tail r) (o.stats.map some)
    c1.commitElems e ent second

/-- Rows in order, up to the first fault; what the column sums, the loss and LABEL_RANGE need of the rows met is kept. -/
def fusedRows (e : Nat) (ent : QEntry) (f : FSlug) : List Nat → List RowOut → Chip → Option (Nat × Status) × List RowOut × Chip
  | [], acc, c => (none, acc.reverse, c)
  | r :: rs, acc, c =>
    match c.fusedRow e ent f r with
    | (.error st, c1) => (some (r * f.n, st), acc.reverse, c1)
    | (.ok o, c1) =>
      if !o.live then fusedRows e ent f rs (o :: acc) c1
      else match c1.commitRow e ent f r o with
        | (some x, c2) => (some x, (o :: acc).reverse, c2)
        | (none, c2) => fusedRows e ent f rs (o :: acc) c2

/-- A column output: its FP32 contents, the sums over the rows, and the store (R146). -/
def columnOut (c : Chip) (e : Nat) (ent : QEntry) (f : FSlug) (d : TD) (rows : List (List (Option FVal))) : Option (Nat × Status) × Chip :=
  let css := (List.range f.n).map fun i => i :: List.replicate 5 0
  match loadRow e ent d (css.map fun cs => (cs, true)) c with
  | (.error st, c1) => (some (f.n * f.rows, st), c1)
  | (.ok start, c1) =>
    let sums := colSums (start.map (·.getD 0)) rows
    c1.commitElems e ent (c1.rowWrites e ent d (f.n * f.rows) 0 css (sums.map some))

/-- The loss accumulator takes a LOSS (R235). -/
def deliverLoss (c : Chip) (e : Nat) (loss : W32) : Chip :=
  c.onEngine e fun x =>
    let g := x.loss.group ++ [loss]
    let l1 := if g.length = 32 then { x.loss with acc := addGroup x.loss.acc (g.map f32), group := [] } else { x.loss with group := g }
    { x with loss := { l1 with count := l1.count + 1 } }

/-- LOSS of R149: over the active rows by row index. -/
def lossOf (rows : List RowOut) : W32 :=
  let n := (rows.filter fun o => o.loss.isSome).length
  if n = 0 then 0 else divF (sumRef (rows.map (·.loss))) (natF n)

/-- A fused kernel that reads its rows from memory: its rows in order, as far as it reaches them now (R95), and after the last one its column
outputs and its loss. -/
def fusedKernel (c : Chip) (e : Nat) (ent : QEntry) (f : FSlug) : Chip :=
  let fin (c : Chip) (st : Status) (n : Nat) : Chip := (c.scrapStage e f.stage f.blocks).endSlug e .vector ent st n
  let start := ent.prog.done0
  let upto := match f.rowTd with
    | some x => (c.engine e).reach e ent (ent.fusedUsesAt e x) (f.rows - start) start
    | none => f.rows
  let c0 := if upto = f.rows then c.addSteps e ((f.n + 127) / 128 * f.rows * f.cost) else c
  let (bad, rows, c1) := fusedRows e ent f ((List.range (upto - start)).map (start + ·)) ent.prog.rows.reverse c0
  if bad.isNone && decide (upto < f.rows) then c1.updEntry e .vector { ent with prog := { ent.prog with done0 := upto, rows } }
  else
  let c2 := if rows.any (·.range) then c1.raise evLabelRange .note e (.engine e) [BitVec.ofNat 64 (slugSeq ent.slug)] else c1
  match bad with
  | some (i, st) => fin c2 st i
  | none =>
    let last := f.n * f.rows
    let done (r : Option (Nat × Status) × Chip) (next : Chip → Chip) : Chip := match r with
      | (some (i, st), c) => fin c st i
      | (none, c) => next c
    match f.kern, f.out 1, f.out 2 with
    | .layernormBwd, some dg, some db =>
      done (c2.columnOut e ent f dg (rows.map (·.prod))) fun c3 =>
      done (c3.columnOut e ent f db (rows.map (·.dy))) fun c4 => fin c4 .success last
    | .rmsnormBwd, some dg, _ => done (c2.columnOut e ent f dg (rows.map (·.prod))) fun c3 => fin c3 .success last
    | .xent, _, some dl =>
      let loss := lossOf rows
      done (c2.commitElems e ent (c2.rowWrites e ent dl last 0 [coordsOf dl.ext 0] [some loss])) fun c3 =>
        fin (c3.deliverLoss e loss) .success last
    | _, _, _ => fin c2 .success last

/-! ### The kernels that ingest from the galley (R150) -/

def cellKey (i n : Nat) : Nat := i * 65536 + n

/-- Where a strip's cell lies in the staging region: rows of N words one after another, the strips of a two-strip region in turn by tile
row (DESIGN CHOICE, log entry 84). A region that holds less than one strip is gone past (DESIGN CHOICE, log entry 111). -/
def stripAddr (e : Nat) (f : FSlug) (row i n : Nat) : Nat :=
  bufferOf e + 0x500000 + f.stage * 0x4000 + (if 256 * f.n ≤ f.blocks * 0x4000 then row % 2 * (128 * f.n) else 0) + 4 * (i * f.n + n)

/-- Addresses of a strip's words that hold cells. -/
def stripWords (e : Nat) (f : FSlug) (row : Nat) (keys : List Nat) : List Nat :=
  keys.flatMap fun k => addrRange (stripAddr e f row (k / 65536) (k % 65536)) 4

/-- The strip with a tile's active cells taken in (R136, R148, R150): their words are rewritten in staging, and a galley word with an
uncorrectable error among them ends the slug (R152). -/
def ingestTile (c : Chip) (e : Nat) (ent : QEntry) (f : FSlug) (g : GEntry) (d : TD) : Res Strip :=
  let strip := match (c.engine e).strip with
    | some s => s
    | none => { owner := ent.id, row := g.row, vals := [], act := [] }
  let cells := (tilePositions g d).filter fun (_, cs, _) =>
    !(f.kern == .softmaxFwdMm && f.causal && decide (((cs.getD 1 0 : Nat) : Int) + f.offset < ((cs.headD 0 : Nat) : Int)))
  match rowMask e ent f.mask (cells.map fun (_, cs, _) => (cs, true)) c with
  | (.error st, c1) => (.error st, c1)
  | (.ok ms, c1) =>
    let taken := (cells.zip ms).filter (·.2)
    if taken.any fun ((q, _, _), _) => g.ue.contains (q / 2) then (.error .bufferUe, c1.wordUe e)
    else
    let fresh := stripWords e f g.row (taken.map fun ((_, cs, _), _) => cellKey (cs.getD 1 0 - 32 * g.row) (cs.headD 0))
    let c1 : Chip := { c1 with ue := c1.ue.filter fun u => !((List.range 8).all fun i => fresh.contains (u + i)) }
    let vals := taken.foldl (fun t ((_, cs, v), _) => Tab.set (cellKey (cs.getD 1 0 - 32 * g.row) (cs.headD 0)) v.bits t) strip.vals
    (.ok { strip with vals, act := vals.map (·.1) }, c1)

/-- One row of a complete strip. -/
def stripRow (c : Chip) (e : Nat) (ent : QEntry) (f : FSlug) (s : Strip) (i : Nat) : Res RowOut :=
  let raw : Row := (List.range f.n).map fun n => Tab.find? (cellKey i n) s.vals
  match f.kern, f.inp 0 with
  | .softmaxBwdMm, some p =>
    (match loadRow e ent p ((List.range f.n).zip raw |>.map fun (n, v) => (n :: (32 * s.row + i) :: List.replicate 4 0, v.isSome)) c with
    | (.error st, c1) => (.error st, c1)
    | (.ok y, c1) => (.ok { y := softmaxBwd raw y f.immA }, c1))
  | _, _ =>
    let (y, m, st) := softmaxFwd raw f.immA
    (.ok { y, stats := [m, st] }, c)

/-- One row of a complete strip, unless a staging word that holds one of its cells has an uncorrectable error (R152). -/
def stripRead (c : Chip) (e : Nat) (ent : QEntry) (f : FSlug) (s : Strip) (i : Nat) : Res RowOut :=
  match c.ueAt (stripWords e f s.row (s.act.filter fun k => k / 65536 == i)) with
  | some a => (.error .bufferUe, c.ueEvent a)
  | none => c.stripRow e ent f s i

/-- The rows of a complete strip computed and written, up to the first fault. -/
def stripRows (e : Nat) (ent : QEntry) (f : FSlug) (s : Strip) : List Nat → Chip → Option Status × Chip
  | [], c => (none, c)
  | i :: is, c =>
    match c.stripRead e ent f s i with
    | (.error st, c1) => (some st, c1)
    | (.ok o, c1) =>
      match c1.commitRow e ent f (32 * s.row + i) o with
      | (some (_, st), c2) => (some st, c2)
      | (none, c2) => stripRows e ent f s is c2

/-- One entry is taken by SOFTMAX_FWD_MM or SOFTMAX_BWD_MM. `done0` counts the tiles of strips that are written, `done1` those of
the strip in formation. -/
def fusedConsume (c : Chip) (e : Nat) (ent : QEntry) (f : FSlug) : Chip :=
    let clear (c : Chip) : Chip := (c.onEngine e fun x => { x with strip := none }).scrapStage e f.stage f.blocks
    match (c.engine e).galley, f.out 0 with
    | [], _ => c.updEntry e .vector ent
    | _, none => c.updEntry e .vector ent
    | g :: _, some d =>
      let detail := matrixDetail ent.prog.done0 0
      if g.abort && g.seq.toNat == f.seq then clear ((c.freeHead e g ent.prog).1.endSlug e .vector ent .upstreamAbort detail)
      else if g.seq.toNat ≠ f.seq ∨ g.product ≠ 0 ∨ g.int then clear (c.endSlug e .vector ent .galleyMismatch detail)
      else
        let other := match (c.engine e).strip with
          | some s => s.row != g.row
          | none => false
        if other then (clear c).beginDrain e { ent with prog := { ent.prog with done1 := 0 } } f.seq 1 .galleyMismatch
        else if (c.engine e).strip.isNone ∧ (f.n + 31) / 32 ≤ g.col then
          -- a tile beyond P's columns has no active cell, and opens no strip
          let (c1, p1) := c.freeHead e g ent.prog
          let ent1 := { ent with prog := { p1 with done0 := p1.done0 + 1, tiles := p1.tiles ++ [(0, g.row, g.col)] } }
          if p1.fin0 then c1.endSlug e .vector ent1 .success (matrixDetail ent1.prog.done0 0) else c1.updEntry e .vector ent1
        else
          match c.ingestTile e ent f g d with
          | (.error st, c1) => (clear c1).beginDrain e { ent with prog := { ent.prog with done1 := 0 } } f.seq 1 st
          | (.ok s, c1) =>
            let c2 := (c1.onEngine e fun x => { x with strip := some s }).addSteps e 8
            let full := g.last || g.col + 1 == (f.n + 31) / 32
            let n := ent.prog.done1 + 1
            if full then
              let live := (List.range (min g.vrows (f.rows - 32 * g.row)))
              match stripRows e ent f s live (c2.addSteps e (live.length * ((f.n + 127) / 128) * f.cost)) with
              | (some st, c3) => (clear c3).beginDrain e { ent with prog := { ent.prog with done1 := 0 } } f.seq 1 st
              | (none, c3) =>
                let (c4, p1) := (clear c3).freeHead e g ent.prog
                let p2 := { p1 with done0 := p1.done0 + n, done1 := 0,
                                    tiles := p1.tiles ++ (List.range ((f.n + 31) / 32)).map fun j => (0, g.row, j) }
                if p2.fin0 then c4.endSlug e .vector { ent with prog := p2 } .success (matrixDetail p2.done0 0)
                else c4.updEntry e .vector { ent with prog := p2 }
            else
              let (c3, p1) := c2.freeHead e g ent.prog
              c3.updEntry e .vector { ent with prog := { p1 with done1 := n } }

/-- A fused slug begins: checks, then the rows, or the wait for its first galley entry. -/
def fusedRun (c : Chip) (e : Nat) (ent : QEntry) : Chip :=
  if ent.prog.phase = 1 then c
  else match checkFused c.selfId ent with
    | .error st => c.begin e .vector ent (.error st) id
    | .ok f => c.begin e .vector ent (.ok ()) fun c =>
      if f.kern.isMm then c.updEntry e .vector { ent with prog := { ent.prog with phase := 1 } } else c.fusedKernel e ent f

/-- A fused kernel takes the head entry, beginning first if it has not. -/
def fusedTake (c : Chip) (e : Nat) (ent : QEntry) : Chip :=
  match ent.prog.drain with
  | some st => c.drainStep e ent (fld ent.slug 178 163) 1 st
  | none =>
  match checkFused c.selfId ent with
  | .error st => c.begin e .vector ent (.error st) id
  | .ok f => if f.kern.isMm then
      c.begin e .vector ent (.ok ()) fun c => c.fusedConsume e { ent with prog := { ent.prog with phase := 1 } } f
    else c

/-- GALLEY_CONSUME: the head of the VECTOR queue takes one entry (R139, R150). -/
def consume (c : Chip) (e : Nat) (ent : QEntry) : Chip :=
  if slugClass ent.slug = 2 then c.vectorTake e ent else c.fusedTake e ent

end Chip

/-- A FUSED slug of a kernel. -/
def isFused (k : Kernel) (s : SlugWord) : Bool := slugClass s == 3 && Kernel.ofCode (fld s 67 64) == some k

/-- A FUSED slug of a reserved kernel; the XENT row rejects it. -/
def badFused (s : SlugWord) : Bool := slugClass s == 3 && (Kernel.ofCode (fld s 67 64)).isNone

end Sys2Proof.Machine
end

