-- ==== Sys2Proof/Machine/Calls.lean ====
section
/-!
DEFINITION. The operators of R190 as the firmware expands them: the slugs of each block of output (R189), with the firmware's own
TDs. Placement in the operand buffers and the block sizes are the model's (DESIGN CHOICE, log entry 15).
-/
namespace Sys2Proof.Machine

/-- A TD's words (R165). -/
def TD.word (t : TD) : TDWord :=
  let scalar := t.base % p2 64 + t.scale.toNat <<< 64 + (t.stream % p2 16) <<< 96 + t.fmt.code <<< 112
    + (match t.rmode with | .rtz => 1 | .stochastic => 2 | _ => 0) <<< 116 + t.sat.toNat <<< 118 + t.scaleEn.toNat <<< 119
    + (t.ndim % 8) <<< 120 + t.space.code <<< 123 + t.streaming.toNat <<< 125
  let exts := ((List.range 6).map fun d => if d < t.ndim then (t.ext.getD d 1) <<< (128 + 24 * d) else 0).sum
  let strs := ((List.range 6).map fun d => if d < t.ndim then bitsOfInt 40 (t.stride.getD d 0) <<< (272 + 40 * d) else 0).sum
  BitVec.ofNat 512 (scalar + exts + strs)

/-- The sub-tensor of a TD that starts at coordinates and has other extents. -/
def TD.sub (t : TD) (start ext : List Nat) : TD := { t with base := t.addr start, ext := ext ++ List.replicate (6 - ext.length) 1 }

/-- The same elements with the first two dimensions exchanged. -/
def TD.transposed (t : TD) : TD :=
  let step (d : Nat) : Int := let s := t.stride.getD d 0; if d = 0 ∧ s = 0 then ((t.fmt.width / 8 : Nat) : Int) else s
  { t with ndim := max 2 t.ndim, ext := t.ext.getD 1 1 :: t.ext.getD 0 1 :: t.ext.drop 2, stride := step 1 :: step 0 :: t.stride.drop 2 }

/-- Bytes of a row of elements, rounded up to 64. -/
def pitch (f : Fmt) (cols : Nat) : Nat := max 64 (((cols * f.width + 7) / 8 + 63) / 64 * 64)

/-- A row-major matrix at a LOCAL address, laid out as R91 asks. -/
def bufTd (f : Fmt) (rows cols base : Nat) : TD :=
  { id := 0, base, scale := f32One, stream := 0, fmt := f, rmode := .rne, sat := false, scaleEn := false, ndim := 2, space := .lcl,
    streaming := false, ext := [cols, rows, 1, 1, 1, 1], stride := [0, pitch f cols, 0, 0, 0, 0] }

/-- A slug's words from its fields. -/
def mkSlug (fs : List (Nat × Nat)) : SlugWord := BitVec.ofNat 512 (fs.foldl (fun a (lo, v) => a + v <<< lo) 0)

/-- Header of a firmware slug: no next use, CONTINUE, no record on success. -/
def fwHead (cls seq : Nat) : List (Nat × Nat) := [(0, cls), (4, 0xF000 + seq % 0x1000), (36, 0xFFFF), (54, 1)]

/-- First of the firmware's TD entries (R163). -/
def fwTd : Nat := 0x300

/-- A firmware slug that names the given TDs as entries 0x300 onward. -/
def fwItem (fs : List (Nat × Nat)) (tds : List TD) : StreamItem :=
  { slug := mkSlug fs, origin := .call, own := tds.zipIdx.map fun (t, i) => (fwTd + i, t.word) }

def itemMove (seq op : Nat) (src dst : TD) : StreamItem := fwItem (fwHead 0 seq ++ [(64, op), (68, fwTd), (78, fwTd + 1)]) [src, dst]
def itemSet (seq : Nat) (dst : TD) : StreamItem := fwItem (fwHead 0 seq ++ [(64, 3), (68, nullTd), (78, fwTd)]) [dst]

/-- Compute format and passes of an operand format: FP32 runs as FP32_SPLIT in three passes. -/
def computeCode (f : Fmt) : Nat := if f = .fp32 then 8 else f.code
def passCode (f : Fmt) : Nat := if f = .fp32 then 3 else 0

/-- A MATMUL of the firmware. `out`: 0 KEEP, 1 STORE, 2 GALLEY. -/
def itemMatmul (seq : Nat) (a b : TD) (cont : Bool) (out base count : Nat) (dst : Option TD) : StreamItem :=
  fwItem (fwHead 1 seq ++ [(64, 0), (68, computeCode a.fmt), (72, computeCode b.fmt), (76, passCode a.fmt), (78, cont.toNat), (81, out),
    (84, base), (92, count), (100, fwTd), (110, fwTd + 1), (120, if dst.isSome then fwTd + 2 else nullTd), (130, nullTd), (140, nullTd)])
    ([a, b] ++ dst.toList)

/-- A MATMUL_BWD_PAIR of the firmware. -/
def itemPair (seq : Nat) (dy wt xt : TD) (contX contW : Bool) (outX outW baseX countX baseW countW : Nat) (dx dw : Option TD) : StreamItem :=
  fwItem (fwHead 1 seq ++ [(64, 1), (68, computeCode dy.fmt), (72, computeCode wt.fmt), (76, computeCode xt.fmt), (80, passCode dy.fmt),
    (85, contX.toNat), (86, contW.toNat), (87, outX), (89, outW), (91, baseX), (99, countX), (107, baseW), (115, countW),
    (123, fwTd), (133, fwTd + 1), (143, fwTd + 2), (153, if dx.isSome then fwTd + 3 else nullTd),
    (163, if dw.isSome then fwTd + 3 + dx.toList.length else nullTd), (173, nullTd), (183, nullTd)])
    ([dy, wt, xt] ++ dx.toList ++ dw.toList)

/-- A VECTOR slug that consumes the galley: COPY, or an addition of a second source. -/
def itemConsume (seq op galleySeq prods : Nat) (dst : TD) (b : Option TD) : StreamItem :=
  fwItem (fwHead 2 seq ++ [(64, op), (111, 3), (127, if b.isSome then fwTd + 1 else 0), (148, if prods = 1 then fwTd else nullTd),
    (158, if prods = 2 then fwTd else nullTd), (168, nullTd), (178, 7), (183, 0xF000 + galleySeq % 0x1000), (199, prods)])
    ([dst] ++ b.toList)

/-- An elementwise VECTOR slug of a TD and a second operand, a TD or an immediate, with one chained operation. -/
def itemVec (seq op chain : Nat) (a : TD) (b : TD ⊕ Nat) (dst : TD) : StreamItem :=
  let (kind, imm, bs) : Nat × Nat × List TD := match b with
    | .inl t => (0, 0, [t])
    | .inr w => (2, w, [])
  fwItem (fwHead 2 seq ++ [(64, op), (72, chain), (117, fwTd), (113, kind), (127, if bs.isEmpty then 0 else fwTd + 2), (148, fwTd + 1),
    (158, nullTd), (168, nullTd), (178, 7), (256, imm)]) ([a, dst] ++ bs)

/-- A RED_SUM over dimension 1, from zero or from its destination (R133). -/
def itemRedSum (seq : Nat) (src dst : TD) (onto : Bool) : StreamItem :=
  fwItem (fwHead 2 seq ++ [(64, 0x40), (117, fwTd), (148, fwTd + 1), (158, nullTd), (168, nullTd), (178, 1), (223, 4), (256, onto.toNat)])
    [src, dst]

/-- A FUSED slug. -/
def itemFused (seq kern : Nat) (ins outs : List TD) (immA immB : Nat) (causal : Bool) (offset galleySeq : Nat) : StreamItem :=
  let ref (i n base : Nat) : Nat := if i < n then fwTd + base + i else nullTd
  fwItem (fwHead 3 seq ++ [(64, kern)] ++ ((List.range 4).map fun i => (68 + 10 * i, ref i ins.length 0)) ++
    ((List.range 3).map fun i => (108 + 10 * i, ref i outs.length ins.length)) ++
    [(138, nullTd), (154, 64), (161, causal.toNat), (163, galleySeq), (192, immA), (224, immB), (256, offset)]) (ins ++ outs)

/-- Cuts of a length into pieces of at most `step`: `(start, size)`. -/
def cuts (n step : Nat) : List (Nat × Nat) :=
  if step = 0 then [] else (List.range ((n + step - 1) / step)).map fun i => (i * step, min step (n - i * step))

/-- The pieces of a reduction index, at least one: a sum over nothing is formed too. -/
def pieces (n step : Nat) : List (Nat × Nat) := if n = 0 then [(0, 0)] else cuts n step

def tilesOf (m n : Nat) : Nat := ((m + 31) / 32) * ((n + 31) / 32)

/-- An operand matrix of a format fits an operand buffer. -/
def fits2 (f : Fmt) (rows cols bytes : Nat) : Bool := decide (rows * pitch f cols ≤ bytes)

/-- One block of output: slugs for engine `e`, from their place in the stream of the block. -/
abbrev Block := Nat → List StreamItem

/-- Rows and columns of a matrix TD. -/
def TD.nrows (t : TD) : Nat := t.ext.getD 1 1
def TD.ncols (t : TD) : Nat := t.ext.headD 0

/-- LINEAR_FWD (R190). A Y of no elements takes no slug. -/
def linearFwd (x w : TD) (bias : Option TD) (y : TD) : Except Status (List Block) :=
  let m := x.nrows
  let k := x.ncols
  let n := w.ncols
  if w.nrows ≠ k ∨ y.nrows ≠ m ∨ y.ncols ≠ n ∨ (bias.any fun b => b.ncols != n) then .error .shapeIllegal
  else if m * n = 0 then .ok []
  else
    let whole := fits2 x.fmt m k 0x200000 && fits2 w.fmt k n 0x200000
    let ms := if whole then [(0, m)] else cuts m 128
    let ns := if whole then [(0, n)] else cuts n 128
    let ks := if whole then [(0, k)] else pieces k 4096
    .ok ((ms.flatMap fun a => ns.map fun b => (a, b)).map fun ((m0, mb), (n0, nb)) => fun e =>
      let steps := ks.zipIdx.flatMap fun ((k0, kb), j) =>
        let xa := bufTd x.fmt mb kb (bufferOf e)
        let wb := bufTd w.fmt kb nb (bufferOf e + 0x200000)
        let last := j + 1 == ks.length
        [itemMove (3 * j) 0 (x.sub [k0, m0] [kb, mb]) xa, itemMove (3 * j + 1) 0 (w.sub [n0, k0] [nb, kb]) wb,
         itemMatmul (3 * j + 2) xa wb (decide (0 < j)) (if last then 2 else 0) 0 (if ks.length ≤ 1 then 1 else tilesOf mb nb - 1) none]
      let op := if bias.isNone then 0x01 else if x.fmt.isInt then 0x20 else 0x02
      steps ++ [itemConsume (3 * ks.length) op (3 * ks.length - 1) 1 (y.sub [n0, m0] [nb, mb]) (bias.map fun b => b.sub [n0] [nb])])

/-- The pair over one block: `outX` and `outW` of the last reduction piece. -/
def bwdSteps (e : Nat) (dy x w : TD) (m0 mb n0 nb k0 kb : Nat) (seq : Nat) (contX contW : Bool) (outX outW countX countW : Nat)
    (dx : Option TD) : List StreamItem :=
  let da := bufTd dy.fmt mb nb (bufferOf e)
  let wt := bufTd w.fmt nb kb (bufferOf e + 0x200000)
  let xt := bufTd x.fmt kb mb (bufferOf e + 0x200000 + (nb * pitch w.fmt kb + 63) / 64 * 64)
  [itemMove seq 0 (dy.sub [n0, m0] [nb, mb]) da, itemMove (seq + 1) 1 (w.sub [n0, k0] [nb, kb]) wt,
   itemMove (seq + 2) 1 (x.sub [k0, m0] [kb, mb]) xt,
   itemPair (seq + 3) da wt xt contX contW outX outW 0 countX 128 countW dx none]

/-- Columns of DBIAS from a DY that the vector engine cannot read (R128): its rows come piece by piece into buffer A and are summed there,
pieces of a multiple of 32 rows, so that the bits are those of one sum (R77). -/
def farBias (e : Nat) (dy t : TD) (n0 nb : Nat) : List StreamItem :=
  let sum := bufTd (if dy.fmt.isInt then .int32 else .fp32) 1 nb (bufferOf e + 0x180000)
  let ms := pieces dy.nrows 2048
  (ms.zipIdx.flatMap fun ((m0, mb), j) =>
    let piece := bufTd dy.fmt mb nb (bufferOf e)
    [itemMove (2 * j) 0 (dy.sub [n0, m0] [nb, mb]) piece, itemRedSum (2 * j + 1) piece sum (decide (0 < j))]) ++
  [itemMove (2 * ms.length) 0 sum (t.sub [n0] [nb])]

/-- LINEAR_BWD (R190). A DW of no elements is published to no consumer. -/
def linearBwd (dy x w : TD) (dx : Option TD) (dw : TD) (dbias : Option TD) : Except Status (List Block) :=
  let m := dy.nrows
  let n := dy.ncols
  let k := x.ncols
  if x.nrows ≠ m ∨ w.nrows ≠ k ∨ w.ncols ≠ n ∨ dw.nrows ≠ k ∨ dw.ncols ≠ n ∨ (dx.any fun t => t.nrows != m || t.ncols != k) ∨
      (dbias.any fun t => t.ncols != n) then .error .shapeIllegal
  else
    let outX := if dx.isSome then 1 else 3
    let some_ := decide (0 < n * k)
    let whole := fits2 dy.fmt m n 0x200000 && decide ((n * pitch w.fmt k + 63) / 64 * 64 + k * pitch x.fmt m ≤ 0x200000)
    if whole then
      .ok [fun e =>
        bwdSteps e dy x w 0 m 0 n 0 k 0 false false outX (if some_ then 2 else 3) 1 1 dx ++
          (if some_ then [itemConsume 4 0x01 3 2 dw none] else []) ++
          (match dbias with
           | some t => [itemRedSum 5 (bufTd dy.fmt m n (bufferOf e)) t false]
           | none => [])]
    else
      let dxBlocks : List Block := match dx with
        | none => []
        | some t => ((cuts m 128).flatMap fun a => (cuts k 128).map fun b => (a, b)).map fun ((m0, mb), (k0, kb)) => fun e =>
          let ns := pieces n 2048
          ns.zipIdx.flatMap fun ((n0, nb), j) =>
            let last := j + 1 == ns.length
            bwdSteps e dy x w m0 mb n0 nb k0 kb (4 * j) (decide (0 < j)) false (if last then 1 else 0) 3 (tilesOf mb kb - 1) 1
              (if last then some (t.sub [k0, m0] [kb, mb]) else none)
      let dwBlocks : List Block := ((cuts k 128).flatMap fun a => (cuts n 128).map fun b => (a, b)).map fun ((k0, kb), (n0, nb)) => fun e =>
        let ms := pieces m 2048
        (ms.zipIdx.flatMap fun ((m0, mb), j) =>
          let last := j + 1 == ms.length
          bwdSteps e dy x w m0 mb n0 nb k0 kb (4 * j) false (decide (0 < j)) 3 (if last then 2 else 0) 1 (tilesOf kb nb - 1) none) ++
        [itemConsume (4 * ms.length) 0x01 (4 * ms.length - 1) 2 (dw.sub [n0, k0] [nb, kb]) none]
      .ok (dxBlocks ++ dwBlocks ++ (match dbias with
        | some t => if dy.space = .lcl then [fun _ => [itemRedSum 0 dy t false]] else (cuts n 128).map fun (n0, nb) => fun e => farBias e dy t n0 nb
        | none => []))

/-- The positions of the dimensions above the first two. -/
def planes (t : TD) : List (List Nat) :=
  let outer := t.ext.drop 2
  (List.range (outer.foldl (· * ·) 1)).map (coordsOf outer)

/-- One plane of a TD. -/
def TD.plane (t : TD) (p : List Nat) : TD := t.sub (0 :: 0 :: p) (t.ext.take 2)

/-- Rows of one matrix times the rows of another, over their common columns piece by piece: the products of a strip of at most 32 rows,
published into the galley, or stored in FP32. -/
def scoreSteps (e : Nat) (x y : TD) (m0 mb seq room : Nat) (dst : Option TD) : List StreamItem :=
  let n := y.nrows
  let ds := pieces x.ncols (min 4096 (max 32 (room / pitch y.fmt n / 32 * 32)))
  ds.zipIdx.flatMap fun ((d0, db), j) =>
    let xa := bufTd x.fmt mb db (bufferOf e)
    let yb := bufTd y.fmt db n (bufferOf e + 0x200000)
    let last := j + 1 == ds.length
    [itemMove (seq + 3 * j) 0 (x.sub [d0, m0] [db, mb]) xa, itemMove (seq + 3 * j + 1) 1 (y.sub [d0, 0] [db, n]) yb,
     itemMatmul (seq + 3 * j + 2) xa yb (decide (0 < j)) (if last then (if dst.isSome then 1 else 2) else 0) 0
       (if ds.length ≤ 1 then 1 else tilesOf mb n - 1) (if last then dst else none)]

/-- A strip in an operand buffer, its statistics and its FP32 scores: 32 rows of up to 8,192 elements. -/
def stripTd (e : Nat) (f : Fmt) (mb n : Nat) : TD := bufTd f mb n (bufferOf e + 0x100000)
def stripStats (e mb : Nat) : TD := bufTd .fp32 mb 2 (bufferOf e + 0x80000)
def stripScores (e mb n : Nat) : TD := bufTd .fp32 mb n (bufferOf e + 0x300000)

/-- A strip of P, in buffer A, times the rows of another matrix: the output's columns piece by piece. -/
def stripTimes (e : Nat) (p y out : TD) (m0 mb seq : Nat) : List StreamItem :=
  (cuts y.ncols 128).zipIdx.flatMap fun ((c0, cb), i) =>
    let ns := pieces y.nrows 4096
    ns.zipIdx.flatMap fun ((n0, nb), j) =>
      let yb := bufTd y.fmt nb cb (bufferOf e + 0x200000)
      let s := seq + 2 * (i * ns.length + j)
      let last := j + 1 == ns.length
      [itemMove s 0 (y.sub [c0, n0] [cb, nb]) yb,
       itemMatmul (s + 1) (p.sub [n0, 0] [nb, mb]) yb (decide (0 < j)) (if last then 1 else 0) 0 (tilesOf mb cb - 1)
         (if last then some (out.sub [c0, m0] [cb, mb]) else none)]

/-- One strip of at most 32 queries of ATTENTION_FWD. Without keys its rows have no active element (R148). -/
def attnStrip (e : Nat) (q k v o st : TD) (scale : Nat) (causal : Bool) (m0 mb : Nat) : List StreamItem :=
  let n := k.nrows
  let p := stripTd e v.fmt mb n
  let stats := st.sub [0, m0] [2, mb]
  let soft := if n = 0 then [itemFused 0 4 [p] [p, stats] scale 0 false 0 0]
    else
      let scores := scoreSteps e q k m0 mb 0 0x200000 none
      let s0 := scores.length
      scores ++ [itemSet s0 p, itemFused (s0 + 1) 6 [] [p, stats] scale 0 causal m0 (0xF000 + (s0 - 1) % 0x1000)]
  soft ++ stripTimes e p v o m0 mb soft.length

/-- ATTENTION_FWD (R190). -/
def attentionFwd (q k v o st : TD) (scale : Nat) (causal : Bool) : Except Status (List Block) :=
  if k.ncols ≠ q.ncols ∨ v.nrows ≠ k.nrows ∨ o.nrows ≠ q.nrows ∨ o.ncols ≠ v.ncols ∨ st.ncols ≠ 2 ∨ st.nrows ≠ q.nrows ∨
      !([k, v, o, st].all fun t => t.ext.drop 2 == q.ext.drop 2) then .error .shapeIllegal
  else .ok ((planes q).flatMap fun p => (cuts q.nrows 32).map fun (m0, mb) => fun e =>
    attnStrip e (q.plane p) (k.plane p) (v.plane p) (o.plane p) (st.plane p) scale causal m0 mb)

/-- P of a strip from its FP32 scores and the statistics of the forward pass (R147), which come to a buffer first: each element's scaled score
less the row's `m`, its exponential, over the row's `s`. A causal row takes its active elements alone (R148). -/
def formP (seq : Nat) (s st stB p : TD) (scale : Nat) (causal : Bool) (off : Nat) : List StreamItem :=
  let n := p.ncols
  let m := p.nrows
  let boxes : List (Nat × Nat × Nat) := if causal then (List.range m).map fun i => (i, 1, min n (off + i + 1)) else [(0, m, n)]
  [itemMove seq 0 st stB, itemSet (seq + 1) p] ++ boxes.zipIdx.flatMap fun ((i, rows, len), k) =>
    let x := s.sub [0, i] [len, rows]
    let sq := seq + 2 + 3 * k
    [itemVec sq 0x04 0 x (.inr scale) x, itemVec (sq + 1) 0x03 0x0A x (.inl (stB.sub [0, i] [1, rows])) x,
     itemVec (sq + 2) 0x06 0 x (.inl (stB.sub [1, i] [1, rows])) (p.sub [0, i] [len, rows])]

/-- P of a strip of queries in buffer A. -/
def attnP (e : Nat) (fmt : Fmt) (q k st : TD) (scale : Nat) (causal : Bool) (m0 mb seq : Nat) : List StreamItem :=
  let s := stripScores e mb k.nrows
  let scores := scoreSteps e q k m0 mb seq 0x100000 (some s)
  scores ++ formP (seq + scores.length) s (st.sub [0, m0] [2, mb]) (stripStats e mb) (stripTd e fmt mb k.nrows) scale causal m0

/-- dS of a strip of queries, in the place of its P. -/
def attnDs (e : Nat) (fmt : Fmt) (dO v : TD) (scale : Nat) (m0 mb seq : Nat) : List StreamItem :=
  let p := stripTd e fmt mb v.nrows
  let steps := scoreSteps e dO v m0 mb seq 0x200000 none
  let s0 := seq + steps.length
  steps ++ [itemFused s0 7 [p] [p] scale 0 false 0 (0xF000 + (s0 - 1) % 0x1000)]

/-- A strip of dQ: dS times K, as the first product of backward pairs whose second one is dropped. -/
def attnDq (e : Nat) (q k v dO st dq : TD) (scale : Nat) (causal : Bool) (m0 mb : Nat) : List StreamItem :=
  let pre := attnP e k.fmt q k st scale causal m0 mb 0
  let mid := attnDs e k.fmt dO v scale m0 mb pre.length
  let s0 := pre.length + mid.length
  let p := stripTd e k.fmt mb k.nrows
  let w := min 32 q.ncols
  pre ++ mid ++ (cuts k.ncols 128).zipIdx.flatMap fun ((c0, cb), i) =>
    let ns := pieces k.nrows 2048
    ns.zipIdx.flatMap fun ((n0, nb), j) =>
      let kb := bufTd k.fmt nb cb (bufferOf e + 0x200000)
      let qt := bufTd q.fmt w mb (bufferOf e + 0x300000)
      let s := s0 + 3 * (i * ns.length + j)
      let last := j + 1 == ns.length
      [itemMove s 0 (k.sub [c0, n0] [cb, nb]) kb, itemMove (s + 1) 1 (q.sub [0, m0] [w, mb]) qt,
       itemPair (s + 2) (p.sub [n0, 0] [nb, mb]) kb qt (decide (0 < j)) false (if last then 1 else 0) 3 0 (tilesOf mb cb - 1) 254 1
         (if last then some (dq.sub [c0, m0] [cb, mb]) else none) none]

/-- A block of dK (Qᵀ times dS, the second product of backward pairs) or of dV (Pᵀ times dO), summed over the strips of queries. The
accumulators rest in buffer A while the next strip's scores use the slots. -/
def attnDkv (e : Nat) (ds : Bool) (q k v dO st out : TD) (scale : Nat) (causal : Bool) (k0 kb c0 cb : Nat) : List StreamItem :=
  let src := if ds then q else dO
  let fmt := if ds then k.fmt else v.fmt
  let strips := cuts q.nrows 32
  let tiles := tilesOf kb cb
  let line (base : Nat) : TD := { bufTd .fp32 1 (tiles * 1024) base with ndim := 1, stride := List.replicate 6 0 }
  let slots := line (bufferOf e + 0x400000)
  let save := line (bufferOf e + 0x90000)
  (strips.zipIdx.foldl (fun (l : List StreamItem) ((m0, mb), j) =>
    let pre := attnP e fmt q k st scale causal m0 mb l.length
    let mid := if ds then attnDs e fmt dO v scale m0 mb (l.length + pre.length) else []
    let s0 := l.length + pre.length + mid.length
    let p := (stripTd e fmt mb k.nrows).sub [k0, 0] [kb, mb]
    let last := j + 1 == strips.length
    let w := min 32 k.ncols
    let dst := if last then some (out.sub [c0, k0] [cb, kb]) else none
    l ++ pre ++ mid ++ (if 0 < j then [itemMove s0 0 save slots] else []) ++
      (if ds then
        let wt := bufTd k.fmt kb w (bufferOf e + 0x200000)
        let xt := bufTd q.fmt cb mb (bufferOf e + 0x300000)
        [itemMove (s0 + 1) 0 (k.sub [0, k0] [w, kb]) wt, itemMove (s0 + 2) 1 (q.sub [c0, m0] [cb, mb]) xt,
         itemPair (s0 + 3) p wt xt false (decide (0 < j)) 3 (if last then 1 else 0) 254 1 0 (tiles - 1) none (dst.map TD.transposed)]
      else
        let at_ := bufTd fmt kb mb (bufferOf e)
        let sb := bufTd src.fmt mb cb (bufferOf e + 0x200000)
        [itemMove (s0 + 1) 1 p at_, itemMove (s0 + 2) 0 (src.sub [c0, m0] [cb, mb]) sb,
         itemMatmul (s0 + 3) at_ sb (decide (0 < j)) (if last then 1 else 0) 0 (tiles - 1) dst]) ++
      (if last then [] else [itemMove (s0 + 4) 0 slots save])) [])

/-- One plane of ATTENTION_BWD that the buffers hold whole: P is formed again, then dP and dS, then dQ and dKᵀ as a backward pair and dV
as a product with Pᵀ. -/
def attnBack (e : Nat) (dO q k v st dq dk dv : TD) (scale : Nat) (causal : Bool) : List StreamItem :=
  let m := q.nrows
  let n := k.nrows
  let up (x : Nat) : Nat := (x + 0x3FFF) / 0x4000 * 0x4000
  let a := bufferOf e
  let b := a + 0x200000
  let stats := bufTd .fp32 m 2 a
  let pBase := a + up (m * 64)
  let p := bufTd v.fmt m n pBase
  let dBase := pBase + up (m * pitch v.fmt n)
  let ds := bufTd k.fmt m n dBase
  let lhs := dBase + up (m * pitch k.fmt n)
  let qa := bufTd q.fmt m q.ncols lhs
  let kt := bufTd k.fmt q.ncols n b
  let s := bufTd .fp32 m n (b + up (q.ncols * pitch k.fmt n))
  let doA := bufTd dO.fmt m dO.ncols lhs
  let vt := bufTd v.fmt v.ncols n b
  let kb := bufTd k.fmt n k.ncols b
  let qt := bufTd q.fmt q.ncols m (b + up (n * pitch k.fmt k.ncols))
  let pt := bufTd v.fmt n m b
  let pre := [itemMove 0 0 q qa, itemMove 1 1 k kt, itemMatmul 2 qa kt false 1 0 1 (some s)] ++ formP 3 s st stats p scale causal 0
  let s0 := pre.length
  pre ++
  [itemMove s0 0 dO doA, itemMove (s0 + 1) 1 v vt, itemMatmul (s0 + 2) doA vt false 2 0 1 none,
   itemFused (s0 + 3) 7 [p] [ds] scale 0 false 0 (0xF000 + (s0 + 2) % 0x1000),
   itemMove (s0 + 4) 0 k kb, itemMove (s0 + 5) 1 q qt, itemPair (s0 + 6) ds kb qt false false 1 1 0 1 2 1 (some dq) (some dk.transposed),
   itemMove (s0 + 7) 1 p pt, itemMove (s0 + 8) 0 dO doA, itemMatmul (s0 + 9) pt doA false 1 0 1 (some dv)]

/-- The buffers hold everything that a whole plane needs at once, and the plane's rows fit a fused kernel that takes its tiles from the galley
(R150). -/
def attnWhole (dO q k v : TD) : Bool :=
  let m := q.nrows
  let n := k.nrows
  let up (x : Nat) : Nat := (x + 0x3FFF) / 0x4000 * 0x4000
  decide (n ≤ 8192) &&
  decide (up (m * 64) + up (m * pitch v.fmt n) + up (m * pitch k.fmt n) + max (m * pitch q.fmt q.ncols) (m * pitch dO.fmt dO.ncols) ≤ 0x200000) &&
  decide (up (q.ncols * pitch k.fmt n) + m * pitch .fp32 n ≤ 0x200000) && fits2 v.fmt v.ncols n 0x200000 && fits2 v.fmt n m 0x200000 &&
  decide (up (n * pitch k.fmt k.ncols) + q.ncols * pitch q.fmt m ≤ 0x200000)

/-- ATTENTION_BWD (R190): a plane whole where the buffers hold it, and otherwise its outputs block by block. Without queries or without keys its
outputs are sums over nothing. -/
def attentionBwd (dO q k v st dq dk dv : TD) (scale : Nat) (causal : Bool) : Except Status (List Block) :=
  if k.ncols ≠ q.ncols ∨ v.nrows ≠ k.nrows ∨ dO.nrows ≠ q.nrows ∨ dO.ncols ≠ v.ncols ∨ dq.ext ≠ q.ext ∨ dk.ext ≠ k.ext ∨ dv.ext ≠ v.ext ∨
      st.ncols ≠ 2 ∨ st.nrows ≠ q.nrows ∨ !([dO, k, v, st].all fun t => t.ext.drop 2 == q.ext.drop 2) then .error .shapeIllegal
  else if q.nrows = 0 ∨ k.nrows = 0 then .ok [fun _ => [itemSet 0 dq, itemSet 1 dk, itemSet 2 dv]]
  else .ok ((planes q).flatMap fun pl =>
    let (o, q, k, v, st) := (dO.plane pl, q.plane pl, k.plane pl, v.plane pl, st.plane pl)
    let (dq, dk, dv) := (dq.plane pl, dk.plane pl, dv.plane pl)
    if attnWhole o q k v then [fun e => attnBack e o q k v st dq dk dv scale causal]
    else
      let rows : List Block := (cuts q.nrows 32).map fun (m0, mb) => fun e => attnDq e q k v o st dq scale causal m0 mb
      let keys (ds : Bool) (out : TD) : List Block :=
        ((cuts k.nrows 128).flatMap fun a => (cuts out.ncols 128).map fun b => (a, b)).map fun ((k0, kb), (c0, cb)) => fun e =>
          attnDkv e ds q k v o st out scale causal k0 kb c0 cb
      rows ++ keys true dk ++ keys false dv)

/-- NORM_FWD (R190); a null BETA reads as a row of zeros. -/
def normFwd (x g : TD) (beta : Option TD) (y st : TD) (eps : Nat) (rms : Bool) : List Block :=
  if rms then [fun _ => [itemFused 0 2 [x, g] [y, st] eps 0 false 0 0]]
  else match beta with
    | some b => [fun _ => [itemFused 0 0 [x, g, b] [y, st] eps 0 false 0 0]]
    | none => [fun e => let z := bufTd .fp32 1 x.ncols (bufferOf e); [itemSet 0 z, itemFused 1 0 [x, g, z] [y, st] eps 0 false 0 0]]

/-- NORM_BWD (R190); a null DBETA is summed into an operand buffer. -/
def normBwd (dy x g st dx dg : TD) (db : Option TD) (rms : Bool) : List Block :=
  if rms then [fun _ => [itemFused 0 3 [dy, x, g, st] [dx, dg] 0 0 false 0 0]]
  else match db with
    | some b => [fun _ => [itemFused 0 1 [dy, x, g, st] [dx, dg, b] 0 0 false 0 0]]
    | none => [fun e => let z := bufTd .fp32 1 x.ncols (bufferOf e); [itemSet 0 z, itemFused 1 1 [dy, x, g, st] [dx, dg, z] 0 0 false 0 0]]

/-- The operators of R190. -/
inductive Operator
  | linearFwd | linearBwd | attentionFwd | attentionBwd | normFwd | normBwd | xent
  deriving DecidableEq, Repr

def Operator.ofId : Nat → Option Operator
  | 0x0001 => some .linearFwd | 0x0002 => some .linearBwd | 0x0010 => some .attentionFwd | 0x0011 => some .attentionBwd
  | 0x0020 => some .normFwd | 0x0021 => some .normBwd | 0x0030 => some .xent
  | _ => none

/-- The blocks of a CALL, from its arguments and scalars (R187, R190). -/
def expandCall (op : Operator) (ent : QEntry) : Except Status (List Block) := do
  let s := ent.slug
  let ref (i : Nat) : Nat := fld s (105 + 10 * i) (96 + 10 * i)
  let s0 := fld s 287 256
  let flag := bit s 288
  match op with
  | .linearFwd => linearFwd (← ent.tdReq (ref 0)) (← ent.tdReq (ref 1)) (← ent.td? (ref 2)) (← ent.tdReq (ref 3))
  | .linearBwd =>
    linearBwd (← ent.tdReq (ref 0)) (← ent.tdReq (ref 1)) (← ent.tdReq (ref 2)) (← ent.td? (ref 3)) (← ent.tdReq (ref 4)) (← ent.td? (ref 5))
  | .attentionFwd =>
    attentionFwd (← ent.tdReq (ref 0)) (← ent.tdReq (ref 1)) (← ent.tdReq (ref 2)) (← ent.tdReq (ref 3)) (← ent.tdReq (ref 4)) s0 flag
  | .attentionBwd =>
    let _o ← ent.tdReq (ref 4)
    attentionBwd (← ent.tdReq (ref 0)) (← ent.tdReq (ref 1)) (← ent.tdReq (ref 2)) (← ent.tdReq (ref 3)) (← ent.tdReq (ref 5))
      (← ent.tdReq (ref 6)) (← ent.tdReq (ref 7)) (← ent.tdReq (fld s 329 320)) s0 flag
  | .normFwd => return normFwd (← ent.tdReq (ref 0)) (← ent.tdReq (ref 1)) (← ent.td? (ref 2)) (← ent.tdReq (ref 3)) (← ent.tdReq (ref 4)) s0 flag
  | .normBwd =>
    return normBwd (← ent.tdReq (ref 0)) (← ent.tdReq (ref 1)) (← ent.tdReq (ref 2)) (← ent.tdReq (ref 3)) (← ent.tdReq (ref 4))
      (← ent.tdReq (ref 5)) (← ent.td? (ref 6)) flag
  | .xent =>
    let x ← ent.tdReq (ref 0)
    let l ← ent.tdReq (ref 1)
    let dx ← ent.tdReq (ref 2)
    let rows ← ent.tdReq (ref 3)
    let loss ← ent.tdReq (ref 4)
    return [fun _ => [itemFused 0 8 [x, l] [dx, rows, loss] s0 (fld s 319 288) false 0 0]]

end Sys2Proof.Machine
end

