-- ==== Sys2Proof/Machine/Control.lean ====
section
/-!
DEFINITION. The control core (chapter 6): QUOIN and WAIT, the CONTROL slugs, CALL and its parts, completion records and rings, and
what a fault does to the stream.
-/
namespace Sys2Proof.Machine

namespace Chip

/-! ### The control core -/

/-- The shape of every row of the CONTROL and QUOIN classes: the slug is issued if the firmware issues one, admission proceeds, and
the control core takes the slug at the front of the stream when it is free and the slug is of the row (R158). -/
def runCore (c : Chip) (e : Nat) (w : Option SlugWord) (isRow : SlugWord → Bool) (run : Chip → StreamItem → QEntry → Chip) : Chip :=
  let c1 := (c.issueFirst e w).pumpE e
  match (c1.engine e).stream with
  | [] => c1
  | it :: _ =>
    if c1.admits e && isRow it.slug then
      let (ent, c2) := (c1.popStream e).makeEntry e it
      let run1 := match c2.sessionError ent with
        | some st => c2.finishNow e ent st
        | none => run c2 it { ent with began := true }
      run1.pumpE e
    else c1

/-- The control core holds a slug. -/
def hold (c : Chip) (e : Nat) (ent : QEntry) : Chip := c.onEngine e fun x => { x with core := some ent }

/-- The slug that the control core holds ends, and admission goes on. -/
def endCore (c : Chip) (e : Nat) (ent : QEntry) (st : Status) : Chip :=
  ((((c.clearRemote e ent.id).notePathAt (e / 16) [fld ent.slug 191 128] st).onEngine e fun x => { x with core := none }).finishNow e ent st).pumpE e

/-! ### QUOIN and WAIT (R173 to R176) -/

/-- Reserved encodings and placement of the QUOIN class. -/
def checkQuoin (s : SlugWord) : Except Status Unit := do
  failIf (!rsvdZero s [(75, 5), (96, 32), (256, 256)] || decide (1 < slugOp s) || fld s 73 72 == 3 ||
    (slugOp s == 0 && decide (5 < fld s 70 68))) .reservedEncoding
  failIf (slugOp s == 0 && bit s 71 && fld s 191 128 % 8 != 0) .placeIllegal
  failIf (slugOp s == 1 && (fld s 73 72 != 0 || fld s 191 128 % 8 != 0)) .placeIllegal

/-- A QUOIN or WAIT begins: it holds every later slug. -/
def beginQuoin (c : Chip) (e : Nat) (_ : StreamItem) (ent : QEntry) : Chip :=
  match checkQuoin ent.slug with
  | .error st => c.finishNow e ent st
  | .ok () => c.hold e ent

/-- The flag write of a QUOIN (R174, R331, R332): done, waiting, or failed. -/
def quoinFlag (c : Chip) (e : Nat) (ent : QEntry) : Gather × Chip :=
  let s := ent.slug
  let a := fld s 191 128
  let bytes := toBytes 8 (fld s 255 192)
  if !bit s 71 then (.ready, c)
  else match fld s 73 72 with
    | 0 =>
      if p2 48 ≤ a then (.failed .addrUnmapped, c)
      else match c.writeLocal (e / 16) (some e) (cellsAt a bytes) with
        | .ok c1 => (.ready, c1)
        | .error st => (.failed st, c)
    | 1 =>
      if a >>> 48 = c.fab.deviceId ∧ c.fab.idValid then
        if c.broadsheetOk (a % p2 48) then
          match c.writeLocal (e / 16) (some e) (cellsAt (a % p2 48) bytes) with
          | .ok c1 => (.ready, c1)
          | .error st => (.failed st, c)
        else (.failed .addrRefused, c)
      else if ent.prog.phase = 0 then
        (.waiting, ((c.patchFar e (cellsAt a bytes)).sendWrites e ent.id e 256 (cellsAt a bytes)).hold e { ent with prog := { ent.prog with phase := 1 } })
      else if c.fabWaiting e ent.id then (.waiting, c)
      else match (c.fabAnswers e ent.id).findSome? fun r => match r.answer with
          | some (st, _) => if st = .success then none else some st
          | none => none with
        | some st => (.failed st, c)
        | none => (.ready, c)
    | _ =>
      if p2 52 ≤ a then (.failed .addrUnmapped, c)
      else if c.hostShut e then (.failed .pathReset, c)
      else if !c.hostAvail then (.waiting, c)
      else if fld s 70 68 = 5 then (.ready, c.hostThrough (some e) (cellsAt a bytes))
      else match (c.host.reqs.findSome? fun r => if r.engine == e && r.entry == ent.id then r.answer else none) with
        | some (_, true) => (.failed .hostPoison, c)
        | _ =>
          if c.hostOwns e ent.id (a / 64) then (.ready, (c.hostTouch [a / 64]).hostStore (some e) (cellsAt a bytes))
          else if c.host.reqs.any fun r => r.engine == e && r.entry == ent.id && r.answer.isNone then (.waiting, c)
          else (.waiting, c.askHost e ent.id (a / 64) .rdOwn)

/-- A request that writes memory of another device (R309, R313, R316). -/
def writesFar (r : FabReq) : Bool :=
  fld r.thdr 7 0 == opWrite || fld r.thdr 7 0 == opAtomic || fld r.thdr 7 0 == opA2aRows || fld r.thdr 7 0 == opA2aMark

/-- Writes of the engine's earlier slugs that are not performed within BROADSHEET scope: those of ended slugs that await their RESPONSE, and invalidations that a watcher has not accepted (R203, R317). The wait for the device's every invalidation is
DEDUCED, log entry 85. -/
def farPending (c : Chip) (e id : Nat) : Bool :=
  c.fab.reqs.any fun r => r.answer.isNone &&
    ((r.engine == e && r.orphan && decide (r.entry < id) && writesFar r) ||
     (r.engine == fabUnit && fld r.thdr 7 0 == opInval))

/-- A parked engine's control core holds still, and so does whatever its slugs wait for (R419). -/
def moving (c : Chip) (e : Nat) (go : Chip → Chip) : Chip := if (c.engine e).parked then c else go c

/-- A QUOIN completes once every slug admitted before it has completed and their writes are visible within its scope (R174, R175,
R317, R331, R332). -/
def quoinComplete (c : Chip) (e : Nat) : Chip :=
  match (c.engine e).core with
  | none => c
  | some ent =>
    if slugClass ent.slug = 4 ∧ slugOp ent.slug = 0 then
      match c.sessionError ent with
      | some st => c.endCore e ent st
      | none =>
        if (c.engine e).earlierRuns ent.id || (decide (3 ≤ fld ent.slug 70 68) && c.farPending e ent.id) then c
        else if fld ent.slug 70 68 = 5 ∧ !c.ringAvail e then c
        else
          let c1 := if fld ent.slug 70 68 = 5 then c.hostFlush fun _ => true else c
          match c1.quoinFlag e ent with
          | (.ready, c2) => c2.endCore e ent .success
          | (.waiting, c2) => c2
          | (.failed st, c2) => c2.endCore e ent st
    else c

/-- Memory that a slug of the control core reaches is still held by an earlier slug of the engine (R95). -/
def coreBlocked (c : Chip) (e : Nat) (ent : QEntry) (a n : Nat) (w : Bool) : Bool :=
  let codes := trackedIn e a (a + n)
  (c.engine e).blockedAt e ent (if w then { writes := codes } else { reads := codes })

/-- The flag word of a WAIT, and whether it meets the condition (R95, R176). -/
def waitMet (c : Chip) (e : Nat) (ent : QEntry) : Except Status Bool :=
  let s := ent.slug
  let a := fld s 191 128
  if c.coreBlocked e ent a 8 false then .ok false
  else if p2 48 ≤ a then .error .addrUnmapped
  else match c.readLocal (e / 16) (addrRange a 8) with
    | .error st => .error st
    | .ok bs =>
      let v := ofBytes bs
      let want := fld s 255 192
      .ok (if bit s 74 then v == want else decide (want ≤ v))

/-- The WAIT that the control core holds reads its word: it completes when the condition holds, or with the fault of the read. -/
def waitSatisfied (c : Chip) (e : Nat) : Chip :=
  match (c.engine e).core with
  | none => c
  | some ent =>
    if slugClass ent.slug = 4 ∧ slugOp ent.slug = 1 then
      match c.waitMet e ent with
      | .ok true => c.endCore e ent .success
      | .ok false => c
      | .error st =>
        (match c.ueAt (addrRange (fld ent.slug 191 128) 8) with | some a => c.ueEvent a | none => c).endCore e ent st
    else c

/-- The WAIT's TIMEOUT expires before its word meets the condition (R176). -/
def waitTimeout (c : Chip) (e : Nat) : Chip :=
  match (c.engine e).core with
  | none => c
  | some ent =>
    if slugClass ent.slug = 4 ∧ slugOp ent.slug = 1 ∧ fld ent.slug 95 80 ≠ 0 then
      match c.waitMet e ent with
      | .ok true => c
      | _ => c.endCore e ent .waitTimeout
    else c

/-! ### CONTROL slugs (R177 to R179, R181) -/

/-- The check of a CONTROL slug (R177, R178). -/
def checkControl (s : SlugWord) : Except Status Unit := do
  let a := fld s 191 128
  match slugOp s with
  | 0 => failIf (!rsvdZero s [(68, 444)]) .reservedEncoding
  | 1 =>
    failIf (!rsvdZero s [(90, 38), (192, 320)] || fld s 87 78 == 0 || fld s 89 88 == 3) .reservedEncoding
    failIf (decide (0x300 < fld s 77 68 + fld s 87 78) || a % 64 != 0) .placeIllegal
  | 2 => failIf (!rsvdZero s [(94, 2), (176, 80), (384, 128)] || fld s 93 92 == 3) .reservedEncoding
  | 3 =>
    failIf (!rsvdZero s [(68, 20), (90, 38), (224, 288)] || fld s 89 88 == 3 || fld s 223 192 == 0 || decide (65536 < fld s 223 192)) .reservedEncoding
    failIf (a % 64 != 0) .placeIllegal
  | 4 =>
    failIf (!rsvdZero s [(68, 60), (197, 315)] || decide (fld s 196 192 < 4 ∨ 16 < fld s 196 192)) .reservedEncoding
    failIf (decide (p2 48 ≤ a) || a % 16 != 0) .placeIllegal
  | _ => failIf true .reservedEncoding

/-- Bytes that the control core reads for a TD_LOAD or a LIST: at once, once earlier slugs have left the blocks they lie in (R95), or once the
RESPONSEs of another device have come. Neither a
TD_LOAD or LIST, nor the flag of a QUOIN or WAIT, reaches the device register region: the access is unmapped (DESIGN CHOICE, log
entry 86). -/
def coreRead (c : Chip) (e : Nat) (ent : QEntry) (space a n : Nat) : Except Status (Option (List Byte)) × Chip :=
  match space with
  | 0 =>
    if p2 48 ≤ a then (.error .addrUnmapped, c)
    else if c.coreBlocked e ent a n false then (.ok none, c.hold e ent)
    else match c.readLocal (e / 16) (addrRange a n) with
      | .ok bs => (.ok (some bs), c)
      | .error st => (.error st, match c.ueAt (addrRange a n) with | some u => c.ueEvent u | none => c)
  | 1 =>
    if a >>> 48 = c.fab.deviceId ∧ c.fab.idValid then
      if (addrRange (a % p2 48) n).all c.broadsheetOk then
        match c.readLocal (e / 16) (addrRange (a % p2 48) n) with
        | .ok bs => (.ok (some bs), c)
        | .error st => (.error st, c)
      else (.error .addrRefused, c)
    else if ent.prog.phase = 0 then
      let c1 := (splitRun 256 n a n).foldl (fun c (b, k) =>
        c.request e ent.id 0 (b >>> 48) { opcode := opRead, dst := b >>> 48, addr := b % p2 48, unit := e, lenW := k / 4 } []) c
      (.ok none, c1.hold e { ent with prog := { ent.prog with phase := 1 } })
    else if c.fabWaiting e ent.id then (.ok none, c)
    else
      let (ent1, bad, c1) := c.absorb e ent
      (match bad, fromGot ent1.prog.gotB a n with
      | some st, _ => (.error st, c1)
      | none, some bs => (.ok (some bs), c1)
      | none, none => (.error .addrRefused, c1))
  | _ =>
    if c.hostShut e then (.error .pathReset, c)
    else match c.hostRead a n with
    | (none, c) => (.ok none, c.hold e ent)
    | (some (.ok bs), c) => (.ok (some bs), c)
    | (some (.error st), c) => (.error st, c)

/-- A list of bytes as 64-byte words. -/
def words64 : Nat → List Byte → List (BitVec 512)
  | 0, _ => []
  | n + 1, bs => BitVec.ofNat 512 (ofBytes (bs.take 64)) :: words64 n (bs.drop 64)

/-- A slug the control core has carried out: it ends, whether it held the core or not. -/
def coreDone (c : Chip) (e : Nat) (ent : QEntry) (st : Status) : Chip :=
  (((c.clearRemote e ent.id).onEngine e fun x => { x with core := none }).finishNow e ent st)

/-- NOP (R177). -/
def controlNop (c : Chip) (e : Nat) (_ : StreamItem) (ent : QEntry) : Chip :=
  match checkControl ent.slug with
  | .error st => c.finishNow e ent st
  | .ok () => c.finishNow e ent .success

/-- TD_LOAD once its source can be read (R178). -/
def tdLoadRead (c : Chip) (e : Nat) (ent : QEntry) : Chip :=
  let s := ent.slug
  let n := fld s 87 78
  match c.coreRead e ent (fld s 89 88) (fld s 191 128) (64 * n) with
  | (.error st, c1) => c1.coreDone e ent st
  | (.ok none, c1) => c1
  | (.ok (some bs), c1) =>
    (c1.onEngine e fun x => { x with tds := (words64 n bs).zipIdx.foldl (fun t (w, i) => Tab.set (fld s 77 68 + i) w t) x.tds }).coreDone e ent .success

def tdLoad (c : Chip) (e : Nat) (_ : StreamItem) (ent : QEntry) : Chip :=
  match checkControl ent.slug with
  | .error st => c.finishNow e ent st
  | .ok () => c.tdLoadRead e ent

/-- A deeper level than the fourth (R157). -/
def tooDeep (ent : QEntry) : Bool := decide (3 < ent.depth)

/-- LIST once its slugs can be read: they stand before every slug after it (R157, R179). -/
def listRead (c : Chip) (e : Nat) (ent : QEntry) : Chip :=
  let s := ent.slug
  let n := fld s 223 192
  match c.coreRead e ent (fld s 89 88) (fld s 191 128) (64 * n) with
  | (.error st, c1) => c1.coreDone e ent st
  | (.ok none, c1) => c1
  | (.ok (some bs), c1) =>
    let org := match ent.origin with
      | .ring | .list => Origin.list
      | o => o
    let items := (words64 n bs).map fun w => ({ slug := w, origin := org, depth := ent.depth + 1, call := ent.call } : StreamItem)
    (c1.onEngine e fun x => { x with
      stream := items ++ x.stream,
      calls := x.calls.map fun k => if some k.id = ent.call then { k with left := k.left + n } else k }).coreDone e ent .success

def listSlug (c : Chip) (e : Nat) (_ : StreamItem) (ent : QEntry) : Chip :=
  match checkControl ent.slug with
  | .error st => c.finishNow e ent st
  | .ok () => if tooDeep ent then c.finishNow e ent .nestDepth else c.listRead e ent

/-- A TD_LOAD, LIST or CRING_SET that waits for the memory it reaches goes on. -/
def coreResume (c : Chip) (e op : Nat) (go : Chip → QEntry → Chip) : Chip :=
  match (c.engine e).core with
  | none => c
  | some ent =>
    if slugClass ent.slug = 9 ∧ slugOp ent.slug = op then
      match c.sessionError ent with
      | some st => c.endCore e ent st
      | none => (go c ent).pumpE e
    else c

/-- CRING_SET once its consumed-count word can be written: the word is zeroed, then the ring is placed (R95, R181). A word that cannot be zeroed
ends the slug with the status of that write, and the ring in force stays (DEDUCED, log entry 87). -/
def cringPlace (c : Chip) (e : Nat) (ent : QEntry) : Chip :=
  let base := fld ent.slug 191 128
  if c.coreBlocked e ent (base - 8) 8 true then c.hold e ent
  else match (if base < 8 then .error .addrUnmapped else c.writeLocal (e / 16) (some e) (cellsAt (base - 8) (toBytes 8 0))) with
    | .ok c1 => (c1.onEngine e fun x => { x with cring := { base, log2 := fld ent.slug 196 192, dflt := false } }).coreDone e ent .success
    | .error st => c.coreDone e ent st

def cringSet (c : Chip) (e : Nat) (_ : StreamItem) (ent : QEntry) : Chip :=
  match checkControl ent.slug with
  | .error st => c.finishNow e ent st
  | .ok () => c.cringPlace e ent

/-! ### CALL (R187 to R190) -/

/-- Engines in service within a span, in engine-number order (R188). -/
def spanEngines (c : Chip) (e span : Nat) : List Nat :=
  let all := match span with
    | 0 => [e]
    | 1 => (List.range 16).map (16 * (e / 16) + ·)
    | _ => List.range 64
  all.filter fun i => i == e || !(c.engine i).retired

/-- The slugs of the blocks that fall to the engine at place `i` of `n`. -/
def shareOf (blocks : List Block) (engine i n : Nat) : List StreamItem :=
  (blocks.zipIdx.filter fun (_, k) => k % n == i).flatMap fun (b, _) => b engine

/-- A CALL of an operator. -/
def callSlug (op : Operator) (c : Chip) (e : Nat) (_ : StreamItem) (ent : QEntry) : Chip :=
  match checkControl ent.slug with
  | .error st => c.finishNow e ent st
  | .ok () =>
    if fld ent.slug 91 84 ≠ 1 then c.finishNow e ent .operatorAbsent
    else if tooDeep ent then c.finishNow e ent .nestDepth
    else match expandCall op ent with
      | .error st => c.finishNow e ent st
      | .ok blocks =>
        let es := c.spanEngines e (fld ent.slug 93 92)
        let shares := es.zipIdx.map fun (m, i) => (m, shareOf blocks m i es.length)
        let id := (c.engine e).nextCall
        let tag (k : Nat) (l : List StreamItem) : List StreamItem := l.map fun it => { it with depth := ent.depth + 1, call := some k }
        let mine := (shares.filter fun p => p.1 == e).flatMap (·.2)
        let others := shares.filter fun p => p.1 != e && !p.2.isEmpty
        let ctx : CallCtx := { id, entry := ent, left := mine.length, parts := others.map (·.1) }
        let c1 := others.foldl (fun c (m, l) => c.onEngine m fun x =>
          { x with callParts := x.callParts ++ [{ leader := e, id, entry := ent, items := l }] }) c
        if mine.isEmpty && others.isEmpty then c1.finishNow e ent .success
        else c1.onEngine e fun x => { x with nextCall := id + 1, calls := x.calls ++ [ctx], stream := tag id mine ++ x.stream }

/-- A CALL whose operator the firmware does not carry (R187). -/
def callAbsent (c : Chip) (e : Nat) (_ : StreamItem) (ent : QEntry) : Chip :=
  match checkControl ent.slug with
  | .error st => c.finishNow e ent st
  | .ok () => c.finishNow e ent .operatorAbsent

/-- A member runs its delivered part between two of its own slugs (R188). -/
def callPart (c : Chip) (e : Nat) : Chip :=
  match (c.engine e).callParts with
  | [] => c
  | p :: rest =>
    if c.admits e then
      (c.onEngine e fun x =>
        let id := x.nextCall
        { x with
          callParts := rest, nextCall := id + 1,
          calls := x.calls ++ [{ id, entry := p.entry, left := p.items.length, leader := some (p.leader, p.id) }],
          stream := p.items.map (fun it => { it with depth := 1, call := some id }) ++ x.stream }).pumpE e
    else c

/-- The first status of a list of part results, in engine-number order (R188). -/
def firstFault (fs : List (Nat × Status)) : Status :=
  match fs with
  | [] => .success
  | f :: rest => (rest.foldl (fun b x => if x.1 < b.1 then x else b) f).2

/-- CALL contexts that have nothing left end: a leader's CALL, or a member's part, which tells its leader. `fuel` bounds the
contexts. -/
def settleCalls : Nat → Nat → Chip → Chip
  | 0, _, c => c
  | fuel + 1, e, c =>
    match (c.engine e).calls.find? fun k => k.left == 0 && k.parts.isEmpty with
    | none => c
    | some k =>
      let c1 := c.onEngine e fun x => { x with calls := x.calls.filter fun q => q.id != k.id }
      match k.leader with
      | none => settleCalls fuel e (c1.finishNow e k.entry (firstFault k.faults))
      | some (l, id) =>
        let c2 := c1.onEngine l fun x => { x with calls := x.calls.map fun q =>
          if q.id = id ∧ q.leader.isNone then
            { q with parts := q.parts.erase e, faults := if k.faults.isEmpty then q.faults else q.faults ++ [(e, firstFault k.faults)] }
          else q }
        settleCalls fuel e (settleCalls fuel l c2)

/-! ### Flushing (R185) -/

/-- Every admitted slug that has not begun and that `sel` selects completes with FLUSHED; a galley consumer is flushed into a drain, so
that no array waits on it (R141, R185). -/
def flushQueues (c : Chip) (e : Nat) (sel : QEntry → Bool) : Chip :=
  QId.all.foldl (fun c q =>
    ((c.engine e).queue q).foldl (fun c ent =>
      if ent.began || !sel ent then c
      else if isConsumer ent.slug then
        c.updEntry e q { ent with began := true, prog := { ent.prog with phase := 1, drain := some .flushed } }
      else (c.dropEntry e q ent.id).finishNow e ent .flushed) c) c

/-- The rest of an expansion is flushed: unadmitted slugs leave the stream, admitted ones that have not begun end FLUSHED. -/
def flushCall (c : Chip) (e id : Nat) : Chip :=
  let gone := ((c.engine e).stream.filter fun it => it.call == some id).length
  (c.onEngine e fun x => { x with
    stream := x.stream.filter fun it => it.call != some id,
    calls := x.calls.map fun k => if k.id = id then { k with left := k.left - gone } else k }).flushQueues e fun ent => ent.call == some id

/-! ### Completion (R180, R181, R183 to R185, R337, R338) -/

/-- The completion record without PHASE (R180). DETAIL is written for the classes that R180 names; the others leave it zero. -/
def recordWord (e : Nat) (f : Finish) : Nat :=
  slugSeq f.entry.slug + slugTag f.entry.slug <<< 16 + slugClass f.entry.slug <<< 32 + f.status.code <<< 40 + e <<< 48
    + f.entry.retries <<< 56 + (if slugClass f.entry.slug ≤ 3 ∨ slugClass f.entry.slug = 8 then f.detail % p2 48 else 0) <<< 64

/-- The record with the PHASE of a ring that has written `n` records since it was set (R180, R181). -/
def phased (n log2 rec_ : Nat) : Nat := rec_ + (1 - (n >>> log2) % 2) <<< 127

/-- The record as its ring takes it; one that no ring takes carries no PHASE. -/
def ringRecord (c : Chip) (e : Nat) (f : Finish) : Nat :=
  let x := c.engine e
  if !f.needsRecord then recordWord e f
  else if f.entry.ring then (match x.ring with
    | some r => if c.host.inForce && f.entry.session == c.host.session then phased r.cqWritten.toNat r.cqLog2 (recordWord e f) else recordWord e f
    | none => recordWord e f)
  else phased x.cring.head x.cring.log2 (recordWord e f)

/-- The DETAIL words of a slug's event record, the completion record first (R483). -/
def slugDetail (rec_ : Nat) (f : Finish) : List W64 :=
  let w (n i : Nat) : W64 := BitVec.ofNat 64 (n >>> (64 * i))
  let extra := f.extra ++ List.replicate (15 - f.extra.length) 0
  [w rec_ 0, w rec_ 1] ++ (List.range 8).map (w f.entry.slug.toNat) ++ extra ++ [BitVec.ofNat 64 f.entry.session]

/-- What a record's write comes to. -/
inductive RecordEnd
  | written
  | waits
  deriving DecidableEq, Repr

/-- A record of a host ring: written while its session is in force, discarded and counted otherwise (R337, R343, R347). -/
def hostRecord (c : Chip) (e : Nat) (f : Finish) : RecordEnd × Chip :=
  match (c.engine e).ring with
  | none => (.written, c.onHost fun h => { h with recordsDiscarded := bump48 h.recordsDiscarded 1 })
  | some r =>
    if !c.host.inForce || c.host.closing || f.entry.session ≠ c.host.session then
      (.written, c.onHost fun h => { h with recordsDiscarded := bump48 h.recordsDiscarded 1 })
    else if !c.ringAvail e then (.waits, c)
    else if (r.cqWritten - r.cqConsumed).toNat = p2 r.cqLog2 then (.waits, c)
    else
      let n := r.cqWritten.toNat
      match c.hostCtlWrite (r.cqBase + 16 * (n % p2 r.cqLog2)) (toBytes 16 (phased n r.cqLog2 (recordWord e f))) with
      | (false, c1) => (.waits, c1)
      | (true, c1) =>
        let c2 := (c1.onRing e fun r => { r with cqWritten := r.cqWritten + 1 }).writeLine1 e
        (.written, if r.irqMode = 1 ∨ (r.irqMode = 2 ∧ f.status ≠ .success) then c2.msixRaise r.irqVector else c2)

/-- CRING_LOST carries the record (R181). -/
def cringLost (c : Chip) (e : Nat) (f : Finish) : Chip :=
  let rec_ := c.ringRecord e f
  c.raise evCringLost .deferred e (.engine e) [BitVec.ofNat 64 rec_, BitVec.ofNat 64 (rec_ >>> 64)]

/-- The ring is broken: its records are lost as events, and nothing waits (R181). -/
def breakRing (c : Chip) (e : Nat) : Chip := c.onEngine e fun x => { x with cring := { x.cring with broken := true } }

/-- A full ring's consumed-count word as the engine reads it: a value above the records written is ignored (R181). -/
def readConsumed (c : Chip) (e : Nat) (r : CRing) : Except Status Nat :=
  match c.readLocal (e / 16) (addrRange (r.base - 8) 8) with
  | .error st => .error st
  | .ok bs => .ok (if ofBytes bs ≤ r.head then ofBytes bs else r.seen)

/-- A record of the engine's completion ring (R181, R182). An unmapped address or an uncorrectable error breaks the ring; while a domain is in
reset, the record waits. -/
def cringRecord (c : Chip) (e : Nat) (f : Finish) : RecordEnd × Chip :=
  let r := (c.engine e).cring
  if r.broken then (.written, c.cringLost e f)
  else
    let full : Except Status (Bool × CRing) :=
      if r.head - r.seen < p2 r.log2 then .ok (false, r)
      else match c.readConsumed e r with
        | .error st => .error st
        | .ok n => .ok (decide (p2 r.log2 ≤ r.head - n), { r with seen := n })
    match full with
    | .error .pathReset => (.waits, c)
    | .error _ => (.written, (c.breakRing e).cringLost e f)
    | .ok (true, r1) => (.waits, c.onEngine e fun x => { x with cring := r1 })
    | .ok (false, r1) =>
      match c.writeLocal (e / 16) (some e) (cellsAt (r.base + 16 * (r.head % p2 r.log2)) (toBytes 16 (phased r.head r.log2 (recordWord e f)))) with
      | .error .pathReset => (.waits, c.onEngine e fun x => { x with cring := r1 })
      | .error _ => (.written, (c.breakRing e).cringLost e f)
      | .ok c1 => (.written, c1.onEngine e fun x => { x with cring := { r1 with head := r1.head + 1 } })

/-- A HALT: admission stops, unbegun slugs end FLUSHED, and the ring's line 1 says so (R185, R338). DEDUCED, log entry 48. -/
def haltEngine (c : Chip) (e : Nat) (st : Status) : Chip :=
  let c1 := (c.onEngine e fun x => { x with halted := true }).flushQueues e fun _ => true
  if (c1.engine e).ring.isSome then c1.haltRing e st.code else c1

/-- What a completed slug of an expansion does to its CALL (R185): the first fault ends it and flushes the rest. -/
def noteCall (c : Chip) (e : Nat) (f : Finish) : Chip :=
  match f.entry.call with
  | none => c
  | some id =>
    let bad := f.status ≠ .success
    let first := (c.engine e).calls.any fun k => k.id == id && !(k.faults.any fun p => p.1 == e)
    let c1 := c.onEngine e fun x => { x with calls := x.calls.map fun k =>
      if k.id = id then { k with left := k.left - 1, faults := if bad ∧ first then k.faults ++ [(e, f.status)] else k.faults } else k }
    let c2 := if bad ∧ first then c1.flushCall e id else c1
    settleCalls 65 e c2

/-- A record's write for a slug that has ended, where it needs one (R180). -/
def writeRecord (c : Chip) (e : Nat) (f : Finish) : RecordEnd × Chip :=
  if f.needsRecord then (if f.entry.ring then c.hostRecord e f else c.cringRecord e f) else (.written, c)

/-- The oldest ended slug that can complete, its record written: one that needs a record waits while its ring is full, and no later one
passes it there; one that needs none does not wait (R181). `shut` are the rings found full: the host ring, the completion ring. -/
def firstRecord (e : Nat) : List Finish → Bool × Bool → Chip → Option Finish × Chip
  | [], _, c => (none, c)
  | f :: fs, (host, own), c =>
    if f.needsRecord && (if f.entry.ring then host else own) then firstRecord e fs (host, own) c
    else match c.writeRecord e f with
      | (.written, c1) => (some f, c1)
      | (.waits, c1) => firstRecord e fs (host || f.entry.ring, own || !f.entry.ring) c1

/-- An ended slug of an engine completes: its record, its event, and its ON_FAULT action (R180, R184, R185). DEDUCED, log entry 48. -/
def slugComplete (c : Chip) (e : Nat) : Chip :=
  match firstRecord e (c.engine e).finishing (false, false) c with
  | (none, c1) => c1
  | (some f, c1) =>
    let c2 := c1.onEngine e fun x => { x with finishing := x.finishing.eraseP fun g => g.entry.id == f.entry.id }
    let c3 := if f.status = .success then c2
      else c2.raise f.status.code f.status.severity e (.engine e) (slugDetail (c.ringRecord e f) f)
    let c4 := c3.noteCall e f
    let c5 := if f.status ≠ .success ∧ !slugContinue f.entry.slug ∧ f.entry.call.isNone ∧ !f.entry.mute then c4.haltEngine e f.status else c4
    c5.pumpE e

/-- The consumer returns entries of a full ring: the waiting slugs write their records and complete, while room lasts. -/
def cringSpace : Nat → Nat → Chip → Chip
  | 0, _, c => c
  | fuel + 1, e, c =>
    if (c.engine e).finishing.isEmpty then c
    else
      let c1 := c.slugComplete e
      if (c1.engine e).finishing.length < (c.engine e).finishing.length then cringSpace fuel e c1 else c1

end Chip

/-- A slug of the QUOIN class and an operation; the QUOIN row takes the reserved operations too. -/
def isQuoin (op : Nat) (s : SlugWord) : Bool := slugClass s == 4 && (slugOp s == op || (op == 0 && decide (1 < slugOp s)))

/-- A CONTROL slug of an operation; the NOP row takes the reserved operations too, and the CALLs of no known operator. -/
def isControl (op : Nat) (s : SlugWord) : Bool :=
  slugClass s == 9 && (slugOp s == op || (op == 0 && decide (4 < slugOp s)))

/-- A CALL of an operator. -/
def isCall (op : Operator) (s : SlugWord) : Bool := slugClass s == 9 && slugOp s == 2 && Operator.ofId (fld s 83 68) == some op

/-- A CALL of no operator; the LINEAR_FWD row takes it. -/
def isUnknownCall (s : SlugWord) : Bool := slugClass s == 9 && slugOp s == 2 && (Operator.ofId (fld s 83 68)).isNone

end Sys2Proof.Machine
end

