-- ==== Sys2Proof/Machine/Spike.lean ====
section
/-!
DEFINITION. The spike (R217 to R230): records, frames, spilling and filling back; and the proofreader's loss test (R235 to R238).
-/
namespace Sys2Proof.Machine

/-! ### Records (R218) -/

/-- Payload bytes of a TD's elements, packed densely, before padding. -/
def payloadBytes (t : TD) : Nat := (t.count * t.fmt.width + 7) / 8

/-- A record's size with header and padding. -/
def recordSize (payload : Nat) : Nat := 64 + (payload + 63) / 64 * 64

def spikeHeader (mb layer seq : Nat) (t : TD) : BitVec 512 :=
  BitVec.ofNat 512 (mb + layer <<< 16 + t.fmt.code <<< 26 + t.ndim <<< 30 + payloadBytes t <<< 64
    + ((List.range 6).map fun d => t.ext.getD d 1 <<< (128 + 24 * d)).sum + (seq % p2 32) <<< 272)

/-- Element bits packed densely: two INT4 elements to a byte, low nibble first (R48, R218). -/
def packElems (f : Fmt) : List Nat → List Byte
  | [] => []
  | x :: xs =>
    match f with
    | .int4 => (match xs with
      | [] => [BitVec.ofNat 8 (x % 16)]
      | y :: ys => BitVec.ofNat 8 (x % 16 + 16 * (y % 16)) :: packElems f ys)
    | _ => toBytes (f.width / 8) x ++ packElems f xs

/-- Element `i` of a packed payload. -/
def unpackElem (f : Fmt) (bs : List Byte) (i : Nat) : Nat :=
  match f with
  | .int4 => let b := (bs.getD (i / 2) 0).toNat; if i % 2 = 0 then b % 16 else b / 16
  | _ => ofBytes ((bs.drop (i * (f.width / 8))).take (f.width / 8))

/-- Bytes of a record, padded. -/
def recordBytes (header : BitVec 512) (payload : List Byte) : List Byte :=
  toBytes 64 header.toNat ++ payload ++ List.replicate ((payload.length + 63) / 64 * 64 - payload.length) 0

namespace Chip

def spikeOf (c : Chip) (e : Nat) : Spike := (c.engine e).spike
def onSpike (c : Chip) (e : Nat) (f : Spike → Spike) : Chip := c.onEngine e fun x => { x with spike := f x.spike }
def frameOf (c : Chip) (e f : Nat) : Frame := Tab.get {} (c.spikeOf e).frame f
def onFrame (c : Chip) (e f : Nat) (g : Frame → Frame) : Chip := c.onSpike e fun s => { s with frame := Tab.set f (g (Tab.get {} s.frame f)) s.frame }

/-- A record's size, from the engine's copy or, of a spilled one, from the header in HBM. -/
def recSize (c : Chip) (r : SpikeRec) : Nat :=
  match r.spill with
  | some a => if r.acked then recordSize (c.mem.read (a + 8) 8) else recordSize r.payload.length
  | none => recordSize r.payload.length

/-- A record occupies the spike part until its spill write is acknowledged (R222). -/
def resident (r : SpikeRec) : Bool := r.spill.isNone || !r.acked

/-- Bytes of the spike part in use, and its size. -/
def partUsed (c : Chip) (e : Nat) : Nat :=
  (((c.spikeOf e).frame.flatMap fun p => p.2.recs).filter resident |>.map c.recSize).sum
def partSize (c : Chip) (e : Nat) : Nat := (c.engine e).split.spike * 0x100000

/-- Spilled bytes of a frame, its share and its first address (R223). -/
def spilledBytes (c : Chip) (fr : Frame) : Nat := ((fr.recs.filter fun r => r.spill.isSome).map c.recSize).sum
def shareSize (c : Chip) (e : Nat) : Nat := (c.spikeOf e).shareMib * 0x100000
def shareBase (c : Chip) (e f : Nat) : Nat := (c.spikeOf e).base + f * c.shareSize e

/-- The frame whose record spills next: the most recently opened one that has a record not yet spilling (R222). -/
def spillFrame (c : Chip) (e : Nat) : Option Nat :=
  let fs := (c.spikeOf e).frame.filter fun p => p.2.recs.any fun r => r.spill.isNone
  match fs with
  | [] => none
  | f :: rest => some (rest.foldl (fun b p => if b.2.opened < p.2.opened then p else b) f).1

/-- Begin to spill a frame's bottommost resident record; none when its share is too small (R222, R223). -/
def startSpill (c : Chip) (e f : Nat) : Option Chip :=
  let fr := c.frameOf e f
  match (fr.recs.zipIdx.filter fun (r, _) => r.spill.isNone).getLast? with
  | none => none
  | some (r, i) =>
    let used := c.spilledBytes fr
    if c.shareSize e < used + c.recSize r then none
    else
      some (c.onFrame e f fun fr => { fr with recs := modifyAt (fun r => { r with spill := some (c.shareBase e f + used), acked := false }) fr.recs i })

/-- Bytes of the spike part that spills in progress will free. -/
def freeing (c : Chip) (e : Nat) : Nat :=
  (((c.spikeOf e).frame.flatMap fun p => p.2.recs).filter (fun r => r.spill.isSome && !r.acked) |>.map c.recSize).sum

/-- Start spills until a record of `need` bytes will fit; none when a share overflows. `fuel` bounds the records. DEDUCED, log entry 52. -/
def makeRoom : Nat → Nat → Nat → Chip → Option Chip
  | 0, _, _, _ => none
  | fuel + 1, e, need, c =>
    if c.partUsed e - c.freeing e + need ≤ c.partSize e then some c
    else match c.spillFrame e with
      | none => none
      | some f => match c.startSpill e f with
        | none => none
        | some c1 => makeRoom fuel e need c1

/-- Spill every resident record of one frame; none when its share overflows. -/
def spillAll : Nat → Nat → Nat → Chip → Option Chip
  | 0, _, _, c => some c
  | fuel + 1, e, f, c =>
    if (c.frameOf e f).recs.any fun r => r.spill.isNone then (c.startSpill e f).bind (spillAll fuel e f) else some c

/-- Number of records of an engine. -/
def recCount (c : Chip) (e : Nat) : Nat := ((c.spikeOf e).frame.map fun p => p.2.recs.length).sum

/-! ### The SPIKE slug (R227) -/

/-- The fields an operation does not use must be zero (R227). -/
def spikeReserved (s : SlugWord) : Bool :=
  let used := match slugOp s with
    | 0 => [(77, 68), (81, 78), (91, 82), (107, 92)]
    | 1 => [(77, 68), (81, 78), (91, 82), (107, 92), (108, 108)]
    | 2 => [(81, 78), (91, 82), (107, 92), (108, 108)]
    | 3 => [(113, 110), (191, 128), (207, 192)]
    | 4 => [(91, 82)]
    | 5 => [(77, 68), (109, 109), (319, 256)]
    | _ => []
  let all := [(77, 68), (81, 78), (91, 82), (107, 92), (108, 108), (109, 109), (113, 110), (191, 128), (207, 192), (319, 256)]
  decide (7 < slugOp s) || !rsvdZero s [(114, 14), (208, 48), (320, 192)] || (all.filter fun p => !used.contains p).any fun (h, l) => fld s h l != 0

/-- PUSH, POP and DROP name a frame below FRAMES. -/
def checkFrame (c : Chip) (e : Nat) (s : SlugWord) : Except Status Unit := do
  failIf (spikeReserved s) .reservedEncoding
  failIf (decide ((c.spikeOf e).frames ≤ fld s 81 78)) .placeIllegal

/-- The slug sets the engine's current layer id (R234). -/
def setLayer (c : Chip) (e : Nat) (s : SlugWord) : Chip := c.onEngine e fun x => { x with layer := fld s 91 82 }

/-- A record placed on top of its frame. -/
def placeRecord (c : Chip) (e f : Nat) (r : SpikeRec) : Chip :=
  let fr := c.frameOf e f
  let opens := fr.recs.isEmpty
  (c.onSpike e fun s => { s with opens := if opens then s.opens + 1 else s.opens }).onFrame e f fun fr =>
    { fr with recs := r :: fr.recs, pushes := (if opens then 0 else fr.pushes) + 1, opened := if opens then (c.spikeOf e).opens + 1 else fr.opened }

/-- Raw elements of the source in index order. -/
def readRaw (e : Nat) (ent : QEntry) (t : TD) : List Nat → Chip → Res (List Nat)
  | [], c => (.ok [], c)
  | i :: is, c =>
    match c.readElem e ent t (coordsOf t.ext i) with
    | (.error st, c1) => (.error st, c1)
    | (.ok v, c1) =>
      match readRaw e ent t is c1 with
      | (.ok vs, c2) => (.ok (v :: vs), c2)
      | (.error st, c2) => (.error st, c2)

/-- The record of a PUSH is read and placed, in the spike part or, larger than the whole part, in the spill region. The traffic takes part in
the bank quota (R222, R224). -/
def pushRecord (c : Chip) (e : Nat) (ent : QEntry) (t : TD) (direct : Bool) : Chip :=
  let s := ent.slug
  let f := fld s 81 78
  match c.gather e .spike ent [t] [] 256 e with
  | (.failed st, ent1, c1) => c1.endSlug e .spike ent1 st 0
  | (.waiting, _, c1) => c1
  | (.ready, ent1, c1) =>
    match readRaw e ent1 t (List.range t.count) c1 with
    | (.error st, c2) => c2.endSlug e .spike ent1 st 0
    | (.ok vs, c2) =>
      let fr := c2.frameOf e f
      let header := spikeHeader (fld s 107 92) (fld s 91 82) (if fr.recs.isEmpty then 0 else fr.pushes) t
      let payload := packElems t.fmt vs
      if direct then
        let a := c2.shareBase e f + c2.spilledBytes fr
        match c2.writeLocal (e / 16) (some e) (cellsAt a (recordBytes header payload)) with
        | .error st => c2.endSlug e .spike ent1 st 0
        | .ok c3 => (c3.placeRecord e f { header := 0, payload := [], spill := some a }).endSlug e .spike ent1 .success 0
      else (c2.placeRecord e f { header, payload }).endSlug e .spike ent1 .success 0

/-- PUSH (R218, R222, R223): room first, by spills that the PUSH waits for, and then the record. DEDUCED, log entry 52. -/
def spikePush (c : Chip) (e : Nat) (ent : QEntry) : Chip :=
  let check : Except Status TD := do
    c.checkFrame e ent.slug
    ent.tdReq (fld ent.slug 77 68)
  match check with
  | .error st => c.begin e .spike ent (.error st) id
  | .ok t => c.begin e .spike ent (.ok ()) fun c =>
    let c0 := c.setLayer e ent.slug
    let f := fld ent.slug 81 78
    let size := recordSize (payloadBytes t)
    if c0.partSize e < size then
      match spillAll (c0.recCount e) e f c0 with
      | none => c0.endSlug e .spike ent .spikeOverflow 0
      | some c1 =>
        if c1.shareSize e < c1.spilledBytes (c1.frameOf e f) + size then c0.endSlug e .spike ent .spikeOverflow 0
        else if (c1.frameOf e f).recs.any fun r => !r.acked then c1.updEntry e .spike ent
        else c1.pushRecord e ent t true
    else if c0.partUsed e + size ≤ c0.partSize e then c0.pushRecord e ent t false
    else match makeRoom (c0.recCount e + 1) e size c0 with
      | none => c0.endSlug e .spike ent .spikeOverflow 0
      | some c1 => c1.updEntry e .spike ent

/-- Header and payload of a record, from the platen or from HBM. -/
def recordOf (c : Chip) (r : SpikeRec) : BitVec 512 × List Byte :=
  match r.spill with
  | some a =>
    if r.acked then
      let h := BitVec.ofNat 512 (c.mem.read a 64)
      (h, (addrRange (a + 64) (fld h 127 64)).map c.mem.get)
    else (r.header, r.payload)
  | none => (r.header, r.payload)

/-- The record lies on an uncorrectable error. -/
def recordBad (c : Chip) (e : Nat) (r : SpikeRec) : Option Status :=
  if r.ue then some .memUe
  else match r.spill with
    | some a => if r.acked then
        (match (addrRange a (c.recSize r)).findSome? fun b => c.accessError (e / 16) b with
         | some st => some st
         | none => if (c.ueAt (addrRange a (c.recSize r))).isSome then some .memUe else none)
      else none
    | none => none

/-- The bytes of a spilled record are read from HBM (R222, R224). -/
def recordFetch (c : Chip) (e : Nat) (r : SpikeRec) : Chip :=
  match r.spill with
  | some a => if r.acked then c.hbmFetch e a (c.recSize r) else c
  | none => c

/-- Remove the top record of a frame. -/
def dropTop (c : Chip) (e f : Nat) : Chip := c.onFrame e f fun fr => { fr with recs := fr.recs.tail }

/-- What POP and DROP check of the top record (R219, R225): its header and payload, or the status that ends the slug. -/
def topRecord (c : Chip) (e : Nat) (s : SlugWord) : Except Status (SpikeRec × BitVec 512 × List Byte) :=
  match (c.frameOf e (fld s 81 78)).recs with
  | [] => .error .spikeUnderflow
  | r :: _ =>
    if r.lost then .error .spikeLost
    else
      let (h, p) := c.recordOf r
      if bit s 108 && (fld h 25 16 != fld s 91 82 || fld h 15 0 != fld s 107 92) then .error .spikeMismatch else .ok (r, h, p)

/-- The elements of a record written to the destination as a COPY would; the destination's format, rounding mode, SATURATE bit and stream id
govern every write (R219). -/
def popWrites (e : Nat) (ent : QEntry) (f : Fmt) (payload : List Byte) (d : TD) : List Nat → Chip → List EWrite → List EWrite × Option Status
  | [], _, acc => (acc.reverse, none)
  | i :: is, c, acc =>
    let cs := coordsOf d.ext i
    let a := d.addr cs
    match c.destError e d a with
    | some st => (acc.reverse, some st)
    | none =>
      popWrites e ent f payload d is c
        ({ addr := a, bits := convElem f d.fmt (ctlOf ent d i) (unpackElem f payload i), fmt := d.fmt, high := d.high cs } :: acc)

/-- A POP whose elements are stored ends once its writes have their RESPONSEs; the elements that a failed one covers are not counted
(R180). -/
def popAwait (c : Chip) (e : Nat) (ent : QEntry) (d : TD) : Chip :=
  c.awaitWrites e .spike ent (landed d id d.ext ent.prog.done0) fun c => c.endSlug e .spike ent .success 0

/-- A POP writes its record once host lines of the destination are owned. -/
def popRecord (c : Chip) (e : Nat) (ent : QEntry) (d : TD) : Chip :=
  let f := fld ent.slug 81 78
  match c.topRecord e ent.slug with
  | .error st => c.endSlug e .spike ent st 0
  | .ok (r, h, payload) =>
    if fld h 32 30 ≠ d.ndim ∨ (List.range 6).any (fun i => fld h (151 + 24 * i) (128 + 24 * i) != d.ext.getD i 1) then
      c.endSlug e .spike ent .spikeMismatch 0
    else match c.recordBad e r, Fmt.ofCode (fld h 29 26) with
      | some .memUe, fm =>
        let c1 := match r.spill with
          | some a => (match c.ueAt (addrRange a (c.recSize r)) with | some u => c.ueEvent u | none => c)
          | none => c.unitError evUePlaten .deferred (80 + e / 16) (.engine e) none []
        let ws := (popWrites e ent (fm.getD .fp32) payload d (List.range d.count) c1 []).1
        ((if d.space = .lcl then c1.tornWrites e ent.layer d ws else c1).dropTop e f).endSlug e .spike ent .memUe 0
      | some st, _ => c.endSlug e .spike ent st 0
      | none, fm =>
        match c.gather e .spike ent [] [d] 256 e with
        | (.failed st, ent1, c1) => c1.endSlug e .spike ent1 st 0
        | (.waiting, _, c1) => c1
        | (.ready, ent1, c1) =>
          let (ws, bad) := popWrites e ent1 (fm.getD .fp32) payload d (List.range d.count) c1 []
          match (c1.recordFetch e r).storeElems e ent1 d 256 e ws with
          | (.error st, c2) => c2.endSlug e .spike ent1 st 0
          | (.ok (), c2) =>
            let c3 := c2.countStores e ent1.layer ws
            match bad with
            | some st => c3.endSlug e .spike ent1 st ws.length
            | none => (c3.dropTop e f).popAwait e { ent1 with prog := { ent1.prog with phase := 1, done0 := ws.length } } d

/-- POP (R219, R220). -/
def spikePop (c : Chip) (e : Nat) (ent : QEntry) : Chip :=
  let check : Except Status TD := do
    c.checkFrame e ent.slug
    ent.tdReq (fld ent.slug 77 68)
  match check with
  | .error st => c.begin e .spike ent (.error st) id
  | .ok d => if ent.prog.phase = 1 then c.popAwait e ent d else c.begin e .spike ent (.ok ()) fun c => (c.setLayer e ent.slug).popRecord e ent d

/-- DROP (R219). -/
def spikeDrop (c : Chip) (e : Nat) (ent : QEntry) : Chip :=
  c.begin e .spike ent (c.checkFrame e ent.slug) fun c =>
    let c1 := c.setLayer e ent.slug
    match c1.topRecord e ent.slug with
    | .error st => c1.endSlug e .spike ent st 0
    | .ok _ => (c1.dropTop e (fld ent.slug 81 78)).endSlug e .spike ent .success 0

/-- SPILL_SET (R228). -/
def spillSet (c : Chip) (e : Nat) (ent : QEntry) : Chip :=
  let s := ent.slug
  let base := fld s 191 128
  let mib := fld s 207 192
  let frames := fld s 113 110 + 1
  let check : Except Status Unit := do
    failIf (spikeReserved s) .reservedEncoding
    failIf (decide (0 < c.recCount e) || (mib != 0 && (base % 0x100000 != 0 || decide (hbmTop < base + frames * mib * 0x100000)))) .placeIllegal
  c.begin e .spike ent check fun c =>
    (c.onSpike e fun sp => { sp with frames, base := if mib = 0 then 0 else base, shareMib := mib }).endSlug e .spike ent .success 0

/-- LAYER_SET (R234). -/
def layerSet (c : Chip) (e : Nat) (ent : QEntry) : Chip :=
  c.begin e .spike ent (failIf (spikeReserved ent.slug) .reservedEncoding) fun c =>
    (c.setLayer e ent.slug).endSlug e .spike ent .success 0

/-- LOSS_CLEAR (R235). -/
def lossClear (c : Chip) (e : Nat) (ent : QEntry) : Chip :=
  c.begin e .spike ent (failIf (spikeReserved ent.slug) .reservedEncoding) fun c =>
    (c.onEngine e fun x => { x with loss := {} }).endSlug e .spike ent .success 0

/-- Every frame emptied and unmarked. -/
def emptyFrames (c : Chip) (e : Nat) : Chip := c.onSpike e fun s => { s with frame := [] }

/-- CLEAR (R227). -/
def spikeClear (c : Chip) (e : Nat) (ent : QEntry) : Chip :=
  c.begin e .spike ent (failIf (spikeReserved ent.slug) .reservedEncoding) fun c => (c.emptyFrames e).endSlug e .spike ent .success 0

/-! ### Spills and fill-backs in the background (R222, R225) -/

/-- A record whose spill write is not acknowledged: the frame and place of the first, by frame number, bottommost first. -/
def spillingRec (c : Chip) (e : Nat) : Option (Nat × Nat × SpikeRec) :=
  (c.spikeOf e).frame.findSome? fun (f, fr) =>
    (fr.recs.zipIdx.filter fun (r, _) => r.spill.isSome && !r.acked).getLast?.map fun (r, i) => (f, i, r)

/-- SPILL_DONE: the record's bytes lie in HBM and leave the platen; the waiting PUSH may proceed. A write refused by a domain in
reset is reissued later (R225). -/
def spillDone (c : Chip) (e : Nat) : Chip :=
  match c.spillingRec e with
  | none => c
  | some (f, i, r) =>
    match r.spill with
    | none => c
    | some a =>
      match c.writeLocal (e / 16) (some e) (cellsAt a (recordBytes r.header r.payload)) with
      | .error st => c.notePathAt (e / 16) (addrRange a (recordBytes r.header r.payload).length) st
      | .ok c1 =>
        let c2 := c1.onFrame e f fun fr => { fr with recs := modifyAt (fun r => { r with header := 0, payload := [], acked := true }) fr.recs i }
        c2.runHead e .spike none (fun s => slugClass s == 7 && slugOp s == 0) fun c ent => c.spikePush e ent

/-- The frame to fill back into: the earliest opened one that has spilled records (R222). -/
def fillFrame (c : Chip) (e : Nat) : Option Nat :=
  let fs := (c.spikeOf e).frame.filter fun p => p.2.recs.any fun r => r.spill.isSome && r.acked
  match fs with
  | [] => none
  | f :: rest => some (rest.foldl (fun b p => if p.2.opened < b.2.opened then p else b) f).1

/-- FILL_BACK: the topmost spilled record comes back when it fits and no record above it is still being spilled (R222). -/
def fillBack (c : Chip) (e : Nat) : Chip :=
  match c.fillFrame e with
  | none => c
  | some f =>
    match (c.frameOf e f).recs.zipIdx.find? fun (r, _) => r.spill.isSome with
    | none => c
    | some (r, i) =>
      match r.spill with
      | none => c
      | some a =>
        let size := c.recSize r
        if !r.acked || r.lost || decide (c.partSize e < c.partUsed e + size) ||
          ((addrRange a size).any fun b => (c.accessError (e / 16) b).isSome) then c
        else
          let (h, p) := c.recordOf r
          let bad := (c.ueAt (addrRange a size)).isSome
          let c1 := match c.ueAt (addrRange a size) with
            | some u => c.ueEvent u
            | none => c
          (c1.recordFetch e r).onFrame e f fun fr => { fr with recs := modifyAt (fun r => { r with header := h, payload := p, spill := none, acked := true, ue := bad }) fr.recs i }

/-- Frames whose spilled records lost their contents are marked lost from the topmost such record downward (R225). -/
def loseSpilled (c : Chip) (gone : Nat → Bool) : Chip :=
  (List.range 64).foldl (fun c e => c.onSpike e fun s => { s with frame := s.frame.map fun (f, fr) =>
    let hit (r : SpikeRec) : Bool := match r.spill with
      | some a => r.acked && (addrRange a (c.recSize r)).any gone
      | none => false
    let n := (fr.recs.takeWhile fun r => !hit r).length
    (f, { fr with recs := fr.recs.zipIdx.map fun (r, i) => if n ≤ i then { r with lost := true } else r }) }) c

/-! ### The loss test (R235 to R237) -/

/-- `loss_test` of R236 on a value: none on SPIKE, or the new mean, var and n. -/
def lossTest (k : W32) (a w : Nat) (mean var : W32) (n : BitVec 32) (x : W32) : Option (W32 × W32 × BitVec 32) :=
  let v := f32 x
  if v.isNaN || v.isInf then none
  else
    let d := subF x mean
    if w ≤ n.toNat && FVal.lt (f32 (mulF k (sqrtF var))) (f32 d) then none
    else
      let alpha := if n.toNat + 1 < p2 a then divF f32One (natF (n.toNat + 1)) else toF32 (.fin false 1 (-(a : Int)))
      let mean1 := fmaF alpha d mean
      let var1 := mulF (subF f32One alpha) (fmaF (mulF alpha d) d var)
      some (mean1, var1, if n = BitVec.allOnes 32 then n else n + 1)

/-- Non-finite counts of the engines now. -/
def nonFinite (c : Chip) : List (Nat × BitVec 48 × BitVec 48) :=
  c.engines.zipIdx.map fun (x, e) => (e, x.nan, x.infs)

/-- Some count has grown since the last LOSS_TEST that tested a loss; before the first, since reset. -/
def grown (c : Chip) : Bool :=
  if c.prf.seen.isEmpty then c.nonFinite.any fun (_, a, b) => a != 0 || b != 0 else c.nonFinite != c.prf.seen

/-- The step loss of an engine's accumulator (R235). -/
def engineLoss (l : LossAcc) : W32 := divF (addGroup l.acc (l.group.map f32)) (natF l.count)

/-- A loss is tested (R236, R237). -/
def testLoss (c : Chip) (e : Nat) (step : Nat) (x : W32) : Chip :=
  let p := c.prf
  let nf := p.nfAsSpike && c.grown
  let c1 := { c with prf := { p with seen := c.nonFinite } }
  match (if nf then none else lossTest c.imp.prfK c.imp.prfAlphaLog2 c.imp.prfWarmup p.mean p.var p.n x) with
  | some (m, v, n) => { c1 with prf := { c1.prf with mean := m, var := v, n } }
  | none =>
    let c2 := c1.raise evLossSpike .deferred 74 (.forme 0)
      [BitVec.ofNat 64 step, x.setWidth 64, p.mean.setWidth 64, p.var.setWidth 64, BitVec.ofNat 64 e, BitVec.ofNat 64 nf.toNat]
    { c2 with prf := { c2.prf with spiked := true, hold := c2.prf.hold || p.action } }

/-- LOSS_TEST (R235). -/
def lossTestSlug (c : Chip) (e : Nat) (ent : QEntry) : Chip :=
  let s := ent.slug
  if spikeReserved s then c.begin e .spike ent (.error .reservedEncoding) id
  else if !bit s 109 then
    c.begin e .spike ent (.ok ()) fun c =>
      let l := (c.engine e).loss
      if l.count = 0 then c.endSlug e .spike ent .success 0
      else ((c.onEngine e fun x => { x with loss := {} }).testLoss e (fld s 319 256) (engineLoss l)).endSlug e .spike ent .success 0
  else
    let check : Except Status TD := do
      let t ← ent.tdReq (fld s 77 68)
      failIf (t.fmt != .fp32) .formatIllegal
      failIf (t.count != 1) .shapeIllegal
      failIf (t.space != .lcl) .placeIllegal
      return t
    match check with
    | .error st => c.begin e .spike ent (.error st) id
    | .ok t => c.begin e .spike ent (.ok ()) fun c =>
      match c.loadAt e ent t (coordsOf t.ext 0) with
      | (.error st, c1) => c1.endSlug e .spike ent st 0
      | (.ok v, c1) => (c1.testLoss e (fld s 319 256) v.bits).endSlug e .spike ent .success 0

end Chip

/-- A SPIKE slug of an operation; the PUSH row takes the reserved operations too. -/
def isSpike (op : Nat) (s : SlugWord) : Bool := slugClass s == 7 && (slugOp s == op || (op == 0 && decide (7 < slugOp s)))

end Sys2Proof.Machine
end

