-- ==== Sys2Proof/Machine/Update.lean ====
section
/-!
DEFINITION. The corrector (chapter 9): the UPDATE class, its checks, gates and contexts, the optimiser step, slow-tier chunks,
fingerprints, repair, export and import.
-/
namespace Sys2Proof.Machine

/-! ### Fields (R246, R247, R254) -/

structure UTds where
  grad   : Option TD
  master : Option TD
  st0    : Option TD
  st1    : Option TD
  work   : Option TD
  delta  : Option TD
  park   : Option TD
  deriving DecidableEq, Repr

def UTds.all (t : UTds) : List TD := [t.grad, t.master, t.st0, t.st1, t.work, t.delta, t.park].filterMap id

def upLayer (s : SlugWord) : Nat := fld s 83 74
def upCarry (s : SlugWord) : Nat := fld s 73 70
def upPeer (s : SlugWord) : Nat := fld s 181 166
def upHyper (s : SlugWord) : Nat := fld s 255 192
def upShard (s : SlugWord) : Nat := fld s 319 256
def upAux (s : SlugWord) : Nat := fld s 511 448

/-- The seven TD references, in the order of R247. -/
def upRefs (s : SlugWord) : List Nat := (List.range 7).map fun i => fld s (105 + 10 * i) (96 + 10 * i)

/-- The TD fields that an operation uses (R248), in the order of R247. -/
def upUses (op : Nat) : List Bool :=
  match op with
  | 0 => [true, true, true, true, true, true, true]
  | 1 => [false, true, false, false, true, true, false]
  | 2 => [false, true, true, true, false, false, false]
  | 3 => [false, true, true, true, true, false, true]
  | 4 => [false, true, true, true, false, true, false]
  | _ => [false, true, true, true, true, true, false]

/-- Reserved encodings of the UPDATE body (R247, R248). -/
def updateReserved (s : SlugWord) : Bool :=
  let op := slugOp s
  let opt := fld s 69 68
  decide (5 < op) || !rsvdZero s [(87, 9), (182, 10)] || decide (1 < opt) || decide (2 < upCarry s) ||
  ((upRefs s).zip (upUses op)).any (fun (r, u) => !u && r != nullTd) ||
  (op == 0 && opt == 0 && fld s 135 126 != nullTd) ||
  (op != 0 && (opt != 0 || upCarry s != 0 || upHyper s != 0)) ||
  (op == 4 && upLayer s != 0) || (op != 2 && bit s 86) || (op != 2 && op != 3 && upPeer s != 0) ||
  (decide (2 < op) && (bit s 85 || upAux s != 0))

/-- The slug's TDs, read. -/
def readUTds (ent : QEntry) : Except Status UTds := do
  let r (i : Nat) : Nat := (upRefs ent.slug).getD i nullTd
  return { grad := ← ent.td? (r 0), master := ← ent.td? (r 1), st0 := ← ent.td? (r 2), st1 := ← ent.td? (r 3), work := ← ent.td? (r 4),
           delta := ← ent.td? (r 5), park := ← ent.td? (r 6) }

/-- A TD that is dense over its whole shape (R249). -/
def TD.dense (t : TD) : Bool :=
  let w := t.fmt.width / 8
  ((List.range 6).foldl (fun (acc : Bool × Nat) d =>
    let e := t.ext.getD d 1
    let s : Int := if d = 0 ∧ t.stride.headD 0 = 0 then (w : Nat) else t.stride.getD d 0
    (acc.1 && (e ≤ 1 || s == (acc.2 : Nat)), acc.2 * e)) (true, w)).1

/-- A one-dimensional TD of an extent. -/
def TD.vec (t : TD) (n : Nat) : Bool := t.ndim == 1 && t.ext.headD 0 == n

/-- A TD on another device (R262). -/
def Chip.remoteTd (c : Chip) (t : TD) : Bool := t.space == .broadsheet && !(t.base >>> 48 == c.fab.deviceId && c.fab.idValid)

/-- An APPLY is slow-tier (R262). -/
def Chip.slowTier (c : Chip) (op : Nat) (t : UTds) : Bool := op == 0 && [t.master, t.st0, t.st1].any fun x => x.any c.remoteTd

def slotBytes (opt : Nat) : Nat := if opt = 0 then 0xC000 else 0x8000

/-- Elements of a chunk (R262). -/
def chunkSize : Nat := 4096
def chunksOf (n : Nat) : Nat := (n + chunkSize - 1) / chunkSize

/-- Why the parking area of a slow-tier slug does not do (R249, R262). -/
def parkError (c : Chip) (f opt : Nat) (p : Option TD) : Option Status :=
  match p with
  | none => some .placeIllegal
  | some t =>
    if t.fmt ≠ .int8 then some .formatIllegal
    else if !t.vec t.count || t.count < 0x100000 || 0x1000000 < t.count || t.count < 2 * slotBytes opt then some .shapeIllegal
    else match t.space, t.span with
      | .lcl, some (lo, hi) => (match placeOf lo, placeOf (hi - 1) with
        | .platen e _, .platen e2 off =>
          if e = e2 ∧ e / 16 = f ∧ off < (c.engine e).split.scratch * 0x100000 then none else some .placeIllegal
        | _, _ => some .placeIllegal)
      | _, _ => some .placeIllegal

/-- The shard descriptor, as a 1,024-bit value. -/
abbrev Desc := BitVec 1024
def descShard (d : Desc) : Nat := fld d 31 0
def descLockstep (d : Desc) : Bool := !bit d 32
def descOpt (d : Desc) : Nat := fld d 34 33
def descStep (d : Desc) : Nat := fld d 575 512
def descFpW (d : Desc) : Nat := fld d 639 576
def descFpS (d : Desc) : Nat := fld d 703 640

/-- Payload bytes of an image (R271). -/
def imagePayload (t : UTds) : Nat := 4 * ([t.master, t.st0, t.st1].filterMap id |>.map TD.count).sum

/-- First of a list of conditions that holds, in order. -/
def firstOf : List (Bool × Status) → Except Status Unit
  | [] => .ok ()
  | (b, st) :: r => if b then .error st else firstOf r

/-- The checks of R249, in the order of its table. -/
def checkUpdate (c : Chip) (e : Nat) (ent : QEntry) : Except Status (UTds × Desc) := do
  let s := ent.slug
  let op := slugOp s
  failIf (updateReserved s) .reservedEncoding
  let t ← readUTds ent
  let placeAddr := decide (p2 48 ≤ upShard s) || upShard s % 64 != 0 || decide (p2 48 ≤ upHyper s) || upHyper s % 64 != 0 ||
    decide (p2 48 ≤ fld s 383 320) || (bit s 84 && fld s 383 320 % 8 != 0) || decide (p2 48 ≤ upAux s) || (bit s 85 && upAux s % 8 != 0)
  failIf placeAddr .placeIllegal
  let d : Desc ← match c.readLocal (e / 16) (addrRange (upShard s) 128) with
    | .ok bs => .ok (BitVec.ofNat 1024 (ofBytes bs))
    | .error st => .error st
  let opt := if op = 0 then fld s 69 68 else descOpt d
  let fp32 (x : Option TD) : Bool := x.any fun t => t.fmt != .fp32
  let slow := c.slowTier op t
  let image := op == 4 || op == 5
  let mext := match t.master with
    | some m => m.ext
    | none => []
  let delta := op == 0 || op == 1
  firstOf [
    (fp32 t.grad || fp32 t.master || fp32 t.st0 || fp32 t.st1 || (t.work.any fun w => w.fmt.isInt) ||
      (op == 0 && t.delta.any fun x => x.fmt.code != upCarry s) || (op == 1 && t.delta.any fun x => decide (2 < x.fmt.code)) ||
      (image && t.delta.any fun x => x.fmt != .int8) || (op == 0 && opt != descOpt d) ||
      (slow && parkError c (e / 16) opt t.park == some .formatIllegal), .formatIllegal),
    (t.master.isSome && ((t.grad.any fun x => x.ext != mext) || (t.work.any fun x => x.ext != mext) ||
      (opt == 0 && t.st0.any fun x => x.ext != mext) ||
      (opt == 1 && ((t.master.any fun m => m.ndim != 2) || (t.st0.any fun x => !x.vec (mext.getD 1 1)) ||
        (t.st1.any fun x => !x.vec (mext.headD 0)))) ||
      (delta && t.delta.any fun x => x.ext != mext || !x.dense) ||
      (image && t.delta.any fun x => decide (x.count < 128 + imagePayload t))) ||
      (slow && parkError c (e / 16) opt t.park == some .shapeIllegal), .shapeIllegal),
    (t.master.isNone || (op == 0 && (t.grad.isNone || t.st0.isNone || (opt == 1 && t.st1.isNone))) ||
      ((op == 1 || image) && t.delta.isNone) || (op == 2 && !bit s 85) || (t.grad.any fun x => x.space != .lcl) ||
      (delta && t.delta.any fun x => x.base % 64 != 0) || ([t.master, t.st0, t.st1, t.delta].any fun x => x.any fun y => y.space == .host) ||
      (slow && parkError c (e / 16) opt t.park == some .placeIllegal) || ((op == 2 || op == 3) && upPeer s == c.fab.deviceId), .placeIllegal),
    ((t.all.zipIdx.any fun (a, i) => t.all.zipIdx.any fun (b, j) => decide (i < j) && a.overlaps c.selfId b), .operandOverlap)]
  return (t, d)

/-! ### Arithmetic (R255 to R257, R260, R261) -/

def carryFmt (code : Nat) : Fmt := match code with | 1 => .bf16 | 2 => .fp16 | _ => .fp32
/-- The carry target T (R257). -/
def carryTarget (code : Nat) : Int := if code = 1 then 64 else 14

/-- A value times a power of two, exactly. -/
def FVal.scale (k : Int) : FVal → FVal
  | .nan => .nan
  | .inf s => .inf s
  | .fin s m e => .fin s m (e + k)

/-- `carry_and_add`: the new weight, the carried value's bits, and whether it was clipped. -/
def carryAndAdd (carry : Nat) (e : Int) (w delta : W32) : W32 × Nat × Bool :=
  if carry = 0 then (subF w delta, (quietF delta).toNat, false)
  else
    let f := carryFmt carry
    let x := (f32 delta).scale e
    let c := f.encode .rne true 0 x
    let clipped := match x with
      | .fin _ m ex => decide (f.maxFinite < f.roundMag .rne 0 m ex)
      | _ => false
    (toF32 (FVal.sub (f32 w) ((f.decode c).scale (-e))), c, clipped)

/-- `after_element`: the lead of a layer's deltas (R257). -/
def leadOf (l : Option Int) (delta : W32) : Option Int :=
  match (f32 delta).lead?, l with
  | none, l => l
  | some x, none => some x
  | some x, some y => some (max x y)

/-- What the elements of an APPLY give. -/
structure StepOut where
  w     : List W32 := []
  m     : List W32 := []
  c     : List Nat := []
  clips : Nat := 0
  lmax  : Option Int := none
  deriving DecidableEq, Repr

/-- The hyperparameter block (R254). -/
structure Hyper where
  lr : W32
  beta1 : W32
  beta2 : W32
  wd : W32
  eps : W32
  gscale : W32
  step : Nat
  deriving DecidableEq, Repr

def Hyper.read (w : BitVec 512) : Hyper :=
  let f (i : Nat) : W32 := BitVec.ofNat 32 (fld w (32 * i + 31) (32 * i))
  { lr := f 0, beta1 := f 1, beta2 := f 2, wd := f 3, eps := f 4, gscale := f 5, step := fld w 255 192 }

/-- One element added to a step's results. -/
def StepOut.push (o : StepOut) (carry : Nat) (e : Int) (w delta : W32) (m : Option W32) : StepOut :=
  let (w1, c, clip) := carryAndAdd carry e w delta
  { w := o.w ++ [w1], m := o.m ++ m.toList, c := o.c ++ [c], clips := o.clips + clip.toNat, lmax := leadOf o.lmax delta }

/-- `apply_momentum` over elements `(grad, w, mom)`. -/
def applyMomentum (h : Hyper) (carry : Nat) (e : Int) (xs : List (W32 × W32 × W32)) : StepOut :=
  xs.foldl (fun o (g0, w, mom) =>
    let g := mulF g0 h.gscale
    let m := fmaF h.beta1 mom g
    let u := fmaF h.wd w m
    o.push carry e w (mulF h.lr u) (some m)) {}

/-- The row and column factors after the step (R255). `grad` is in element-index order. -/
def factors (h : Hyper) (ncol nrow : Nat) (grad row col : List W32) : List W32 × List W32 :=
  let q := grad.map fun g0 => let g := mulF g0 h.gscale; fmaF g g h.eps
  let k := subF f32One h.beta2
  let some_ (l : List W32) : Row := l.map some
  let row1 := row.zipIdx.map fun (r, i) =>
    fmaF h.beta2 r (mulF k (divF (sumRef (some_ ((q.drop (i * ncol)).take ncol))) (natF ncol)))
  let col1 := col.zipIdx.map fun (cv, j) =>
    fmaF h.beta2 cv (mulF k (divF (sumRef (some_ ((List.range nrow).map fun r => q.getD (j + ncol * r) 0))) (natF nrow)))
  (row1, col1)

/-- `apply_factored` over elements `(index, grad, w)`, the factors being updated. -/
def applyFactored (h : Hyper) (carry : Nat) (e : Int) (ncol nrow : Nat) (row col : List W32) (xs : List (Nat × W32 × W32)) : StepOut :=
  let rm := divF (sumRef (row.map some)) (natF nrow)
  xs.foldl (fun o (i, g0, w) =>
    let g := mulF g0 h.gscale
    let v := divF (mulF (row.getD (i / max 1 ncol) 0) (col.getD (i % max 1 ncol) 0)) rm
    let u := fmaF h.wd w (mulF g (rsqrtF v))
    o.push carry e w (mulF h.lr u) none) {}

/-- Bytes of FP32 values in order, and their fingerprint (R265). -/
def wordBytes (ws : List W32) : List Byte := ws.flatMap fun w => toBytes 4 w.toNat
def fingerprint (ws : List W32) : Nat := if ws.isEmpty then 0 else crc64we (wordBytes ws)

namespace Chip

def corUnit (e : Nat) : Nat := 68 + e / 16

/-- Raw bits of an element that the corrector reads. -/
def corRead (c : Chip) (e : Nat) (ent : QEntry) (t : TD) (i : Nat) : Except Status Nat :=
  let a := t.addr (coordsOf t.ext i)
  let loc (a : Nat) : Except Status Nat :=
    match c.readLocal (e / 16) (addrRange a t.elemBytes) with
    | .ok bs => .ok (ofBytes bs)
    | .error st => .error st
  match t.space with
  | .lcl => if p2 48 ≤ a then .error .addrUnmapped else loc a
  | .broadsheet =>
    if a >>> 48 = c.fab.deviceId ∧ c.fab.idValid then (if (addrRange (a % p2 48) t.elemBytes).all c.broadsheetOk then loc (a % p2 48) else .error .addrRefused)
    else match fromGot ent.prog.gotB a t.elemBytes with
      | some bs => .ok (ofBytes bs)
      | none => .error .addrRefused
  | .host => match fromGot ent.prog.gotH a t.elemBytes with
    | some bs => .ok (ofBytes bs)
    | none => .error .hostLost

/-- FP32 elements of a TD by index. -/
def corWords (c : Chip) (e : Nat) (ent : QEntry) (t : TD) (is : List Nat) : Except Status (List W32) :=
  is.mapM fun i => (c.corRead e ent t i).map (BitVec.ofNat 32)

/-- The bytes that elements of a TD occupy in this device's memory. -/
def ownBytes (c : Chip) (t : TD) (is : List Nat) : List Nat :=
  (is.map fun i => t.locOf c.selfId (t.addr (coordsOf t.ext i))).flatMap fun (sp, a) => if sp = 0 then addrRange a t.elemBytes else []

/-- HBM lines that a corrector has read: they are counted, and each takes part in the quota of its bank (R210, R253, R501). -/
def corFetch (c : Chip) (e : Nat) (t : TD) (is : List Nat) : Chip :=
  let as := c.ownBytes t is
  (hbmLines as).foldl (fun c l => (c.countRead (e / 16) (l * 128) (as.filter fun a => a / 128 == l).length).bankIssue (64 + e / 16) (l * 128)) c

/-- A run of LOCAL bytes that a corrector has read (R210, R253, R501). -/
def corTouch (c : Chip) (e a n : Nat) : Chip :=
  (hbmLines (addrRange a n)).foldl (fun c l => (c.countRead (e / 16) (l * 128) ((addrRange a n).filter fun b => b / 128 == l).length).bankIssue (64 + e / 16) (l * 128)) c

/-- FP32 elements of a TD that may be absent, and the chip after the reads. -/
def corLoad (c : Chip) (e : Nat) (ent : QEntry) (t : Option TD) (is : List Nat) : Except Status (List W32 × Chip) :=
  match t with
  | none => .ok ([], c)
  | some t => (c.corWords e ent t is).map fun ws => (ws, c.corFetch e t is)

/-- A corrector writes local bytes: every platen copy is invalidated, and each HBM line takes part in the quota of its bank (R199, R253). -/
def corWrite (c : Chip) (e : Nat) (cells : List (Nat × Byte)) : Except Status Chip :=
  (c.writeLocal (e / 16) none cells).map fun c => (hbmLines (cells.map (·.1))).foldl (fun c l => c.bankIssue (64 + e / 16) (l * 128)) c

/-- The corrector stores element writes to a TD; other devices take WRITE requests. -/
def corStore (c : Chip) (e : Nat) (ent : QEntry) (t : TD) (key : Nat) (ws : List EWrite) : Except Status Chip :=
  match ws.findSome? fun w => c.destError e t w.addr with
  | some st => .error st
  | none =>
    match t.space with
    | .lcl => c.corWrite e (cellsOf c.mem.get ws)
    | .broadsheet =>
      let (own, far) := ws.partition fun w => w.addr >>> 48 == c.fab.deviceId && c.fab.idValid
      match c.corWrite e (cellsOf c.mem.get (own.map fun w => { w with addr := w.addr % p2 48 })) with
      | .error st => .error st
      | .ok c1 =>
        .ok ((runsOf (cellsOf (fun _ => 0) far)).foldl (fun c (a, bs) =>
          (splitRun 256 bs.length a bs.length).foldl (fun c (b, k) =>
            c.request e ent.id key (b >>> 48) { opcode := opWrite, dst := b >>> 48, addr := b % p2 48, unit := corUnit e }
              ((bs.drop (b - a)).take k)) c) c1)
    | .host => .ok (c.hostStore none (cellsOf (fun a => BitVec.ofNat 8 ((c.hostLineData (a / 64)).toNat >>> (8 * (a % 64)))) ws))

/-- FP32 words as writes to consecutive element indices from `i0`. -/
def wordWrites (t : TD) (i0 : Nat) (ws : List W32) : List EWrite :=
  ws.zipIdx.map fun (w, i) => { addr := t.addr (coordsOf t.ext (i0 + i)), bits := w.toNat, fmt := t.fmt, high := false }

/-- The working copy of weights (R52, R255): the TD's rounding, SATURATE bit and stream id. -/
def workWrites (ent : QEntry) (t : TD) (i0 : Nat) (ws : List W32) : List EWrite :=
  ws.zipIdx.map fun (w, i) =>
    { addr := t.addr (coordsOf t.ext (i0 + i)), bits := storeElem t.fmt (ctlOf ent t (i0 + i)) none false (.f w), fmt := t.fmt, high := false }

/-- Store words to a TD that may be absent, counting non-finite values under the slug's layer (R256). -/
def putWords (c : Chip) (e : Nat) (ent : QEntry) (t : Option TD) (key i0 : Nat) (ws : List W32) : Except Status Chip :=
  match t with
  | none => .ok c
  | some t =>
    let w := wordWrites t i0 ws
    (c.corStore e ent t key w).map fun c => c.countStores e (upLayer ent.slug) w

def putWork (c : Chip) (e : Nat) (ent : QEntry) (t : Option TD) (key i0 : Nat) (ws : List W32) : Except Status Chip :=
  match t with
  | none => .ok c
  | some t =>
    let w := workWrites ent t i0 ws
    (c.corStore e ent t key w).map fun c => c.countStores e (upLayer ent.slug) w

/-- Every byte of a run of addresses exists. -/
def runMapped (c : Chip) (lo hi : Nat) : Bool :=
  c.mapped lo && c.mapped (hi - 1) &&
    match placeOf lo, placeOf (hi - 1) with
    | .hbm _, .hbm _ => true
    | .platen a _, .platen b _ => a == b
    | .buffer a _, .buffer b _ => a == b
    | _, _ => false

/-- A run of addresses takes undefined contents: the copies of its lines are invalidated and its watchers told, as by any write. -/
def blurRun (c : Chip) (n lo hi : Nat) : Chip :=
  let lines := ((c.dir.map DirEntry.line ++ c.fab.watches.map Watch.line).filter fun l => decide (lo < 128 * l + 128 ∧ 128 * l < hi)).eraseDups
  let c1 := lines.foldl (fun (c : Chip) l => ((c.dirInvalidate l none).notifyWatchers l).1) c
  { c1 with mem := c1.mem.fillRegion (.range lo hi) (some n) }

/-- Elements of a TD in this device's memory take undefined contents. -/
def scrambleAt (c : Chip) (t : TD) (is : List Nat) : Chip :=
  let (n, c1) := c.fresh
  let as := (c1.ownBytes t is).filter c1.mapped
  (c1.storeLocal none (as.map fun a => (a, Config.freeByte n a))).1

/-- Contents of TDs that a fault or an unstable copy leaves undefined (R264, R270, R272, R277): of a dense TD as one run. What lies on another
device is that device's to hold. -/
def scramble (c : Chip) (ts : List (Option TD)) : Chip :=
  let (n, c1) := c.fresh
  ts.foldl (fun c t => match t with
    | none => c
    | some t =>
      if t.space = .lcl ∧ t.dense ∧ t.fmt ≠ .int4 ∧ 0 < t.count ∧ c.runMapped t.base (t.base + t.count * t.elemBytes) then
        c.blurRun n t.base (t.base + t.count * t.elemBytes)
      else if t.space ≠ .host then c.scrambleAt t (List.range t.count)
      else c) c1

/-- The descriptor's last four fields (R246). -/
def writeDesc (c : Chip) (e : Nat) (ent : QEntry) (step fpW fpS : Nat) (scaleE : Int) : Except Status Chip :=
  c.corWrite e
    (cellsAt (upShard ent.slug + 64) (toBytes 8 step ++ toBytes 8 fpW ++ toBytes 8 fpS ++ toBytes 1 (bitsOfInt 8 scaleE)))

/-- An 8-byte store to LOCAL memory by the corrector: the release flag. -/
def releaseFlag (c : Chip) (e : Nat) (ent : QEntry) (step : Nat) : Except Status Chip :=
  if bit ent.slug 85 then c.corWrite e (cellsAt (upAux ent.slug) (toBytes 8 step)) else .ok c

/-! ### Contexts (R250, R251, R258) -/

def ctxOf (c : Chip) (e : Nat) : Option CorCtx := (c.cor (e / 16)).ctxs.find? fun x => x.engine == e
def onCtx (c : Chip) (e : Nat) (f : CorCtx → CorCtx) : Chip :=
  c.onCor (e / 16) fun k => { k with ctxs := k.ctxs.map fun x => if x.engine = e then f x else x }
def dropCtx (c : Chip) (e : Nat) : Chip := c.onCor (e / 16) fun k => { k with ctxs := k.ctxs.filter fun x => x.engine != e }

/-- An UPDATE slug ends: its context is free again. -/
def endUpdate (c : Chip) (e : Nat) (ent : QEntry) (st : Status) (detail : Nat) : Chip := (c.dropCtx e).endSlug e .update ent st detail

/-- An UPDATE slug ends with further items for its event record (R269). -/
def endUpdateWith (c : Chip) (e : Nat) (ent : QEntry) (st : Status) (detail : Nat) (extra : List W64) : Chip :=
  (c.endUpdate e ent st detail).onEngine e fun x => { x with
    finishing := x.finishing.map fun f => if f.entry.id = ent.id then { f with extra } else f }

/-- Device and address ranges that two slugs in progress may not share (R251): the delta block of an APPLY or APPLY_DELTA has its header below
BASE (R260), an image does not (R271). -/
def upRanges (c : Chip) (op : Nat) (t : UTds) : List (Nat × Nat × Nat) :=
  let own : Nat := match c.selfId with | some d => d | none => p2 17
  let range (below : Nat) (x : Option TD) : Option (Nat × Nat × Nat) := x.bind fun t => t.span.map fun (lo, hi) =>
    match t.space with
    | .lcl => (own, lo - below, hi)
    | .broadsheet => (lo >>> 48, lo % p2 48 - below, hi - lo + lo % p2 48)
    | .host => (p2 16, lo, hi)
  ([t.master, t.st0, t.st1, t.work].map (range 0) ++ [range (if op < 2 then 64 else 0) t.delta]).filterMap fun x => x

def rangesMeet (a b : List (Nat × Nat × Nat)) : Bool :=
  a.any fun (k, l, h) => b.any fun (k2, l2, h2) => k == k2 && decide (l < h2 ∧ l2 < h)

def ctxTds (x : CorCtx) : UTds :=
  match readUTds x.entry with
  | .ok t => t
  | .error _ => { grad := none, master := none, st0 := none, st1 := none, work := none, delta := none, park := none }

/-- The gate is met (R250). -/
def gateMet (c : Chip) (e : Nat) (s : SlugWord) : Except Status Bool :=
  if !bit s 84 then .ok true
  else match c.readLocal (e / 16) (addrRange (fld s 383 320) 8) with
    | .ok bs => .ok (decide (fld s 447 384 ≤ ofBytes bs))
    | .error st => .error st

/-- The hyperparameter block of an APPLY, as it stands when the slug begins (R254). -/
def readHyper (c : Chip) (e : Nat) (s : SlugWord) : Except Status (BitVec 512) :=
  match c.readLocal (e / 16) (addrRange (upHyper s) 64) with
  | .ok bs => .ok (BitVec.ofNat 512 (ofBytes bs))
  | .error st => .error st

/-- The exponents of a layer (R257). -/
def layerOf (c : Chip) (f l : Nat) : LayerExp := Tab.get {} (c.cor f).layers l
def setLayerExp (c : Chip) (f l : Nat) (x : LayerExp) : Chip := c.onCor f fun k => { k with layers := Tab.set l x k.layers }

/-- `begin_apply` of R257; none is STEP_ORDER. -/
def beginApply (c : Chip) (f l carry step : Nat) : Option (Int × Chip) :=
  if carry = 0 then some (0, c)
  else
    let x := c.layerOf f l
    if step < x.s.toNat then none
    else if x.s.toNat < step then
      let e := match x.lmax with
        | some m => max (-128) (min 127 (carryTarget carry - m))
        | none => x.e
      some (e, c.setLayerExp f l { e, s := BitVec.ofNat 64 step, lmax := none })
    else some (x.e, c)

/-- An APPLY of the layer at step S is in progress, and this one is at a later step (R258). -/
def stepWaits (c : Chip) (f l carry step : Nat) : Bool :=
  let x := c.layerOf f l
  carry != 0 && decide (x.s.toNat < step) && (c.cor f).ctxs.any fun k =>
    slugOp k.entry.slug == 0 && upCarry k.entry.slug != 0 && upLayer k.entry.slug == l

/-- A slug ends as it would begin: a read that has faulted leaves its shard undefined, a check that has failed does not (R249, R277). -/
def beginFault (c : Chip) (e : Nat) (ent : QEntry) (st : Status) : Chip :=
  let c1 := match st, readUTds ent with
    | .addrUnmapped, .ok t | .memUe, .ok t | .bufferUe, .ok t | .pathReset, .ok t => c.scramble [t.master, t.st0, t.st1]
    | _, _ => c
  c1.endSlug e .update ent st 0

/-- The HBM reads with which a slug begins: its descriptor, its gate word and its hyperparameter block (R246, R250, R253, R254). -/
def beginReads (c : Chip) (e : Nat) (s : SlugWord) : Chip :=
  let c1 := c.corTouch e (upShard s) 128
  let c2 := if bit s 84 then c1.corTouch e (fld s 383 320) 8 else c1
  if slugOp s = 0 then c2.corTouch e (upHyper s) 64 else c2

/-- Try to begin the head of an engine's UPDATE queue: the descriptor and the hyperparameter block are read now and not again (R246, R249,
R250, R251, R254, R258). -/
def tryBegin (c : Chip) (e : Nat) : Chip :=
  let f := e / 16
  if (c.ctxOf e).isSome || c.formeDown.contains f then c
  else match c.readyHead e .update with
    | none => c
    | some ent0 =>
      if c.prf.hold || c.slotRoom (corUnit e) == 0 then c
      else
        let ent := { ent0 with began := true }
        match c.sessionError ent with
        | some st => c.endSlug e .update ent st 0
        | none =>
        match checkUpdate c e ent with
        | .error st => c.beginFault e ent st
        | .ok (t, d) =>
          match c.gateMet e ent.slug with
          | .error st => c.beginFault e ent st
          | .ok false => c
          | .ok true =>
            let op := slugOp ent.slug
            let remote := c.slowTier op t || op == 2 || op == 3
            let ctxs := (c.cor f).ctxs
            if 4 ≤ ctxs.length || (remote && 2 ≤ (ctxs.filter (·.remote)).length) ||
                ctxs.any (fun x => rangesMeet (c.upRanges (slugOp x.entry.slug) (ctxTds x)) (c.upRanges op t)) then c
            else
              let start (c : Chip) (ex : Int) (hyper : BitVec 512) : Chip :=
                ((c.beginReads e ent.slug).updEntry e .update ent).onCor f fun k =>
                  { k with ctxs := k.ctxs ++ [{ engine := e, entry := ent, remote, e := ex, desc := d, hyper }], turn := e }
              if op = 0 then
                match c.readHyper e ent.slug with
                | .error st => c.beginFault e ent st
                | .ok h =>
                  let step := (Hyper.read h).step
                  if c.stepWaits f (upLayer ent.slug) (upCarry ent.slug) step then c
                  else match c.beginApply f (upLayer ent.slug) (upCarry ent.slug) step with
                    | none => c.endSlug e .update ent .stepOrder 0
                    | some (ex, c1) => start c1 ex h
              else start c 0 0

/-- UPDATE_BEGIN: the forme's queue heads in rotating order, from the engine after the one served last; one begins (R251). -/
def updateBegin (c : Chip) (f : Nat) : Chip :=
  let order := (List.range 16).map fun i => 16 * f + ((c.cor f).turn + 1 + i) % 16
  match order.find? fun e => (c.tryBegin e) != c with
  | some e => c.tryBegin e
  | none => c

/-! ### What the operations share -/

def masterCount (t : UTds) : Nat := match t.master with | some m => m.count | none => 0

/-- The slug goes on later: its context and its queue entry keep what it has. -/
def keepEntry (c : Chip) (e : Nat) (ent : QEntry) : Chip := (c.onCtx e fun x => { x with entry := ent }).updEntry e .update ent

/-- A fault ends the slug: the shard is undefined (R277). DEDUCED, log entry 54. -/
def upFault (c : Chip) (e : Nat) (ent : QEntry) (t : UTds) (st : Status) (detail : Nat) : Chip :=
  (c.scramble [t.master, t.st0, t.st1]).endUpdate e ent st detail

/-- Bytes that a slug must have from elsewhere, and lines it must own, before it computes; then the next phase. -/
def upGather (c : Chip) (e : Nat) (ent : QEntry) (t : UTds) (srcs dsts : List TD) (go : Chip → QEntry → Chip) : Chip :=
  match c.gather e .update ent srcs dsts 256 (corUnit e) with
  | (.failed st, ent1, c1) => c1.upFault e ent1 t st 0
  | (.waiting, ent1, c1) => c1.keepEntry e ent1
  | (.ready, ent1, c1) => go c1 ent1

/-- The chunks of a slug's writes that no failed WRITE touches (R252). -/
def chunksLanded (op : Nat) (t : UTds) (bad : List (Nat × Nat × Status)) : Nat :=
  let n := masterCount t
  let hit (td : TD) (is : List Nat) : Bool := td.space == .broadsheet && is.any fun k =>
    let a := td.addr (coordsOf td.ext k)
    bad.any fun (lo, m, _) => decide (lo < a + td.elemBytes ∧ a < lo + m)
  let idx (i : Nat) : List Nat := (List.range (min chunkSize (n - i * chunkSize))).map (i * chunkSize + ·)
  let hits (i : Nat) : Bool := match op with
    | 4 => t.delta.any fun td => hit td ((idx i).flatMap fun k => addrRange (128 + 4 * k) 4)
    | _ => ([t.master, t.work] ++ (if op = 5 then [] else [t.delta]) ++ [if (t.st0.map TD.count) = some n then t.st0 else none]).any fun x =>
        x.any fun td => hit td (idx i)
  ((List.range (chunksOf n)).filter fun i => !hits i).length

/-- The slug's writes on other devices are awaited; then it goes on, or the first that failed ends it. -/
def upSettle (c : Chip) (e : Nat) (ent : QEntry) (t : UTds) (go : Chip → Chip) : Chip :=
  if c.fabWaiting e ent.id then c.keepEntry e ent
  else match c.failedReqs e ent.id with
    | (a, n, st) :: fs => c.upFault e ent t st (chunksLanded (slugOp ent.slug) t ((a, n, st) :: fs))
    | [] => go (c.clearReqs e ent.id)

/-- Every write is complete: the descriptor is rewritten, what hangs on it is done, and the slug completes (R246, R252). -/
def upFinish (c : Chip) (e : Nat) (ent : QEntry) (t : UTds) (step fpW fpS : Nat) (ex : Int) (after : Chip → Chip) : Chip :=
  match c.writeDesc e ent step fpW fpS ex with
  | .error st => c.upFault e ent t st (chunksOf (masterCount t))
  | .ok c1 => (after c1).endUpdate e ent .success (chunksOf (masterCount t))

/-- The largest number of whole chunks of a shard of `n` elements for which a part of the operation can be carried out, and the chip after
that part. -/
def partDone (c : Chip) (n : Nat) (part : Nat → Except Status Chip) : Nat × Chip :=
  ((List.range (chunksOf n)).reverse.findSome? fun k => match part (k * chunkSize) with
    | .ok c1 => some (k, c1)
    | .error _ => none).getD (0, c)

/-! ### APPLY held on this device -/

/-- Delta values and header (R255, R260). -/
def putDelta (c : Chip) (e : Nat) (ent : QEntry) (t : Option TD) (key i0 : Nat) (cs : List Nat) : Except Status Chip :=
  match t with
  | none => .ok c
  | some t => c.corStore e ent t key (cs.zipIdx.map fun (v, i) =>
      { addr := t.addr (coordsOf t.ext (i0 + i)), bits := v, fmt := t.fmt, high := false })

def deltaHeader (c : Chip) (ent : QEntry) (d : Desc) (ex : Int) (step fpW : Nat) : BitVec 512 :=
  BitVec.ofNat 512 (descShard d + upLayer ent.slug <<< 32 + bitsOfInt 8 ex <<< 42 + upCarry ent.slug <<< 50 + step <<< 64 + fpW <<< 128
    + c.fab.deviceId <<< 192)

/-- A byte view of the 64 bytes below a delta block's values; below address 0 there is no memory. -/
def headerTd (t : TD) : TD :=
  { t with base := (t.base + p2 64 - 64) % p2 64, fmt := .int8, ndim := 1, ext := [64, 1, 1, 1, 1, 1], stride := [0, 0, 0, 0, 0, 0] }

def putDeltaHeader (c : Chip) (e : Nat) (ent : QEntry) (t : Option TD) (key : Nat) (h : BitVec 512) : Except Status Chip :=
  match t with
  | none => .ok c
  | some t =>
    let ht := headerTd t
    c.corStore e ent ht key ((toBytes 64 h.toNat).zipIdx.map fun (b, i) => { addr := ht.base + i, bits := b.toNat, fmt := .int8, high := false })

/-- Counts that an APPLY leaves: clipped elements and the layer's lead (R255, R257). -/
def noteStep (c : Chip) (f : Nat) (ent : QEntry) (o : StepOut) : Chip :=
  let c1 := c.onCor f fun k => { k with clip := bump48 k.clip o.clips }
  if upCarry ent.slug = 0 then c1
  else
    let x := c1.layerOf f (upLayer ent.slug)
    c1.setLayerExp f (upLayer ent.slug) { x with lmax := match x.lmax, o.lmax with
      | none, l => l
      | l, none => l
      | some a, some b => some (max a b) }

/-- An APPLY on local memory as far as its first `m` elements: everything read, then computed, then written (R252, R255). A `whole` one
writes the release flag once it has read its gradient. -/
def applyPart (c : Chip) (e : Nat) (ent : QEntry) (t : UTds) (x : CorCtx) (m : Nat) (whole : Bool) : Except Status Chip := do
  let h := Hyper.read x.hyper
  let mom := fld ent.slug 69 68 == 0
  let is := List.range m
  let (grad, c) ← c.corLoad e ent t.grad (if mom then is else List.range (masterCount t))
  let (w, c) ← c.corLoad e ent t.master is
  let (s0, c) ← c.corLoad e ent t.st0 (if mom then is else List.range (t.st0.elim 0 TD.count))
  let (s1, c) ← c.corLoad e ent t.st1 (List.range (t.st1.elim 0 TD.count))
  let c ← if whole then c.releaseFlag e ent h.step else .ok c
  let carry := upCarry ent.slug
  let ncol := match t.master with | some m => m.ext.headD 0 | none => 0
  let nrow := match t.master with | some m => m.ext.getD 1 1 | none => 0
  let (o, n0, n1) :=
    if mom then
      let o := applyMomentum h carry x.e (grad.zip (w.zip s0))
      (o, o.m, ([] : List W32))
    else
      let (row, col) := factors h ncol nrow grad s0 s1
      (applyFactored h carry x.e ncol nrow row col (grad.zipIdx.zip w |>.map fun ((g, i), w) => (i, g, w)), row, col)
  let c ← if mom || whole then c.putWords e ent t.st0 1 0 n0 else .ok c
  let c ← if whole then c.putWords e ent (if n1.isEmpty then none else t.st1) 1 0 n1 else .ok c
  let c ← c.putWords e ent t.master 1 0 o.w
  let c ← c.putWork e ent t.work 1 0 o.w
  let c ← c.putDelta e ent t.delta 1 0 o.c
  return ((c.noteStep (e / 16) ent o).onCtx e fun x => { x with fpW := BitVec.ofNat 64 (fingerprint o.w), fpS := BitVec.ofNat 64 (fingerprint (n0 ++ n1)) })

/-- An APPLY whose values are written (phase 1) writes the header of its delta block once they all are complete, and (phase 2) the
descriptor after that (R252, R260). -/
def applyEnd (c : Chip) (e : Nat) (ent : QEntry) (t : UTds) (x : CorCtx) : Chip :=
  let h := Hyper.read x.hyper
  let done (ent : QEntry) (c : Chip) : Chip :=
    c.upSettle e ent t fun c => c.upFinish e ent t h.step x.fpW.toNat x.fpS.toNat x.e fun c => c
  if ent.prog.phase = 1 then
    c.upSettle e ent t fun c =>
      match c.putDeltaHeader e ent t.delta 2 (c.deltaHeader ent x.desc x.e h.step x.fpW.toNat) with
      | .error st => c.upFault e ent t st (chunksOf (masterCount t))
      | .ok c1 =>
        let ent1 := { ent with prog := { ent.prog with phase := 2 } }
        done ent1 (c1.keepEntry e ent1)
  else done ent c

/-! ### Slow-tier APPLY (R262 to R264) -/

/-- Request keys of a chunk: its gets and its puts. -/
def getKey (i : Nat) : Nat := 100 + 2 * i
def putKey (i : Nat) : Nat := 101 + 2 * i
def chunkIdx (n i : Nat) : List Nat := (List.range (min chunkSize (n - i * chunkSize))).map (i * chunkSize + ·)

/-- Issue the gets of a chunk's state (R263, step 3). -/
def chunkGets (c : Chip) (e : Nat) (ent : QEntry) (t : UTds) (i n : Nat) : Chip :=
  let tds := [t.master, if fld ent.slug 69 68 = 0 then t.st0 else none].filterMap id |>.filter c.remoteTd
  tds.foldl (fun c td =>
    let bytes := sortAddrs ((chunkIdx n i).flatMap fun k => addrRange (td.addr (coordsOf td.ext k)) 4)
    (runsOf (bytes.map fun a => (a, (0 : Byte)))).foldl (fun c (a, bs) =>
      (splitRun 256 bs.length a bs.length).foldl (fun c (b, k) =>
        c.request e ent.id (getKey i) (b >>> 48) { opcode := opRead, dst := b >>> 48, addr := b % p2 48, unit := corUnit e, lenW := k / 4 } []) c) c) c

/-- The first slot not in use. -/
def freeSlot (x : CorCtx) (slots : Nat) : Option Nat := (List.range slots).find? fun i => x.chunks.all fun k => k.slot != i

/-- Part `j` of a slot's contents: 0 the gradient, 1 the master weights, 2 the moment, 16 KiB each in the order of R262 (DEDUCED, log entry
54). -/
def slotCells (p : TD) (opt slot j : Nat) (ws : List W32) : List (Nat × Byte) :=
  (wordBytes ws).zipIdx.map fun (b, i) => (p.addr [slot * slotBytes opt + 0x4000 * j + i], b)

/-- A slot takes the state that has come for its chunk (R263, step 3). -/
def slotState (c : Chip) (e : Nat) (t : UTds) (opt slot : Nat) (w s0 : List W32) : Except Status Chip :=
  match t.park with
  | none => .ok c
  | some p => c.writeLocal (e / 16) none (slotCells p opt slot 1 w ++ slotCells p opt slot 2 s0)

/-- The gradient that a slot holds of a chunk. -/
def slotGrad (c : Chip) (e : Nat) (t : UTds) (opt slot n : Nat) : Except Status (List W32) :=
  match t.park with
  | none => .ok []
  | some p => (c.readLocal (e / 16) ((List.range (4 * n)).map fun i => p.addr [slot * slotBytes opt + i])).map fun bs =>
      (List.range n).map fun i => BitVec.ofNat 32 (ofBytes ((bs.drop (4 * i)).take 4))

/-- Park chunks while a slot is free and fewer than 64 are in flight; the release flag follows the last (R263, steps 2, 3 and 6). `fuel`
bounds the chunks. -/
def parkChunks : Nat → Nat → QEntry → UTds → Chip → Except Status Chip
  | 0, _, _, _, c => .ok c
  | fuel + 1, e, ent, t, c =>
    match c.ctxOf e, t.park with
    | some x, some p =>
      let n := masterCount t
      let opt := fld ent.slug 69 68
      if chunksOf n ≤ x.next || x.fail then .ok c
      else match freeSlot x (min 64 (p.count / slotBytes opt)) with
        | none => .ok c
        | some slot =>
          match c.corLoad e ent t.grad (chunkIdx n x.next) with
          | .error st => .error st
          | .ok (gs, c0) =>
            match c0.writeLocal (e / 16) none (slotCells p opt slot 0 gs) with
            | .error st => .error st
            | .ok c1 =>
              let c2 := (c1.onCtx e fun x => { x with next := x.next + 1, chunks := x.chunks ++ [{ idx := x.next, slot }] }).chunkGets e ent t x.next n
              if x.next + 1 = chunksOf n then (c2.releaseFlag e ent (Hyper.read x.hyper).step).bind (parkChunks fuel e ent t)
              else parkChunks fuel e ent t c2
    | _, _ => .ok c

/-- The slug's requests of one key. -/
def keyReqs (c : Chip) (e id key : Nat) : List FabReq := c.fab.reqs.filter fun r => r.engine == e && r.entry == id && r.key == key
def keyDone (c : Chip) (e id key : Nat) : Bool := (c.keyReqs e id key).all fun r => r.answer.isSome
def keyBad (c : Chip) (e id key : Nat) : Option Status :=
  (c.keyReqs e id key).findSome? fun r => match r.answer with
    | some (.success, _) => none
    | some (st, _) => some st
    | none => none
def dropKey (c : Chip) (e id key : Nat) : Chip :=
  c.onFab fun f => { f with reqs := f.reqs.filter fun r => !(r.engine == e && r.entry == id && r.key == key) }

/-- Requests of one key that answered PATH_RESET are issued again, once this forme's fabric unit has recovered (R264). -/
def reissue (c : Chip) (e id key : Nat) : Chip :=
  if c.domDown.contains (16 + e / 16) then c
  else
    let again (r : FabReq) : Bool := r.engine == e && r.entry == id && r.key == key && r.answer.map (·.1) == some .pathReset
    let c1 := c.onFab fun f => { f with reqs := f.reqs.filter fun r => !again r }
    (c.fab.reqs.filter again).foldl (fun c r => let h := THdr.dec r.thdr; c.request e id key h.dst h r.payload) c1

/-- The slug finishes no further chunk (R264). -/
def failSlow (c : Chip) (e : Nat) : Chip := c.onCtx e fun x => { x with fail := true }

/-- A chunk's puts are all acknowledged. -/
def chunkPut (c : Chip) (e : Nat) (ent : QEntry) (k : CorChunk) : Bool :=
  k.puts && c.keyDone e ent.id (putKey k.idx) && (c.keyBad e ent.id (putKey k.idx)).isNone

/-- Elements of a shard of `n` that lie in chunks whose puts were not all acknowledged. -/
def openIdx (c : Chip) (e : Nat) (ent : QEntry) (x : CorCtx) (n : Nat) : List Nat :=
  ((List.range (chunksOf n)).filter fun i => Nat.ble x.next i || x.chunks.any fun k => k.idx == i && !c.chunkPut e ent k).flatMap (chunkIdx n)

/-- A failed slug ends with STATE_UNREACHABLE once no put that it issued is on its way; the state of the chunks that are not put is undefined
(R264). -/
def settleSlow (c : Chip) (e : Nat) (ent : QEntry) (t : UTds) : Chip :=
  match c.ctxOf e with
  | none => c
  | some x =>
    let flying : Bool := c.fab.reqs.any fun r => r.engine == e && r.entry == ent.id && r.answer.isNone && !r.queued && fld r.thdr 7 0 == opWrite
    if x.fail && !flying then
      let n := masterCount t
      let mom := fld ent.slug 69 68 == 0
      let lost := c.openIdx e ent x n
      let c1 := ([t.master] ++ if mom then [t.st0] else []).foldl (fun c td => match td with
        | some td => c.scrambleAt td lost
        | none => c) c
      (if mom then c1 else c1.scramble [t.st0, t.st1]).endUpdate e ent .stateUnreachable
        (x.doneCh + (x.chunks.filter (c.chunkPut e ent)).length)
    else c

/-- Bytes that a chunk's gets brought, as cells. -/
def chunkCells (c : Chip) (e id key : Nat) : List Host.Cell :=
  (c.keyReqs e id key).foldl (fun cs r => match r.answer with
    | some (_, bs) => addCells cs (fld r.thdr 31 16 * p2 48 + fld r.thdr 111 64) bs
    | none => cs) []

/-- One chunk computed once its state is here, in its slot: working copy and delta stored, then the puts (R263, steps 3 to 5). -/
def chunkCompute (c : Chip) (e : Nat) (ent : QEntry) (t : UTds) (x : CorCtx) (k : CorChunk) : Except Status Chip := do
  let h := Hyper.read x.hyper
  let n := masterCount t
  let is := chunkIdx n k.idx
  let opt := fld ent.slug 69 68
  let mom := opt == 0
  let entG := { ent with prog := { ent.prog with gotB := c.chunkCells e ent.id (getKey k.idx) } }
  let (w, c) ← c.corLoad e entG t.master is
  let (s0, c) ← c.corLoad e entG (if mom then t.st0 else none) is
  let c ← c.slotState e t opt k.slot w s0
  let grad ← c.slotGrad e t opt k.slot is.length
  let carry := upCarry ent.slug
  let ncol := match t.master with | some m => m.ext.headD 0 | none => 0
  let nrow := match t.master with | some m => m.ext.getD 1 1 | none => 0
  let o := if mom then applyMomentum h carry x.e (grad.zip (w.zip s0))
    else applyFactored h carry x.e ncol nrow x.row x.col (is.zip (grad.zip w))
  let i0 := k.idx * chunkSize
  let c ← c.putWork e ent t.work (putKey k.idx) i0 o.w
  let c ← c.putDelta e ent t.delta (putKey k.idx) i0 o.c
  let c ← c.putWords e ent (if mom then t.st0 else none) (putKey k.idx) i0 o.m
  let c ← c.putWords e ent t.master (putKey k.idx) i0 o.w
  let c := (c.noteStep (e / 16) ent o).dropKey e ent.id (getKey k.idx)
  return c.onCtx e fun x => { x with
    chunks := x.chunks.map fun q => if q.idx = k.idx then { q with puts := true } else q,
    outW := o.w.zipIdx.foldl (fun tb (v, i) => Tab.set (i0 + i) v tb) x.outW,
    outM := o.m.zipIdx.foldl (fun tb (v, i) => Tab.set (i0 + i) v tb) x.outM }

/-- CHUNK_STATE_ARRIVED: the first chunk whose gets are answered (R263, R264). -/
def chunkArrived (c : Chip) (e : Nat) : Chip :=
  match c.ctxOf e with
  | none => c
  | some x =>
    let ent := x.entry
    let t := ctxTds x
    match x.chunks.find? fun k => !k.puts && c.keyDone e ent.id (getKey k.idx) with
    | none => c
    | some k =>
      if x.fail then c.settleSlow e ent t
      else match c.keyBad e ent.id (getKey k.idx) with
        | some .pathReset => c.reissue e ent.id (getKey k.idx)
        | some _ => (c.failSlow e).settleSlow e ent t
        | none =>
          match c.chunkCompute e ent t x k with
          | .error st => c.upFault e ent t st x.doneCh
          | .ok c1 => c1

/-- The last writes of a slow-tier slug are awaited: those that met PATH_RESET are issued again, and any other failure ends the slug with
STATE_UNREACHABLE (R264). -/
def slowSettle (c : Chip) (e : Nat) (ent : QEntry) (t : UTds) (go : Chip → Chip) : Chip :=
  if c.fabWaiting e ent.id then c
  else match c.failedReqs e ent.id with
    | [] => go (c.clearReqs e ent.id)
    | fs => if fs.all fun f => f.2.2 == .pathReset then (c.reissue e ent.id 1).reissue e ent.id 2 else (c.failSlow e).settleSlow e ent t

/-- The end of a slow-tier slug: the factors are put under FACTORED (phase 3), the delta header is written once they are complete (phase 4),
and the descriptor last (R260, R263). -/
def slowEnd (c : Chip) (e : Nat) (ent : QEntry) (t : UTds) (x : CorCtx) : Chip :=
  let n := masterCount t
  let mom := fld ent.slug 69 68 == 0
  let ws := (List.range n).map fun i => Tab.get 0 x.outW i
  let fpS := fingerprint (if mom then (List.range n).map fun i => Tab.get 0 x.outM i else x.row ++ x.col)
  let step := (Hyper.read x.hyper).step
  let done (ent : QEntry) (c : Chip) : Chip :=
    c.slowSettle e ent t fun c => c.upFinish e ent t step (fingerprint ws) fpS x.e fun c => c
  let header (ent : QEntry) (c : Chip) : Chip :=
    c.slowSettle e ent t fun c =>
      match c.putDeltaHeader e ent t.delta 2 (c.deltaHeader ent x.desc x.e step (fingerprint ws)) with
      | .error s => c.upFault e ent t s x.doneCh
      | .ok c1 =>
        let ent1 := { ent with prog := { ent.prog with phase := 4 } }
        done ent1 (c1.keepEntry e ent1)
  match ent.prog.phase with
  | 4 => done ent c
  | 3 => header ent c
  | _ =>
    let r : Except Status Chip := if mom then .ok c else do
      let c ← c.putWords e ent t.st0 1 0 x.row
      c.putWords e ent t.st1 1 0 x.col
    match r with
    | .error s => c.upFault e ent t s x.doneCh
    | .ok c1 =>
      let ent1 := { ent with prog := { ent.prog with phase := 3 } }
      header ent1 (c1.keepEntry e ent1)

/-- Parking goes on; a slug of no elements has nothing to park and writes its release flag at once (R252, R263). -/
def slowPark (c : Chip) (e : Nat) (ent : QEntry) (t : UTds) (x : CorCtx) : Chip :=
  if chunksOf (masterCount t) = 0 then
    match c.releaseFlag e ent (Hyper.read x.hyper).step with
    | .ok c1 => c1.slowEnd e ent t x
    | .error st => c.upFault e ent t st 0
  else match parkChunks 64 e ent t c with
    | .ok c1 => c1
    | .error st => c.upFault e ent t st x.doneCh

/-- CHUNK_PUT_ACK: a chunk whose puts are acknowledged frees its slot, and parking goes on (R263, R264). -/
def chunkAck (c : Chip) (e : Nat) : Chip :=
  match c.ctxOf e with
  | none => c
  | some x =>
    let ent := x.entry
    let t := ctxTds x
    if !c.slowTier (slugOp ent.slug) t then c
    else match x.chunks.find? fun k => k.puts && c.keyDone e ent.id (putKey k.idx) with
      | none => if x.fail then c.settleSlow e ent t else if 3 ≤ ent.prog.phase then c.slowEnd e ent t x else c
      | some k =>
        match c.keyBad e ent.id (putKey k.idx) with
        | some .pathReset => if x.fail then c.settleSlow e ent t else c.reissue e ent.id (putKey k.idx)
        | some _ => (c.failSlow e).settleSlow e ent t
        | none =>
          let c1 := (c.dropKey e ent.id (putKey k.idx)).onCtx e fun x => { x with doneCh := x.doneCh + 1, chunks := x.chunks.filter fun q => q.idx != k.idx }
          match c1.ctxOf e with
          | none => c1
          | some x1 =>
            if x1.fail then c1.settleSlow e ent t
            else if x1.doneCh = chunksOf (masterCount t) then c1.slowEnd e ent t x1
            else c1.slowPark e ent t x1

/-- A slow-tier APPLY begins, or parks what it can; under FACTORED it first reads the gradient in full and fetches and updates its factors
(R263). A factor that cannot be fetched ends it as R264 says, and poison in a HOST working copy's line as a local fault does (R277, R350). -/
def slowApply (c : Chip) (e : Nat) (ent : QEntry) (t : UTds) (x : CorCtx) : Chip :=
  if 3 ≤ ent.prog.phase then c.slowEnd e ent t x
  else if x.fail then c.settleSlow e ent t
  else if x.started then c.slowPark e ent t x
  else
    let mom := fld ent.slug 69 68 == 0
    match c.gather e .update ent (if mom then [] else [t.st0, t.st1].filterMap id) t.work.toList 256 (corUnit e) with
    | (.failed .pathReset, ent1, c1) => c1.keepEntry e ent1
    | (.failed .hostPoison, ent1, c1) => c1.upFault e ent1 t .hostPoison 0
    | (.failed _, ent1, c1) => ((c1.keepEntry e ent1).failSlow e).settleSlow e ent1 t
    | (.waiting, ent1, c1) => c1.keepEntry e ent1
    | (.ready, ent1, c1) =>
      let r : Except Status (List W32 × List W32 × Chip) := if mom then .ok ([], [], c1) else do
        let (grad, c) ← c1.corLoad e ent1 t.grad (List.range (masterCount t))
        let (s0, c) ← c.corLoad e ent1 t.st0 (List.range (t.st0.elim 0 TD.count))
        let (s1, c) ← c.corLoad e ent1 t.st1 (List.range (t.st1.elim 0 TD.count))
        let ncol := match t.master with | some m => m.ext.headD 0 | none => 0
        let nrow := match t.master with | some m => m.ext.getD 1 1 | none => 0
        let (row, col) := factors (Hyper.read x.hyper) ncol nrow grad s0 s1
        return (row, col, c)
      match r with
      | .error st => c1.upFault e ent1 t st 0
      | .ok (row, col, c2) =>
        (c2.onCtx e fun x => { x with started := true, row, col, entry := ent1 }).slowPark e ent1 t { x with started := true, row, col, entry := ent1 }

/-! ### The operations -/

/-- APPLY (R255, R263): a fault leaves the chunks before it complete. DEDUCED, log entry 54. -/
def upApply (c : Chip) (e : Nat) (x : CorCtx) : Chip :=
  let ent := x.entry
  let t := ctxTds x
  if c.slowTier 0 t then c.slowApply e ent t x
  else if ent.prog.phase ≠ 0 then c.applyEnd e ent t x
  else c.upGather e ent t [] (t.work.toList ++ t.delta.toList) fun c ent1 =>
    match c.applyPart e ent1 t x (masterCount t) true with
    | .error st =>
      let (k, c1) := c.partDone (masterCount t) fun m => c.applyPart e ent1 t x m false
      c1.upFault e ent1 t st k
    | .ok c1 =>
      let ent2 := { ent1 with prog := { ent1.prog with phase := 1 } }
      let c2 := c1.keepEntry e ent2
      match c2.ctxOf e with
      | some x2 => c2.applyEnd e ent2 t x2
      | none => c2

/-- The event items of a divergence (R269). -/
def divergeItems (d : Desc) (ent : QEntry) (peer : Nat) (step fpW fpS peerW peerS : Nat) : List W64 :=
  let w (lo : Nat) : W64 := BitVec.ofNat 64 (fld d (lo + 63) lo)
  [BitVec.ofNat 64 (descShard d + upLayer ent.slug <<< 32 + fld d 37 35 <<< 42 + peer <<< 48), w 64, w 128, w 192, w 256, w 320, w 384, w 448,
   BitVec.ofNat 64 step, BitVec.ofNat 64 fpW, BitVec.ofNat 64 fpS, BitVec.ofNat 64 peerW, BitVec.ofNat 64 peerS]

/-- Bytes of an INT8 TD from element `i0`, for a corrector. -/
def corBytes (c : Chip) (e : Nat) (ent : QEntry) (t : TD) (i0 n : Nat) : Except Status (List Byte) :=
  (List.range n).mapM fun i => (c.corRead e ent t (i0 + i)).map (BitVec.ofNat 8)

/-- The new master weight of APPLY_DELTA: w − c × 2^−E, rounded once (R255, R261). -/
def deltaWord (f : Fmt) (ex : Int) (w : W32) (c : Nat) : W32 := toF32 (FVal.sub (f32 w) ((f.decode c).scale (-ex)))

/-- An APPLY_DELTA as far as its first `m` elements (R252, R261). -/
def deltaPart (c : Chip) (e : Nat) (ent : QEntry) (t : UTds) (dt : TD) (h : BitVec 512) (m : Nat) (whole : Bool) : Except Status Chip := do
  let (w, c) ← c.corLoad e ent t.master (List.range m)
  let cs ← (List.range m).mapM fun i => c.corRead e ent dt i
  let c := c.corFetch e dt (List.range m)
  let c ← if whole then c.releaseFlag e ent (fld h 127 64) else .ok c
  let w1 := (w.zip cs).map fun (w, b) => deltaWord dt.fmt (signedOf 8 (fld h 49 42)) w b
  let c ← c.putWords e ent t.master 1 0 w1
  let c ← c.putWork e ent t.work 1 0 w1
  return c.onCtx e fun x => { x with fpW := BitVec.ofNat 64 (fingerprint w1), head := h.setWidth 1024 }

/-- APPLY_DELTA (R261). -/
def upApplyDelta (c : Chip) (e : Nat) (x : CorCtx) : Chip :=
  let ent := x.entry
  let t := ctxTds x
  let d := x.desc
  match t.delta with
  | none => c
  | some dt =>
    let finish (c : Chip) (ent : QEntry) (x : CorCtx) : Chip :=
      let h := x.head
      c.upSettle e ent t fun c =>
        if x.fpW.toNat = fld h 191 128 then
          c.upFinish e ent t (fld h 127 64) x.fpW.toNat (descFpS d) (signedOf 8 (fld h 49 42)) fun c => c
        else c.endUpdateWith e ent .replicaDiverged (chunksOf (masterCount t))
          (divergeItems d ent (fld h 207 192) (descStep d) x.fpW.toNat (descFpS d) (fld h 191 128) 0)
    if ent.prog.phase = 1 then finish c ent x
    else c.upGather e ent t (headerTd dt :: dt :: t.master.toList) t.work.toList fun c ent1 =>
      match c.corBytes e ent1 (headerTd dt) 0 64 with
      | .error st => c.upFault e ent1 t st 0
      | .ok bs =>
        let h := BitVec.ofNat 512 (ofBytes bs)
        if fld h 31 0 ≠ descShard d ∨ fld h 127 64 ≤ descStep d ∨ fld h 53 50 ≠ dt.fmt.code then c.endUpdate e ent1 .imageMismatch 0
        else match c.deltaPart e ent1 t dt h (masterCount t) true with
          | .error st =>
            let (k, c1) := c.partDone (masterCount t) fun m => c.deltaPart e ent1 t dt h m false
            c1.upFault e ent1 t st k
          | .ok c1 =>
            let ent2 := { ent1 with prog := { ent1.prog with phase := 1 } }
            let c2 := c1.keepEntry e ent2
            match c2.ctxOf e with
            | some x2 => finish c2 ent2 x2
            | none => c2

/-- The words of a shard and of its state as memory holds them. -/
def shardWords (c : Chip) (e : Nat) (ent : QEntry) (m s0 s1 : Option TD) : Except Status (List W32 × List W32 × List W32 × Chip) := do
  let (w, c) ← c.corLoad e ent m (List.range (m.elim 0 TD.count))
  let (a, c) ← c.corLoad e ent s0 (List.range (s0.elim 0 TD.count))
  let (b, c) ← c.corLoad e ent s1 (List.range (s1.elim 0 TD.count))
  return (w, a, b, c)

/-- STATE_CHANGED (R267, R271). -/
def stateChanged (c : Chip) (e : Nat) (d : Desc) (fpW fpS : Nat) : Chip :=
  if fpW = descFpW d ∧ fpS = descFpS d then c
  else c.raise evStateChanged .deferred (corUnit e) (.forme (e / 16)) [BitVec.ofNat 64 (descShard d)]

/-- The record of R266, without SEAL. -/
def fpRecord (c : Chip) (d : Desc) (x : CorCtx) : List Byte :=
  toBytes 56 (descStep d + descShard d <<< 64 + c.fab.deviceId <<< 96 + x.fpW.toNat <<< 128 + x.fpS.toNat <<< 192)

/-- FP_EXCHANGE: recompute, then the record, then its SEAL, then the wait (R267). -/
def upExchange (c : Chip) (e : Nat) (x : CorCtx) : Chip :=
  let ent := x.entry
  let t := ctxTds x
  let d := x.desc
  let inbox := upPeer ent.slug * p2 48 + upAux ent.slug
  let send (c : Chip) (ent : QEntry) (phase a : Nat) (bs : List Byte) : Chip :=
    let ent1 := { ent with prog := { ent.prog with phase } }
    (c.keepEntry e ent1).request e ent.id 1 (a >>> 48) { opcode := opWrite, dst := a >>> 48, addr := a % p2 48, unit := corUnit e } bs
  let answered (c : Chip) (go : Chip → Chip) : Chip :=
    if c.fabWaiting e ent.id then c
    else match c.failedReqs e ent.id with
      | (_, _, st) :: _ => c.endUpdate e ent st 0
      | [] => go (c.clearReqs e ent.id)
  match ent.prog.phase with
  | 0 =>
    if bit ent.slug 86 then
      c.upGather e ent t ([t.master, t.st0, t.st1].filterMap id) [] fun c ent1 =>
        match c.shardWords e ent1 t.master t.st0 t.st1 with
        | .error st => c.upFault e ent1 t st 0
        | .ok (w, a, b, c1) =>
          let fpW := fingerprint w
          let fpS := fingerprint (a ++ b)
          let c2 := (c1.stateChanged e d fpW fpS).onCtx e fun x => { x with fpW := BitVec.ofNat 64 fpW, fpS := BitVec.ofNat 64 fpS }
          match c2.ctxOf e with
          | some x1 => send c2 ent1 1 inbox (c2.fpRecord d x1)
          | none => c2
    else
      let c1 := c.onCtx e fun x => { x with fpW := BitVec.ofNat 64 (descFpW d), fpS := BitVec.ofNat 64 (descFpS d) }
      match c1.ctxOf e with
      | some x1 => send c1 ent 1 inbox (c1.fpRecord d x1)
      | none => c1
  | 1 => answered c fun c => send c ent 2 (inbox + 56) (toBytes 8 (descStep d))
  | 2 => answered c fun c =>
      let ent1 := { ent with prog := { ent.prog with phase := 3 } }
      (c.onCtx e fun x => { x with entry := ent1, waitPeer := true }).updEntry e .update ent1
  | _ => c

/-- FP_RECORD_ARRIVED: the inbox is read, and a sealed record is compared (R267, steps 3 to 5). -/
def fpArrived (c : Chip) (e : Nat) : Chip :=
  match c.ctxOf e with
  | none => c
  | some x =>
    if !x.waitPeer then c
    else
      let ent := x.entry
      let d := x.desc
      match c.readLocal (e / 16) (addrRange (upAux ent.slug) 64) with
      | .error st => c.upFault e ent (ctxTds x) st 0
      | .ok bs =>
        let c := c.corTouch e (upAux ent.slug) 64
        let r := BitVec.ofNat 512 (ofBytes bs)
        let step := descStep d
        if fld r 511 448 < step then c
        else if fld r 511 448 ≠ step ∨ fld r 63 0 ≠ step ∨ fld r 95 64 ≠ descShard d then c.endUpdate e ent .fpRecordMismatch 0
        else if fld r 191 128 = x.fpW.toNat ∧ (!descLockstep d ∨ fld r 255 192 = x.fpS.toNat) then c.endUpdate e ent .success 0
        else c.endUpdateWith e ent .replicaDiverged 0
          (divergeItems d ent (upPeer ent.slug) step x.fpW.toNat x.fpS.toNat (fld r 191 128) (fld r 255 192))

/-- FP_TIMEOUT (R267, step 3). -/
def fpTimeout (c : Chip) (e : Nat) : Chip :=
  match c.ctxOf e with
  | none => c
  | some x =>
    if !x.waitPeer then c
    else if descStep x.desc ≤ c.seenWord (upAux x.entry.slug + 56) 8 then c else c.endUpdate e x.entry .fpTimeout 0

/-- A TD's elements at the same LOCAL addresses of another device. -/
def onPeer (peer : Nat) (t : TD) : TD := { t with space := .broadsheet, base := peer * p2 48 + t.base % p2 48 }

/-- The exponent table takes a shard's exponent (R270, R272). -/
def adoptExp (c : Chip) (e : Nat) (ent : QEntry) (ex : Int) (step : Nat) : Chip :=
  c.setLayerExp (e / 16) (upLayer ent.slug) { e := ex, s := BitVec.ofNat 64 step, lmax := none }

/-- A peer's descriptor as a TD. -/
def descTd (peer addr : Nat) : TD :=
  { id := 0, base := peer * p2 48 + addr, scale := 0, stream := 0, fmt := .int8, rmode := .rne, sat := false, scaleEn := false, ndim := 1,
    space := .broadsheet, streaming := false, ext := [128, 1, 1, 1, 1, 1], stride := [0, 0, 0, 0, 0, 0] }

/-- The shard, its state and its working copy are written, and their fingerprints kept beside the header that came with them. -/
def putShard (c : Chip) (e : Nat) (ent : QEntry) (t : UTds) (head : Desc) (w s0 s1 : List W32) : Except Status Chip := do
  let c ← c.putWords e ent t.master 1 0 w
  let c ← c.putWords e ent t.st0 1 0 s0
  let c ← c.putWords e ent t.st1 1 0 s1
  let c ← c.putWork e ent t.work 1 0 w
  return c.onCtx e fun x => { x with fpW := BitVec.ofNat 64 (fingerprint w), fpS := BitVec.ofNat 64 (fingerprint (s0 ++ s1)), head }

/-- A shard that REPAIR or IMPORT has written is complete: fingerprints that agree with those that came with it give the descriptor and the
exponent table their new values, and others leave the shard undefined (R270, R272). -/
def adoptShard (c : Chip) (e : Nat) (ent : QEntry) (t : UTds) (x : CorCtx) (bad : Status) : Chip :=
  let h := x.head
  c.upSettle e ent t fun c =>
    if descFpW h = x.fpW.toNat ∧ descFpS h = x.fpS.toNat then
      let ex := signedOf 8 (fld h 711 704)
      c.upFinish e ent t (descStep h) (descFpW h) (descFpS h) ex fun c => c.adoptExp e ent ex (descStep h)
    else c.upFault e ent t bad (chunksOf (masterCount t))

/-- The writes of a REPAIR or an IMPORT have been made; it goes on to its end. -/
def shardWritten (c : Chip) (e : Nat) (ent : QEntry) (t : UTds) (bad : Status) (r : Except Status Chip) : Chip :=
  match r with
  | .error st => c.upFault e ent t st 0
  | .ok c1 =>
    let ent2 := { ent with prog := { ent.prog with phase := 1 } }
    let c2 := c1.keepEntry e ent2
    match c2.ctxOf e with
    | some x2 => c2.adoptShard e ent2 t x2 bad
    | none => c2

/-- REPAIR (R270). -/
def upRepair (c : Chip) (e : Nat) (x : CorCtx) : Chip :=
  let ent := x.entry
  let t := ctxTds x
  let peer := upPeer ent.slug
  let pd := descTd peer (upShard ent.slug)
  let far (o : Option TD) : Option TD := o.map (onPeer peer)
  if ent.prog.phase = 1 then c.adoptShard e ent t x .repairUnstable
  else c.upGather e ent t (pd :: ([far t.master, far t.st0, far t.st1].filterMap id)) t.work.toList fun c ent1 =>
    c.shardWritten e ent1 t .repairUnstable do
      let hb ← c.corBytes e ent1 pd 0 128
      let (w, s0, s1, c) ← c.shardWords e ent1 (far t.master) (far t.st0) (far t.st1)
      let c ← c.putShard e ent1 t (BitVec.ofNat 1024 (ofBytes hb)) w s0 s1
      return c.scramble [t.park]

/-- The header of a shard image (R271). -/
def imageHeader (d : Desc) (t : UTds) (fpW fpS : Nat) : Desc :=
  let m := match t.master with | some m => m.ext | none => []
  BitVec.ofNat 1024 (d.toNat % p2 576 + fpW <<< 576 + fpS <<< 640 + fld d 711 704 <<< 704 + 1 <<< 712
    + ((List.range 6).map fun i => m.getD i 1 <<< (720 + 24 * i)).sum + imagePayload t <<< 864)

/-- EXPORT (R271). -/
def upExport (c : Chip) (e : Nat) (x : CorCtx) : Chip :=
  let ent := x.entry
  let t := ctxTds x
  let fin (c : Chip) (ent : QEntry) : Chip := c.upSettle e ent t fun c => c.endUpdate e ent .success (chunksOf (masterCount t))
  if ent.prog.phase = 1 then fin c ent
  else c.upGather e ent t ([t.master, t.st0, t.st1].filterMap id) [] fun c ent1 =>
    let r : Except Status Chip := do
      let (w, s0, s1, c) ← c.shardWords e ent1 t.master t.st0 t.st1
      let fpW := fingerprint w
      let fpS := fingerprint (s0 ++ s1)
      let bytes := toBytes 128 (imageHeader x.desc t fpW fpS).toNat ++ wordBytes (w ++ s0 ++ s1)
      let c := c.stateChanged e x.desc fpW fpS
      match t.delta with
      | none => .ok c
      | some img => c.corStore e ent1 img 1 (bytes.zipIdx.map fun (b, i) =>
          { addr := img.addr (coordsOf img.ext i), bits := b.toNat, fmt := .int8, high := false })
    match r with
    | .error st => c.upFault e ent1 t st 0
    | .ok c1 =>
      let ent2 := { ent1 with prog := { ent1.prog with phase := 1 } }
      fin (c1.keepEntry e ent2) ent2

/-- An image header matches the descriptor and the TDs (R272). -/
def imageMatches (h d : Desc) (t : UTds) : Bool :=
  let m := match t.master with | some m => m.ext | none => []
  fld h 31 0 == fld d 31 0 && fld h 127 64 == fld d 127 64 && descOpt h == descOpt d && fld h 37 35 == fld d 37 35 &&
  fld h 511 128 == fld d 511 128 && (List.range 6).all (fun i => fld h (743 + 24 * i) (720 + 24 * i) == m.getD i 1) &&
  fld h 719 712 == 1 && fld h 927 864 == imagePayload t

/-- The words of an image from byte `i0` (R271). -/
def imageWords (c : Chip) (e : Nat) (ent : QEntry) (img : TD) (i0 : Nat) (td : Option TD) : Except Status (List W32) :=
  (List.range (td.elim 0 TD.count)).mapM fun i => (c.corBytes e ent img (i0 + 4 * i) 4).map fun b => BitVec.ofNat 32 (ofBytes b)

/-- IMPORT (R272). -/
def upImport (c : Chip) (e : Nat) (x : CorCtx) : Chip :=
  let ent := x.entry
  let t := ctxTds x
  match t.delta with
  | none => c
  | some img =>
    if ent.prog.phase = 1 then c.adoptShard e ent t x .imageCorrupt
    else c.upGather e ent t [img] t.work.toList fun c ent1 =>
      match c.corBytes e ent1 img 0 128 with
      | .error st => c.upFault e ent1 t st 0
      | .ok hb =>
        let h : Desc := BitVec.ofNat 1024 (ofBytes hb)
        if !imageMatches h x.desc t then c.endUpdate e ent1 .imageMismatch 0
        else
          let size (td : Option TD) : Nat := 4 * td.elim 0 TD.count
          c.shardWritten e ent1 t .imageCorrupt do
            let w ← c.imageWords e ent1 img 128 t.master
            let s0 ← c.imageWords e ent1 img (128 + size t.master) t.st0
            let s1 ← c.imageWords e ent1 img (128 + size t.master + size t.st0) t.st1
            (c.corFetch e img (List.range (128 + imagePayload t))).putShard e ent1 t h w s0 s1

/-- The shape of every row of the UPDATE class: issue, admission, the head begins if it may, and a slug of the row that has begun
goes on. -/
def runUpdate (c : Chip) (e op : Nat) (w : Option SlugWord) (run : Chip → Nat → CorCtx → Chip) : Chip :=
  let c1 := (c.issueFirst e w).pumpE e
  let row (s : SlugWord) : Bool := slugOp s == op || (op == 0 && decide (5 < slugOp s))
  match (c1.engine e).qUpdate with
  | [] => c1
  | ent :: _ =>
    if !row ent.slug then c1
    else
      let c2 := c1.tryBegin e
      match c2.ctxOf e with
      | none => c2.pumpE e
      | some x => (run c2 e x).pumpE e

end Chip

end Sys2Proof.Machine
end

