-- ==== Sys2Proof/Machine/Target.lean ====
section
/-!
DEFINITION. The target side of the Adeane fabric (R27, R203, R299 to R307): frames that reach this device are accepted, performed and
answered; and the source side of RESPONSEs, role retries and timeouts (R298, R302).
-/
namespace Sys2Proof.Machine

namespace Chip

/-! ### Taking a frame -/

/-- The frame a row performs: the oldest delivered frame of its opcode, or a frame that arrives now. -/
def takeFrame (c : Chip) (src : FrameSrc) (op : Nat) : Option (THdr × List Byte) × Chip :=
  match src with
  | .arrives w payload =>
    let h := THdr.dec w
    if h.opcode = op ∧ c.fab.idValid then (some (h, payload), c) else (none, c)
  | .delivered =>
    match c.fab.inbox.find? fun d => fld d.thdr 7 0 == op with
    | none => (none, c)
    | some d =>
      let rest := c.fab.inbox.eraseP fun d => fld d.thdr 7 0 == op
      (some (THdr.dec d.thdr, d.payload), (c.onFab fun f => { f with inbox := rest }).returnCredits d.port d.thdr d.payload)

/-! ### Acceptance (R27, R301) -/

/-- The receiver's entry as a refusal carries it (R301). -/
def roleReply (ent : BitVec 128) : Nat := fld ent 32 0

/-- Where an accepted frame of `n` bytes is performed, or the status and ARG of its refusal (R301). -/
def acceptAt (c : Chip) (h : THdr) (n : Nat) : Except (Status × Nat) Nat :=
  if !h.role then .ok h.addr
  else
    let ent := Tab.get 0 c.fab.roles h.dst
    if bit ent 32 && bit ent 33 && bit ent 34 && fld ent 31 16 == h.epoch then
      if h.addr + n ≤ p2 (fld ent 40 35) then .ok (fld ent 111 64 + h.addr) else .error (.addrRefused, roleReply ent)
    else .error (.roleMoved, roleReply ent)

/-- The units outside every forme, as the origin of an access. -/
def outside : Nat := 99

/-- The check of the target's range: HBM and platen scratch only, and no domain in reset (R27, R417, R420). -/
def rangeError (c : Chip) (a n : Nat) : Option Status :=
  if (addrRange a n).all c.broadsheetOk then (addrRange a n).findSome? (c.accessError outside) else some .addrRefused

/-- Send a RESPONSE once every watcher has accepted its invalidation (R304). -/
def respondAfter (c : Chip) (h : THdr) (nums : List Nat) (data : List Byte) : Chip :=
  let open_ := nums.filter fun n => c.fab.reqs.any fun r => r.num == n && r.engine == fabUnit && r.answer.isNone
  let c1 := c.onFab fun f => { f with reqs := f.reqs.filter fun r => !(r.engine == fabUnit && r.answer.isSome) }
  if open_.isEmpty then c1.respond h .success 0 data
  else c1.onFab fun f => { f with held := f.held ++
    [{ waits := open_, role := if h.role then some h.dst else none, resp := (c1.respHdr h 0 0 data.length).enc, data }] }

/-- A refused or failed request is answered with its status; a failed read of a bad unit is recorded too (R301, R304, R535). -/
def refuseReq (c : Chip) (h : THdr) (st : Status) (arg : Nat) (addrs : List Nat) : Chip :=
  let c1 := if st = .memUe then (match c.ueAt addrs with | some a => c.ueEvent a | none => c) else c.notePathAt outside addrs st
  c1.respond h st arg []

/-! ### READ, WRITE and ATOMIC (R304, R307) -/

/-- FAB_READ: the value current when the target serves it. -/
def fabRead (c : Chip) (h : THdr) : Chip :=
  let n := 4 * h.lenW
  match c.acceptAt h n with
  | .error (st, arg) => c.respond h st arg []
  | .ok a =>
    match c.rangeError a n with
    | some st => c.refuseReq h st 0 (addrRange a n)
    | none =>
      match c.readLocal outside (addrRange a n) with
      | .error st => c.refuseReq h st 0 (addrRange a n)
      | .ok bs => c.respond h .success 0 bs

/-- A write to target memory with the invalidations it needs, whose RESPONSE follows them (R304). -/
def writeTarget (c : Chip) (h : THdr) (a : Nat) (bs : List Byte) (data : List Byte) : Chip :=
  let cells := cellsAt a bs
  match c.uePartial (cells.map (·.1)) with
  | some _ => c.refuseReq h .memUe 0 (cells.map (·.1))
  | none =>
    let (c1, nums) := c.storeLocal none cells
    c1.respondAfter h nums data

/-- FAB_WRITE. -/
def fabWrite (c : Chip) (h : THdr) (payload : List Byte) : Chip :=
  match c.acceptAt h payload.length with
  | .error (st, arg) => c.respond h st arg []
  | .ok a =>
    match c.rangeError a payload.length with
    | some st => c.refuseReq h st 0 (addrRange a payload.length)
    | none => c.writeTarget h a payload []

/-- Size of an atomic's word (R307). -/
def atomicSize (atype : Nat) : Nat := if atype = 0 then 4 else 8

/-- The word an atomic leaves: ADD_FP32, ADD_INT64, SWAP, CAS (R87, R307). -/
def atomicNew (atype old operand new : Nat) : Nat :=
  match atype with
  | 0 => (addF (BitVec.ofNat 32 old) (BitVec.ofNat 32 operand)).toNat
  | 1 => (old + operand) % p2 64
  | 2 => operand % p2 64
  | _ => if old = operand % p2 64 then new % p2 64 else old

/-- FAB_ATOMIC: indivisible at the memory controller; the old value is returned. -/
def fabAtomic (c : Chip) (h : THdr) (payload : List Byte) : Chip :=
  let n := atomicSize h.atype
  match c.acceptAt h n with
  | .error (st, arg) => c.respond h st arg []
  | .ok a =>
    if 3 < h.atype ∨ a % n ≠ 0 then c.respond h .placeIllegal 0 []
    else match c.rangeError a n with
      | some st => c.refuseReq h st 0 (addrRange a n)
      | none =>
        match c.readLocal outside (addrRange a n) with
        | .error st => c.refuseReq h st 0 (addrRange a n)
        | .ok bs =>
          let old := ofBytes bs
          let new := atomicNew h.atype old h.arg (ofBytes payload)
          if h.atype = 3 ∧ old ≠ h.arg then c.respond h .success 0 bs
          else c.writeTarget h a (toBytes n new) bs

/-! ### Watches (R203) -/

/-- Lines that the watch table holds. -/
def watchLimit : Nat := 16384

/-- WATCH: a watch on a line of HBM is registered (ARG bit 0 = 1) or withdrawn (0); a full table refuses a new line
(DESIGN CHOICE, log entry 16). -/
def fabWatch (c : Chip) (h : THdr) : Chip :=
  match c.acceptAt h 128 with
  | .error (st, arg) => c.respond h st arg []
  | .ok a =>
    match c.rangeError (a / 128 * 128) 128 with
    | some st => c.refuseReq h st 0 (addrRange (a / 128 * 128) 128)
    | none =>
      let w : Watch := { line := a / 128, device := h.src, unit := h.unit }
      let others := c.fab.watches.filter fun x => x != w
      if h.arg % 2 = 0 then (c.onFab fun f => { f with watches := others }).respond h .success 0 []
      else
        let lines := (others.map (·.line)).eraseDups
        if watchLimit ≤ lines.length ∧ !lines.contains w.line then c.respond h .addrRefused 0 []
        else (c.onFab fun f => { f with watches := others ++ [w] }).respond h .success 0 []

/-- An access of a unit to a line of another device that an invalidation of the line overtakes (R203). -/
def overtaken (unit far : Nat) (r : FabReq) : Bool :=
  let h := THdr.dec r.thdr
  let a := h.dst * p2 48 + h.addr
  !h.role && h.unit == unit && (h.opcode == opRead || (h.opcode == opWatch && h.arg % 2 == 1)) &&
    decide (a < far + 128 ∧ far < a + (if h.opcode = opWatch then 128 else 4 * h.lenW))

/-- INVAL: the watcher's TRACKED copy of the line becomes TRACKED_INVALID, and the invalidation is accepted. ARG names the unit. The watch
stands no more, and what the unit has read of the line so far is not current. -/
def fabInval (c : Chip) (h : THdr) : Chip :=
  let far := h.src * p2 48 + h.addr / 128 * 128
  let unit := h.arg % 64
  let stale (r : FabReq) : FabReq := if overtaken unit far r then { r with stale := true } else r
  ((c.onEngine unit fun x => { x.mapCache (fun l =>
    if l.space.toNat = 1 ∧ l.addr = far ∧ l.state = .tracked then some { l with state := .trackedInvalid } else some l) with
    watched := x.watched.filter (· != far) }).onFab fun f => { f with reqs := f.reqs.map stale }).respond h .success 0 []

/-! ### Roles (R300 to R303) -/

/-- A role entry as a write leaves it: RSVD bits are zero (R300). -/
def roleEntry (w : BitVec 128) : BitVec 128 :=
  BitVec.ofNat 128 (fld w 40 0 + (fld w 111 64) <<< 64)

/-- Tell the one who wrote a role entry that the write has completed. -/
def ackRole (c : Chip) (a : RoleAck) : Chip :=
  let idle (r : PathRegs) : PathRegs := { r with roleBusy := false }
  match a with
  | .path 0 => c.onFab fun f => { f with hostPath := idle f.hostPath }
  | .path 1 => c.onFab fun f => { f with mgmtPath := idle f.mgmtPath }
  | .path _ => c.onFab fun f => { f with corePath := idle f.corePath }
  | .msg dst seq port linkLocal => if linkLocal then c.sendMgmtLink port dst 0x03 seq 0 0 else c.sendMgmt dst 0x03 seq 0 0

/-- Role writes whose earlier frames have all been performed complete (R303). DEDUCED, log entry 43. -/
def settleRoles (c : Chip) : Chip :=
  let busy (r : Nat) : Bool := c.fab.held.any fun x => x.role == some r
  let done := c.fab.roleAcks.filter fun p => !busy p.1
  done.foldl (fun c p => c.ackRole p.2) (c.onFab fun f => { f with roleAcks := f.roleAcks.filter fun p => busy p.1 })

/-- A role entry write (R303): it takes effect between frames, and one that clears HELD or READY or changes EPOCH completes only
when every frame accepted before has been performed. DEDUCED, log entry 43. -/
def writeRole (c : Chip) (role : Nat) (w : BitVec 128) (a : RoleAck) : Chip :=
  let old := Tab.get 0 c.fab.roles role
  let new := roleEntry w
  let drains := (bit old 33 && !bit new 33) || (bit old 34 && !bit new 34) || fld old 31 16 != fld new 31 16
  let c1 := c.onFab fun f => { f with roles := Tab.set role new f.roles }
  if drains && c1.fab.held.any fun x => x.role == some role then c1.onFab fun f => { f with roleAcks := f.roleAcks ++ [(role, a)] }
  else c1.ackRole a

/-! ### RESPONSE, retry and timeout (R298, R302, R306) -/

def onReq (c : Chip) (num : Nat) (f : FabReq → FabReq) : Chip :=
  c.onFab fun b => { b with reqs := b.reqs.map fun r => if r.num = num ∧ r.answer.isNone then f r else r }

def dropReq (c : Chip) (num : Nat) : Chip := c.onFab fun f => { f with reqs := f.reqs.filter fun r => r.num != num }

/-- The RESPONSEs that wait for no invalidation any more go out (R304). -/
def settleHeld (c : Chip) : Chip :=
  let out (n : Nat) : Bool := c.fab.reqs.any fun r => r.num == n && r.engine == fabUnit && r.answer.isNone
  let held := c.fab.held.map fun x => { x with waits := x.waits.filter out }
  let go := held.filter fun x => x.waits.isEmpty
  let c1 := c.onFab fun f => { f with
    held := held.filter fun x => !x.waits.isEmpty, reqs := f.reqs.filter fun r => !(r.engine == fabUnit && r.answer.isSome) }
  (go.foldl (fun c x => (c.sendTo (fld x.resp 31 16) (THdr.dec x.resp) x.data).1) c1).settleRoles

/-- A WATCH that has been registered is remembered, until an invalidation ends it; one whose slug a reset has ended since is withdrawn
again (R195, R196, R203). -/
def noteWatch (c : Chip) (r : FabReq) (st : Status) : Chip :=
  let h := THdr.dec r.thdr
  let far := h.dst * p2 48 + h.addr / 128 * 128
  if h.opcode = opWatch ∧ h.arg % 2 = 1 ∧ st = .success ∧ !r.stale ∧ h.unit < 64 then
    if r.orphan && !(c.engine h.unit).watched.contains far then
      c.request fabUnit 0 0 h.dst { opcode := opWatch, dst := h.dst, addr := h.addr, unit := h.unit, arg := 0 } []
    else c.onEngine h.unit fun x => { x with watched := if x.watched.contains far then x.watched else x.watched ++ [far] }
  else c

/-- A request ends with a status and data: its slot, its TXN and its location are free for those that wait (R209, R284, R318). -/
def answerReq (c : Chip) (r : FabReq) (st : Status) (data : List Byte) : Chip :=
  let c0 := c.noteWatch r st
  let c1 := if r.orphan || r.engine == fabUnit then c0.dropReq r.num else c0.onReq r.num fun r => { r with answer := some (st, data) }
  (c1.releaseReqs.lateIssue (let u := fld r.thdr 151 144; if 68 ≤ u then u - 4 else u)).settleHeld

/-- A role-addressed request is sent again to its entry's holder under its entry's epoch (R301, R302). -/
def resend (c : Chip) (r : FabReq) : Chip :=
  let h := THdr.dec r.thdr
  let ent := Tab.get 0 c.fab.roles h.dst
  let h1 := { h with epoch := fld ent 31 16, hops := c.imp.fabHopLimit }
  let (c1, p) := if bit ent 32 then c.sendTo (fld ent 15 0) h1 r.payload else (c, none)
  let c2 := c1.onReq r.num fun r => { r with thdr := h1.enc, port := p, resends := r.resends + 1, delayed := false }
  if p.isNone then c2.answerReq r .addrRefused [] else c2

/-- Epoch `a` is newer than epoch `b` (R300). -/
def newerEpoch (a b : Nat) : Bool :=
  let d := (a + p2 16 - b % p2 16) % p2 16
  decide (1 ≤ d ∧ d ≤ 32767)

/-- ROLE_MOVED at the source: the firmware learns a newer holder and resends at once, or waits for its backoff delay; after
FAB_ROLE_RETRIES resends the request completes with ROLE_MOVED (R302). -/
def roleMovedAt (c : Chip) (r : FabReq) (arg : Nat) : Chip :=
  let c1 := c.onFab fun f => { f with roleMoved := bump48 f.roleMoved 1 }
  let role := fld r.thdr 31 16
  let ent := Tab.get 0 c1.fab.roles role
  if c1.imp.fabRoleRetries ≤ r.resends then c1.answerReq r .roleMoved []
  else if nbits arg 32 1 = 1 ∧ newerEpoch (nbits arg 16 16) (fld ent 31 16) then
    (c1.onFab fun f => { f with roles := Tab.set role (BitVec.ofNat 128 (fld ent 127 32 <<< 32 + nbits arg 0 32)) f.roles }).resend r
  else c1.onReq r.num fun r => { r with delayed := true }

/-- The status that a code names. A code that no table gives is taken as ADDR_REFUSED (DESIGN CHOICE, log entry 88). -/
def Status.ofCode (n : Nat) : Status := (Status.all.find? fun s => s.code == n).getD .addrRefused

/-- RESPONSE. -/
def fabResponse (c : Chip) (h : THdr) (payload : List Byte) : Chip :=
  match c.fab.reqs.find? fun r => r.txn == h.txn && !r.queued && r.answer.isNone && fld r.thdr 7 0 != opMgmt with
  | none => c
  | some r =>
    if h.status = Status.roleMoved.code ∧ bit r.thdr 11 then c.roleMovedAt r h.arg
    else c.answerReq r (Status.ofCode h.status) payload

/-- ROLE_RETRY: the backoff delay of a request has passed. -/
def roleRetry (c : Chip) (txn : Nat) : Chip :=
  match c.fab.reqs.find? fun r => r.txn == txn && !r.queued && r.delayed && r.answer.isNone with
  | none => c
  | some r => if c.imp.fabRoleRetries ≤ r.resends then c.answerReq r .roleMoved [] else c.resend r

/-- REQUEST_TIMEOUT: a request without a RESPONSE completes with LINK_LOST (R298). -/
def requestTimeout (c : Chip) (txn : Nat) : Chip :=
  match c.fab.reqs.find? fun r => r.txn == txn && !r.queued && r.answer.isNone with
  | none => c
  | some r => c.answerReq r .linkLost []

end Chip

end Sys2Proof.Machine
end

