-- ==== Sys2Proof/Machine/FabricSlug.lean ====
section
/-!
DEFINITION. FABRIC slugs that address one device (R285, R305 to R307, R537): PUT, GET, ATOMIC and MGMT_SEND. They run in the fabric
unit of the issuing engine's forme, which reads and writes LOCAL memory outside the platen cache.
-/
namespace Sys2Proof.Machine

def fabSrc (s : SlugWord) : Nat := fld s 77 68
def fabDst (s : SlugWord) : Nat := fld s 87 78
def fabAux (s : SlugWord) : Nat := fld s 97 88
def fabIdx (s : SlugWord) : Nat := fld s 107 98
def fabAtype (s : SlugWord) : Nat := fld s 110 108
def fabRole (s : SlugWord) : Bool := bit s 111
def fabNotify (s : SlugWord) : Bool := bit s 112
def fabFlagEn (s : SlugWord) : Bool := bit s 113
def fabCombine (s : SlugWord) : Bool := bit s 114
def fabTopk (s : SlugWord) : Nat := fld s 117 115 + 1
def fabOp0 (s : SlugWord) : Nat := fld s 191 128
def fabOp1 (s : SlugWord) : Nat := fld s 255 192
def fabGroup (s : SlugWord) : Nat := fld s 319 256
def fabFlagAddr (s : SlugWord) : Nat := fld s 383 320
def fabCap (s : SlugWord) : Nat := fld s 463 448
def fabFirst (s : SlugWord) : Nat := fld s 479 464
def fabRoles (s : SlugWord) : Nat := fld s 495 480

/-- The fabric unit that runs an engine's slugs, as SRC_UNIT (R284). -/
def fabUnitOf (e : Nat) : Nat := 64 + e / 16

/-- Which of TD_SRC, TD_DST, TD_AUX and TD_IDX an operation uses (R305, R306). -/
def fabUses (s : SlugWord) : List Bool :=
  match slugOp s with
  | 0 => [true, true, false, false]
  | 1 => [true, true, false, false]
  | 2 => [true, true, true, false]
  | 3 => if fabCombine s then [true, false, false, false] else [true, true, false, true]
  | 7 => [true, true, false, false]
  | _ => [true, true, true, false]

/-- Reserved encodings of the FABRIC body: reserved bits and operations, and fields that the operation does not use (R305). -/
def fabReserved (s : SlugWord) : Bool :=
  let op := slugOp s
  let coll := decide (3 ≤ op ∧ op ≤ 6)
  let zero (used : Bool) (hi lo : Nat) : Bool := used || fld s hi lo == 0
  decide (7 < op) || !rsvdZero s [(118, 10), (496, 16)] ||
  !(((fabUses s).zip [fabSrc s, fabDst s, fabAux s, fabIdx s]).all fun (u, r) => u || r == nullTd) ||
  !(zero (op == 2) 110 108 && zero (op ≤ 2) 111 111 && zero (op == 0) 112 112 && zero (op == 3) 114 114 && zero (op == 3) 117 115 &&
    zero (op == 2 || fabNotify s) 191 128 && zero ((op == 2 && fabAtype s == 3) || fabNotify s) 255 192 && zero coll 319 256 &&
    zero (fabFlagEn s) 447 320 && zero (op == 3) 495 448) ||
  (op == 2 && decide (3 < fabAtype s)) || (op == 3 && (fabCap s == 0 || fabRoles s == 0))

/-- FLAG_ADDR is LOCAL and 8-byte aligned (R537). -/
def fabFlagBad (s : SlugWord) : Bool := fabFlagEn s && (decide (p2 48 ≤ fabFlagAddr s) || fabFlagAddr s % 8 != 0)

/-- Byte address of a raw word of an atomic: a STRIDE0 of 0 means consecutive words (R307). -/
def wordAddr (t : TD) (n i : Nat) : Nat :=
  let cs := coordsOf t.ext i
  let off : Int := ((cs.zip t.stride).zipIdx.map fun ((x, s), d) => (x : Int) * (if d = 0 ∧ s = 0 then (n : Int) else s)).sum
  (((t.base : Int) + off) % ((p2 64 : Nat) : Int)).toNat

/-- The checks of R537 for PUT, GET and ATOMIC. -/
def checkFabric (ent : QEntry) : Except Status (Option TD × TD × Option TD) := do
  let s := ent.slug
  let op := slugOp s
  failIf (fabReserved s) .reservedEncoding
  let src ← if op = 2 then ent.td? (fabSrc s) else (ent.tdReq (fabSrc s)).map some
  let dst ← ent.tdReq (fabDst s)
  let aux ← if op = 2 then ent.td? (fabAux s) else .ok none
  let spaceBad (t : Option TD) (sp : Space) : Bool := match t with
    | some t => t.space != sp
    | none => false
  let (a, b) := if op = 1 then (Space.broadsheet, Space.lcl) else (Space.lcl, Space.broadsheet)
  failIf (spaceBad src a || dst.space != b || spaceBad aux .lcl || fabFlagBad s) .placeIllegal
  if op = 2 then
    let n := Chip.atomicSize (fabAtype s)
    let countBad (t : Option TD) : Bool := match t with
      | some t => t.count != dst.count
      | none => false
    failIf (countBad src || countBad aux) .shapeIllegal
    failIf ((List.range dst.count).any fun i => wordAddr dst n i % n != 0) .placeIllegal
  else
    failIf (src.any fun t => t.ext != dst.ext) .shapeIllegal
  return (src, dst, aux)

namespace Chip

/-! ### LOCAL memory of the fabric unit -/

/-- Raw bits of a LOCAL element, outside the platen cache. -/
def fabElem (c : Chip) (e : Nat) (t : TD) (i : Nat) : Except Status Nat :=
  let cs := coordsOf t.ext i
  let a := t.addr cs
  if p2 48 ≤ a then .error .addrUnmapped
  else (c.readLocal (e / 16) (addrRange a t.elemBytes)).map fun bs =>
    let v := ofBytes bs
    if t.fmt = .int4 then (if t.high cs then v / 16 else v % 16) else v

/-- The unit's event when a read of a TD met a bad unit. -/
def fabUe (c : Chip) (t : TD) : Chip :=
  match c.ueAt (t.addrs.flatMap fun a => addrRange a t.elemBytes) with
  | some a => c.ueEvent a
  | none => c

/-- Store element writes in LOCAL memory, outside the platen cache; an address beyond LOCAL is unmapped. -/
def fabStore (c : Chip) (e : Nat) (ws : List EWrite) : Except Status Chip :=
  if ws.any fun w => p2 48 ≤ w.addr then .error .addrUnmapped
  else c.writeLocal (e / 16) none (cellsOf c.mem.get ws)

/-- The device id or role of an address names this device itself, outside the fabric (R28). -/
def ownId (c : Chip) (role : Bool) (id : Nat) : Bool := !role && c.fab.idValid && id == c.fab.deviceId

/-- WRITE frames for bytes of other devices or of roles: full 1,024-byte frames that cross no 4 KiB boundary (R285, R306). -/
def fabWrites (c : Chip) (e id key : Nat) (role : Bool) (cells : List Host.Cell) : Chip :=
  (runsOf cells).foldl (fun c (a, bs) =>
    (splitRun 1024 bs.length a bs.length).foldl (fun c (b, k) =>
      c.request e id key (b >>> 48) { opcode := opWrite, role, addr := b % p2 48, unit := fabUnitOf e } ((bs.drop (b - a)).take k)) c) c

/-- Bytes written through a BROADSHEET name: this device's own at once, the others as WRITE frames. -/
def fabPutCells (c : Chip) (e id key : Nat) (role : Bool) (cells : List Host.Cell) : Except Status Chip :=
  let (own, far) := cells.partition fun p => c.ownId role (p.1 >>> 48)
  let own1 := own.map fun p => (p.1 % p2 48, p.2)
  if own1.any fun p => !c.broadsheetOk p.1 then .error .addrRefused
  else (c.writeLocal (e / 16) none own1).map fun c1 => c1.fabWrites e id key role far

/-- The flag of a FABRIC slug, then its end (R306). DEDUCED, log entry 40. -/
def fabFinish (c : Chip) (e : Nat) (ent : QEntry) : Chip :=
  if fabFlagEn ent.slug then
    match c.writeLocal (e / 16) none (cellsAt (fabFlagAddr ent.slug) (toBytes 8 (fld ent.slug 447 384))) with
    | .error st => c.endSlug e .fabric ent st 0
    | .ok c1 => c1.endSlug e .fabric ent .success 0
  else c.endSlug e .fabric ent .success 0

/-- Wait for the RESPONSEs of a phase, then go on. -/
def fabAwait (c : Chip) (e : Nat) (ent : QEntry) (done : Chip → Chip) : Chip := c.awaitWrites e .fabric ent (fun _ => 0) done

/-- A slug that has failed ends with its first failure, once every request that it made has a RESPONSE (R306). -/
def fabFail (c : Chip) (e : Nat) (ent : QEntry) (st : Status) : Chip :=
  if c.fabWaiting e ent.id then c.updEntry e .fabric { ent with prog := { ent.prog with drain := some st } } else c.endSlug e .fabric ent st 0

/-! ### PUT (R306) -/

/-- The converted elements of a PUT or GET (R52), given the raw source bits. -/
def fabConvert (ent : QEntry) (src dst : TD) (raw : List Nat) : List EWrite :=
  raw.zipIdx.map fun (v, i) =>
    let cs := coordsOf dst.ext i
    { addr := dst.addr cs, bits := convElem src.fmt dst.fmt (moveCtl ent (some src) dst i) v, fmt := dst.fmt, high := dst.high cs }

/-- The NOTIFY write, once every data frame has its RESPONSE, then the end. `phase` 1: data out; 2: notify out. -/
def putLater (c : Chip) (e : Nat) (ent : QEntry) (dst : TD) : Chip :=
  let s := ent.slug
  if ent.prog.phase = 1 then
    c.fabAwait e ent fun c =>
      if fabNotify s then
        let a := dst.base / p2 48 * p2 48 + fabOp0 s % p2 48
        match c.fabPutCells e ent.id 1 (fabRole s) (cellsAt a (toBytes 8 (fabOp1 s))) with
        | .error st => c.endSlug e .fabric ent st 0
        | .ok c1 =>
          let ent1 := { ent with prog := { ent.prog with phase := 2 } }
          (c1.updEntry e .fabric ent1).fabAwait e ent1 fun c => c.fabFinish e ent1
      else c.fabFinish e ent
  else c.fabAwait e ent fun c => c.fabFinish e ent

def putRun (c : Chip) (e : Nat) (ent : QEntry) (src dst : TD) : Chip :=
  if ent.prog.phase ≠ 0 then c.putLater e ent dst
  else
    match (List.range src.count).mapM (c.fabElem e src) with
    | .error st => (if st = .memUe ∨ st = .bufferUe then c.fabUe src else c).endSlug e .fabric ent st 0
    | .ok raw =>
      match c.fabPutCells e ent.id 1 (fabRole ent.slug) (cellsOf (fun _ => 0) (fabConvert ent src dst raw)) with
      | .error st => c.endSlug e .fabric ent st 0
      | .ok c1 =>
        let ent1 := { ent with prog := { ent.prog with phase := 1 } }
        (c1.updEntry e .fabric ent1).putLater e ent1 dst

/-! ### GET (R306) -/

/-- Issue READ frames for bytes that are neither here nor on the way. -/
def fabReads (c : Chip) (e : Nat) (ent : QEntry) (role : Bool) (bytes : List Nat) : Chip :=
  let pend := c.fab.reqs.filter fun r => r.engine == e && r.entry == ent.id && r.key == 0
  let covered (a : Nat) : Bool := pend.any fun r =>
    let s := fld r.thdr 31 16 * p2 48 + fld r.thdr 111 64
    decide (s ≤ a ∧ a < s + 4 * fld r.thdr 168 160)
  let runs := (runsOf ((bytes.filter fun a => (cellAt a ent.prog.gotB).isNone && !covered a).map fun a => (a, (0 : Byte)))).flatMap fun (a, bs) =>
    let lo := a / 4 * 4
    splitRun 1024 (bs.length + 4) lo ((a + bs.length + 3) / 4 * 4 - lo)
  runs.foldl (fun c (a, n) =>
    c.request e ent.id 0 (a >>> 48) { opcode := opRead, role, addr := a % p2 48, unit := fabUnitOf e, lenW := n / 4 } []) c

/-- The bytes of a BROADSHEET source: this device's own at once. -/
def fabOwnBytes (c : Chip) (e : Nat) (role : Bool) (bytes : List Nat) (got : List Host.Cell) : Except Status (List Host.Cell) :=
  let own := bytes.filter fun a => c.ownId role (a >>> 48)
  if own.any fun a => !c.broadsheetOk (a % p2 48) then .error .addrRefused
  else (c.readLocal (e / 16) (own.map (· % p2 48))).map fun bs => (own.zip bs).foldl (fun cs (a, b) => cellSet a b cs) got

def getRun (c : Chip) (e : Nat) (ent : QEntry) (src dst : TD) : Chip :=
  let role := fabRole ent.slug
  let bytes := sortAddrs (src.addrs.flatMap fun a => addrRange a src.elemBytes)
  let (ent1, bad, c1) := c.absorb e ent
  match ent.prog.drain.orElse fun _ => bad with
  | some st => c1.fabFail e ent1 st
  | none =>
    match c1.fabOwnBytes e role bytes ent1.prog.gotB with
    | .error st => c1.fabFail e ent1 st
    | .ok got =>
      let ent2 := { ent1 with prog := { ent1.prog with gotB := got } }
      if bytes.all fun a => (cellAt a got).isSome then
        let raw := (List.range src.count).map fun i =>
          let cs := coordsOf src.ext i
          let v := ofBytes ((addrRange (src.addr cs) src.elemBytes).map fun a => (cellAt a got).getD 0)
          if src.fmt = .int4 then (if src.high cs then v / 16 else v % 16) else v
        match c1.fabStore e (fabConvert ent2 src dst raw) with
        | .error st => c1.endSlug e .fabric ent2 st 0
        | .ok c2 => c2.fabFinish e ent2
      else (c1.updEntry e .fabric ent2).fabReads e ent2 role bytes

/-! ### ATOMIC (R307) -/

/-- Key of the request of element `i`. -/
def atomKey (i : Nat) : Nat := 1000 + i

/-- Operand of element `i` (R307). -/
def atomOperand (c : Chip) (e : Nat) (s : SlugWord) (src : Option TD) (i : Nat) : Except Status Nat :=
  match src with
  | none => .ok (fabOp0 s)
  | some t =>
    let n := atomicSize (fabAtype s)
    let a := wordAddr t n i
    if p2 48 ≤ a then .error .addrUnmapped else (c.readLocal (e / 16) (addrRange a n)).map ofBytes

/-- An atomic on this device's own memory: performed at once, its old value kept as an answered request (R28). -/
def atomOwn (c : Chip) (e : Nat) (ent : QEntry) (i a operand : Nat) : Chip :=
  let s := ent.slug
  let n := atomicSize (fabAtype s)
  let done (c : Chip) (st : Status) (bs : List Byte) : Chip := c.onFab fun f => { f with nextReq := f.nextReq + 1, reqs := f.reqs ++
    [{ num := f.nextReq, txn := p2 16, thdr := 0, payload := [], engine := e, entry := ent.id, key := atomKey i, answer := some (st, bs) }] }
  if !(addrRange a n).all c.broadsheetOk then done c .addrRefused []
  else match c.readLocal (e / 16) (addrRange a n) with
    | .error st => done (match c.ueAt (addrRange a n) with | some u => c.ueEvent u | none => c) st []
    | .ok bs =>
      let old := ofBytes bs
      if fabAtype s = 3 ∧ old ≠ operand then done c .success bs
      else match c.writeLocal (e / 16) none (cellsAt a (toBytes n (atomicNew (fabAtype s) old operand (fabOp1 s)))) with
        | .error st => done c st []
        | .ok c1 => done c1 .success bs

/-- Issue the atomics of a slug in element order, up to one whose operand cannot be read. Answers how many are out. -/
def atomIssue (e : Nat) (ent : QEntry) (src : Option TD) (dst : TD) : Nat → Nat → Chip → Nat × Option Status × Chip
  | 0, i, c => (i, none, c)
  | fuel + 1, i, c =>
    if dst.count ≤ i then (i, none, c)
    else
      let s := ent.slug
      let a := wordAddr dst (atomicSize (fabAtype s)) i
      match c.atomOperand e s src i with
      | .error st => (i, some st, c)
      | .ok v =>
        if c.ownId (fabRole s) (a >>> 48) then atomIssue e ent src dst fuel (i + 1) (c.atomOwn e ent i (a % p2 48) v)
        else
          let h : THdr := { opcode := opAtomic, role := fabRole s, addr := a % p2 48, unit := fabUnitOf e, atype := fabAtype s, arg := v }
          atomIssue e ent src dst fuel (i + 1)
            (c.request e ent.id (atomKey i) (a >>> 48) h (if fabAtype s = 3 then toBytes 8 (fabOp1 s) else []))

/-- Old values go to TD_AUX; the slug ends with the status that kept an operand from being read, or with the first failing status by
element. -/
def atomEnd (c : Chip) (e : Nat) (ent : QEntry) (dst : TD) (aux : Option TD) : Chip :=
  let n := atomicSize (fabAtype ent.slug)
  let ans (i : Nat) : Option (Status × List Byte) :=
    (c.fab.reqs.find? fun r => r.engine == e && r.entry == ent.id && r.key == atomKey i).bind (·.answer)
  let all := (List.range dst.count).filterMap fun i => (ans i).map fun a => (i, a)
  let bad := ent.prog.drain.orElse fun _ => all.findSome? fun (_, st, _) => if st = .success then none else some st
  let cells := match aux with
    | none => []
    | some t => all.flatMap fun (i, st, bs) => if st = .success then cellsAt (wordAddr t n i) (bs.take n) else []
  if cells.any fun p => p2 48 ≤ p.1 then c.endSlug e .fabric ent (bad.getD .addrUnmapped) 0
  else match c.writeLocal (e / 16) none cells, bad with
    | .error st, none => c.endSlug e .fabric ent st 0
    | .error _, some st => c.endSlug e .fabric ent st 0
    | .ok c1, some st => c1.endSlug e .fabric ent st 0
    | .ok c1, none => c1.fabFinish e ent

/-- An ATOMIC goes on: `done0` atomics are out. It ends once every request it made has a RESPONSE (R306). -/
def atomRun (c : Chip) (e : Nat) (ent : QEntry) (src : Option TD) (dst : TD) (aux : Option TD) : Chip :=
  let (i, bad, c1) := if ent.prog.drain.isSome then (ent.prog.done0, none, c) else atomIssue e ent src dst dst.count ent.prog.done0 c
  let ent1 := { ent with prog := { ent.prog with done0 := i, drain := ent.prog.drain.orElse fun _ => bad } }
  if c1.fabWaiting e ent.id then c1.updEntry e .fabric ent1 else c1.atomEnd e ent1 dst aux

/-! ### MGMT_SEND (R306, R319) -/

/-- The 64 bytes of a TD of any space the unit can reach at once. -/
def mgmtBytes (c : Chip) (e : Nat) (t : TD) : Except Status (List Byte) :=
  if t.space != .lcl then .error .placeIllegal else c.readLocal (e / 16) (addrRange t.base 64)

/-- The checks of MGMT_SEND: one message of 64 bytes, LOCAL (R306, R537; DESIGN CHOICE, log entry 17). -/
def checkMgmt (ent : QEntry) : Except Status (TD × TD) := do
  failIf (fabReserved ent.slug) .reservedEncoding
  let src ← ent.tdReq (fabSrc ent.slug)
  let dst ← ent.tdReq (fabDst ent.slug)
  failIf (src.space != .lcl || dst.space != .lcl || fabFlagBad ent.slug) .placeIllegal
  return (src, dst)

/-- Payloads of the parts of a management response, in order. -/
def mgmtParts (c : Chip) (e id : Nat) : Option (Status × List Byte) :=
  (c.fab.reqs.find? fun r => r.engine == e && r.entry == id && r.key == 5).bind (·.answer)

/-- MGMT_SEND: `phase` 0 sends the message, 1 waits for its response, which goes to TD_DST. -/
def mgmtRun (c : Chip) (e : Nat) (ent : QEntry) (src dst : TD) : Chip :=
  if ent.prog.phase = 0 then
    match c.mgmtBytes e src with
    | .error st => (if st = .memUe ∨ st = .bufferUe then c.fabUe src else c).endSlug e .fabric ent st 0
    | .ok bs =>
      let msg := BitVec.ofNat 512 (ofBytes bs)
      let head := Config.mgmtHead msg
      let seq := c.fab.mgmtSeq
      let h : THdr := { opcode := opMgmt, unit := 72, lenW := 16, arg := fld head 23 16 + (seq % p2 16) <<< 8 }
      let c1 := (c.onFab fun f => { f with mgmtSeq := (seq + 1) % p2 16 }).request e ent.id 5 (fld head 15 0) h bs
      let c2 := c1.send (.mgmt (fld head 15 0) (fld head 23 16) seq 0 msg)
      c2.updEntry e .fabric { ent with prog := { ent.prog with phase := 1 } }
  else
    match c.mgmtParts e ent.id with
    | none => c
    | some (.success, bs) =>
      (match c.writeLocal (e / 16) none (cellsAt dst.base bs) with
      | .error st => c.endSlug e .fabric ent st 0
      | .ok c1 => c1.fabFinish e ent)
    | some (st, _) => c.endSlug e .fabric ent st 0

/-- A response to a MGMT_SEND: it copies the sequence number of the message it answers (R538). The three parts of a
DISCOVER_RESP are gathered in order. -/
def mgmtResponse (c : Chip) (m : MgmtMsg) : Chip :=
  match c.fab.reqs.find? fun r => fld r.thdr 7 0 == opMgmt && !r.queued && r.answer.isNone && fld r.thdr 31 16 == m.src && fld r.thdr 215 200 == m.seq with
  | none => c
  | some r =>
    let bs := r.payload.drop 64 ++ toBytes 64 m.payload.toNat
    if m.mtype = 0x34 ∧ m.part < 2 then c.onReq r.num fun r => { r with payload := r.payload.take 64 ++ bs }
    else c.answerReq r .success bs

/-! ### The rows -/

def fabPut (c : Chip) (e : Nat) (ent : QEntry) : Chip :=
  match checkFabric ent with
  | .ok (some src, dst, _) => c.begin e .fabric ent (.ok ()) fun c => c.putRun e ent src dst
  | .ok (none, _, _) => c.begin e .fabric ent (.error .placeIllegal) id
  | .error st => c.begin e .fabric ent (.error st) id

def fabGet (c : Chip) (e : Nat) (ent : QEntry) : Chip :=
  match checkFabric ent with
  | .ok (some src, dst, _) => c.begin e .fabric ent (.ok ()) fun c => c.getRun e ent src dst
  | .ok (none, _, _) => c.begin e .fabric ent (.error .placeIllegal) id
  | .error st => c.begin e .fabric ent (.error st) id

def fabAtom (c : Chip) (e : Nat) (ent : QEntry) : Chip :=
  match checkFabric ent with
  | .ok (src, dst, aux) => c.begin e .fabric ent (.ok ()) fun c => c.atomRun e ent src dst aux
  | .error st => c.begin e .fabric ent (.error st) id

def fabMgmt (c : Chip) (e : Nat) (ent : QEntry) : Chip :=
  match checkMgmt ent with
  | .ok (src, dst) => c.begin e .fabric ent (.ok ()) fun c => c.mgmtRun e ent src dst
  | .error st => c.begin e .fabric ent (.error st) id

end Chip

/-- A FABRIC slug of an operation; the PUT row takes the reserved operations too. -/
def isFabric (op : Nat) (s : SlugWord) : Bool := slugClass s == 5 && (slugOp s == op || (op == 0 && decide (7 < slugOp s)))

end Sys2Proof.Machine
end

