-- ==== Sys2Proof/Machine/Collective.lean ====
section
/-!
DEFINITION. Collectives (R308 to R312): REDUCE_SCATTER, ALL_GATHER and ALL_REDUCE, the frames COLL_DATA and COLL_GSUM, and the
ways a call fails. Where a frame's payload carries the call signature is the model's (DESIGN CHOICE, log entry 18).
-/
namespace Sys2Proof.Machine

/-! ### Groups, owners and leaders (R309) -/

def groupsOf (n : Nat) : Nat := (n + 31) / 32
/-- Members of group `g`. -/
def groupLen (n g : Nat) : Nat := min 32 (n - 32 * g)
/-- The leader of group `g` for the shard owned by rank `o`. -/
def leaderOf (n g o : Nat) : Nat := 32 * g + o % groupLen n g
/-- First element of rank `r`'s shard of `e` elements. -/
def shardLo (n e r : Nat) : Nat := r * e / n
/-- Elements of rank `r`'s shard. -/
def shardOf (n e r : Nat) : List Nat := (List.range (shardLo n e (r + 1) - shardLo n e r)).map (shardLo n e r + ·)
/-- Owner of element `i`. -/
def ownerOf (n e i : Nat) : Nat := ((List.range n).find? fun r => i < shardLo n e (r + 1)).getD 0

/-- Elements whose group sums a rank forms as a leader. -/
def ledCount (n e rank : Nat) : Nat :=
  let g := rank / 32
  (((List.range n).filter fun o => leaderOf n g o == rank).map fun o => shardLo n e (o + 1) - shardLo n e o).sum

/-! ### Group sums (R311) -/

/-- A signed value as `w` two's-complement bits. -/
def twos (w : Nat) (i : Int) : Nat := bitsOfInt w i

/-- The 16 bytes of a floating-point group sum. -/
def encodeSum (v : FVal) : BitVec 128 :=
  let code (k : Nat) : BitVec 128 := BitVec.ofNat 128 (k <<< 112)
  match v with
  | .nan => code 5
  | .inf s => code (if s then 4 else 3)
  | .fin s m e => if m = 0 then code (if s then 2 else 1)
    else BitVec.ofNat 128 (twos 96 (if s then -(m : Int) else m) + (twos 16 e) <<< 96)

def decodeSum (w : BitVec 128) : FVal :=
  match fld w 115 112 with
  | 0 => FVal.ofInt (signedOf 96 (fld w 95 0)) (signedOf 16 (fld w 111 96))
  | 1 => .fin false 0 0
  | 2 => .fin true 0 0
  | 3 => .inf false
  | 4 => .inf true
  | _ => .nan

/-- The group sum of the contributions, in rank order: exact, and never rounded (R72, R309). -/
def sumOf (int : Bool) (xs : List W64) : BitVec 128 :=
  if int then BitVec.ofNat 128 (twos 96 (xs.map BitVec.toInt).sum)
  else encodeSum (groupSum (xs.map fun x => f32 (BitVec.ofNat 32 x.toNat)))

/-- The result of an element from its group sums in increasing group order (R75, R309): the exact integer, or the FP32 value. -/
def sumGroups (int : Bool) (gs : List (BitVec 128)) : Int ⊕ W32 :=
  if int then .inl ((gs.map fun w => signedOf 96 (fld w 95 0)).sum)
  else .inr (gs.foldl (fun acc w => toF32 (FVal.add (f32 acc) (decodeSum w))) 0)

/-- The bits stored in a destination format (R52, R86, R309): an integer result wraps at the destination width. -/
def storeSum (dst : Fmt) (ctl : ConvCtl) : Int ⊕ W32 → Nat
  | .inl v => if dst.isInt then bitsOfInt dst.width v else convValue dst ctl (FVal.ofInt v 0)
  | .inr w => storeElem dst ctl none false (.f w)

/-! ### The call -/

/-- The group descriptor's header and members (R308). -/
structure Group where
  members : List Nat
  rank    : Nat
  tag     : Nat
  deriving DecidableEq, Repr

/-- Read a group descriptor (R308, R537). -/
def Chip.readGroup (c : Chip) (e : Nat) (s : SlugWord) : Except Status Group := do
  let a := fabGroup s
  let hdr ← c.readLocal (e / 16) (addrRange a 64)
  let h := BitVec.ofNat 512 (ofBytes hdr)
  let n := fld h 15 0
  failIf (n = 0 || decide (4096 < n) || decide (n ≤ fld h 31 16)) .shapeIllegal
  let bs ← c.readLocal (e / 16) (addrRange (a + 64) (2 * n))
  let ms := (List.range n).map fun i => ofBytes ((bs.drop (2 * i)).take 2)
  failIf (!ms.eraseDups.length == n || (ms.getD (fld h 31 16) 0 != c.fab.deviceId)) .placeIllegal
  return { members := ms, rank := fld h 31 16, tag := fld h 63 32 }

/-- The call signature of R308 as bytes: members, tag, OP, element count, format (DESIGN CHOICE, log entry 18). -/
def collSig (g : Group) (op elems fmt : Nat) (more : List Byte) : W64 :=
  BitVec.ofNat 64 (crc64we (g.members.flatMap (toBytes 2 ·) ++ toBytes 4 g.tag ++ toBytes 1 op ++ toBytes 8 elems ++ toBytes 1 fmt ++ more))

/-- The checks of a collective slug (R309, R311, R312, R537). -/
def checkColl (ent : QEntry) : Except Status (TD × TD × TD) := do
  let s := ent.slug
  failIf (fabReserved s) .reservedEncoding
  let src ← ent.tdReq (fabSrc s)
  let dst ← ent.tdReq (fabDst s)
  let aux ← ent.tdReq (fabAux s)
  failIf (src.space != .lcl || dst.space != .lcl || aux.space != .lcl || fabFlagBad s || decide (p2 48 ≤ fabGroup s) || fabGroup s % 64 != 0) .placeIllegal
  failIf (aux.fmt != .int8 || aux.ndim != 1 || decide (aux.count < 0x100000)) .stageRange
  failIf (slugOp s == 5 && src.fmt != dst.fmt) .formatIllegal
  return (src, dst, aux)

/-- Element counts of a member's TDs for its shard (R309, R312). -/
def collShape (op : Nat) (g : Group) (src dst : TD) : Except Status Unit :=
  let n := g.members.length
  let elems := if op = 5 then dst.count else src.count
  let mine := (shardOf n elems g.rank).length
  failIf (if op = 4 then dst.count != mine else if op = 5 then src.count != mine else dst.count != elems) .shapeIllegal

namespace Chip

def collOf (c : Chip) (e id : Nat) : Option Coll := c.fab.colls.find? fun k => k.engine == e && k.entry == id
def onColl (c : Chip) (e id : Nat) (f : Coll → Coll) : Chip :=
  c.onFab fun b => { b with colls := b.colls.map fun k => if k.engine = e ∧ k.entry = id then f k else k }
def dropColl (c : Chip) (e id : Nat) : Chip :=
  c.onFab fun b => { b with colls := b.colls.filter fun k => !(k.engine == e && k.entry == id) }

/-- The queue entry of a call in progress. -/
def callEntry (c : Chip) (e id : Nat) : Option QEntry := ((c.engine e).qFabric).find? fun q => q.id == id

/-- A call ends without success: its outputs and its staging are undefined (R308, R311). -/
def failColl (c : Chip) (e : Nat) (ent : QEntry) (st : Status) : Chip :=
  let td (r : Nat) : Option TD := match ent.td? r with
    | .ok t => t
    | .error _ => none
  (((c.dropColl e ent.id).onFab fun b => { b with a2as := b.a2as.filter fun k => !(k.engine == e && k.entry == ent.id) }).scramble
    [td (fabDst ent.slug), td (fabAux ent.slug)]).endSlug e .fabric ent st 0

/-! ### Frames -/

/-- Bytes of one contribution. -/
def contribBytes (int : Bool) : Nat := if int then 8 else 4

/-- A collective frame to a member (R310). ARG bit 48 says that the payload begins with the signature, bit 49 that it carries
gathered elements. -/
def collSend (c : Chip) (k : Coll) (rank op first who flags : Nat) (payload : List Byte) : Chip :=
  let dst := k.members.getD rank 0
  c.request k.engine k.entry 1 dst
    { opcode := op, dst, addr := k.tag + (k.count % p2 16) <<< 32, unit := fabUnitOf k.engine,
      arg := first % p2 32 + (who % p2 16) <<< 32 + flags <<< 48 } payload

/-- Elements in pieces of at most `m`, with the first element of each. -/
def piecesOf (m : Nat) : Nat → List Nat → List (List Nat)
  | 0, _ => []
  | fuel + 1, is => if is.isEmpty then [] else is.take m :: piecesOf m fuel (is.drop m)

/-- Send consecutive elements to a member in frames, the signature in the first. -/
def collSendAll (c : Chip) (k : Coll) (rank op who flags : Nat) (is : List Nat) (bytes : Nat → List Byte) : Chip :=
  ((piecesOf 60 (is.length + 1) is).zipIdx).foldl (fun c (p, i) =>
    let body := p.flatMap bytes
    c.collSend k rank op (p.headD 0) who (flags + (if i = 0 then 1 else 0)) ((if i = 0 then toBytes 8 k.sig.toNat else []) ++ body)) c

/-! ### Leaders and owners (R309) -/

/-- Contributions of a rank reach this leader. -/
def addContrib (k : Coll) (first rank : Nat) (vals : List W64) : Coll :=
  { k with contribs := (vals.zipIdx first).foldl (fun t (v, i) => Tab.set (4096 * i + rank) v t) k.contribs }

/-- Group sums of a group reach this owner. -/
def addSums (k : Coll) (first g : Nat) (vals : List (BitVec 128)) : Coll :=
  { k with gsums := (vals.zipIdx first).foldl (fun t (v, i) => Tab.set (4096 * i + g) v t) k.gsums }

/-- Elements led here whose contributions are all present. -/
def ledReady (k : Coll) : List Nat :=
  let n := k.members.length
  let g := k.rank / 32
  let here := (k.contribs.map fun p => p.1 / 4096).eraseDups
  here.filter fun i => leaderOf n g (ownerOf n k.elems i) == k.rank &&
    (List.range (groupLen n g)).all fun j => (Tab.find? (4096 * i + 32 * g + j) k.contribs).isSome

/-- The leader forms the sums it can, keeps those it owns, and sends the others to their owners. -/
def leadSums (c : Chip) (k : Coll) : Chip :=
  let n := k.members.length
  let g := k.rank / 32
  let ready := ledReady k
  if ready.isEmpty then c
  else
    let sum (i : Nat) : BitVec 128 := sumOf k.int ((List.range (groupLen n g)).map fun j => Tab.get 0 k.contribs (4096 * i + 32 * g + j))
    let (mine, far) := ready.partition fun i => ownerOf n k.elems i == k.rank
    let k1 := { k with
      contribs := k.contribs.filter fun p => !ready.contains (p.1 / 4096),
      led := k.led + ready.length,
      gsums := mine.foldl (fun t i => Tab.set (4096 * i + g) (sum i) t) k.gsums }
    let owners := (far.map (ownerOf n k.elems)).eraseDups
    owners.foldl (fun c o =>
      let is := far.filter fun i => ownerOf n k.elems i == o
      -- runs of consecutive elements
      (runsOf (is.map fun i => (i, (0 : Byte)))).foldl (fun c (a, bs) =>
        c.collSendAll k o opCollGsum g 0 ((List.range bs.length).map (a + ·)) fun i => toBytes 16 (sum i).toNat) c)
      (c.onColl k.engine k.entry fun _ => k1)

/-- Element writes of a call's outputs. -/
def rawWrites (dst : TD) (xs : List (Nat × Nat)) : List EWrite :=
  xs.map fun (i, v) =>
    let cs := coordsOf dst.ext i
    { addr := dst.addr cs, bits := v, fmt := dst.fmt, high := dst.high cs }

/-- The owner's shard is complete: each group's sum is here. -/
def ownReady (k : Coll) : Bool :=
  let n := k.members.length
  (shardOf n k.elems k.rank).all fun i => (List.range (groupsOf n)).all fun g => (Tab.find? (4096 * i + g) k.gsums).isSome

/-- The bits of the owner's shard (R309, step 3 and 4). -/
def ownBits (ent : QEntry) (k : Coll) (dst : TD) : List (Nat × Nat) :=
  let n := k.members.length
  let lo := shardLo n k.elems k.rank
  (shardOf n k.elems k.rank).map fun i =>
    (i, storeSum dst.fmt (ctlOf ent dst (i - lo)) (sumGroups k.int ((List.range (groupsOf n)).map fun g => Tab.get 0 k.gsums (4096 * i + g))))

/-- Bytes of one gathered element. -/
def gatherBytes (f : Fmt) : Nat := if f = .int4 then 1 else f.width / 8

/-- A member's own shard goes to every member, and into its own outputs (R312). -/
def gatherOut (c : Chip) (k : Coll) (f : Fmt) (xs : List (Nat × Nat)) : Chip :=
  let k1 := { k with stage := 1, gathered := xs.foldl (fun t (i, v) => Tab.set i v t) k.gathered }
  let tab : Tab Nat := xs
  ((List.range k.members.length).filter (· != k.rank)).foldl (fun c r =>
    c.collSendAll k1 r opCollData k.rank 2 (xs.map (·.1)) fun i => toBytes (gatherBytes f) (Tab.get 0 tab i)) (c.onColl k.engine k.entry fun _ => k1)

/-- The call goes as far as what has arrived allows: group sums, the owner's results, the gather, and the stored outputs. The slug
ends when its outputs are stored, its sums are sent and every request it made has its RESPONSE (R306). -/
def advanceColl (c : Chip) (e id : Nat) : Chip :=
  match c.collOf e id, c.callEntry e id with
  | some k0, some ent =>
    (match checkColl ent with
    | .error st => c.failColl e ent st
    | .ok (_, dst, aux) =>
      let c1 := if k0.op = 5 then c else c.leadSums k0
      let k1 := (c1.collOf e id).getD k0
      let c2 := if k1.stage = 0 ∧ ownReady k1 then
          (if k1.op = 4 then
            (let xs := (ownBits ent k1 dst).zipIdx.map fun ((_, v), j) => (j, v)
             match c1.fabStore e (rawWrites dst xs) with
             | .ok c2 => c2.onColl e id fun k => { k with stage := 2 }
             | .error st => c1.failColl e ent st)
          else c1.gatherOut k1 dst.fmt (ownBits ent k1 dst))
        else c1
      let c3 := match c2.collOf e id with
        | some k2 =>
          if k2.stage = 1 ∧ (List.range k2.elems).all (fun i => (Tab.find? i k2.gathered).isSome) then
            (match c2.fabStore e (rawWrites dst k2.gathered) with
            | .ok c3 => c3.onColl e id fun k => { k with stage := 2 }
            | .error st => c2.failColl e ent st)
          else c2
        | none => c2
      match c3.collOf e id with
      | none => c3
      | some k3 =>
        if k3.stage = 2 ∧ (k3.op = 5 ∨ k3.led = ledCount k3.members.length k3.elems k3.rank) ∧ !c3.fabWaiting e id then
          (match (c3.fabAnswers e id).findSome? fun r => match r.answer with
              | some (st, _) => if st = .success then none else some st
              | none => none with
          | some st => c3.failColl e ent st
          | none => ((c3.dropColl e id).scramble [some aux]).fabFinish e ent)
        else c3)
  | _, _ => c

/-! ### Frames that arrive (R308, R310) -/

/-- The call of a tag that is in progress here: a collective, or an all-to-all. -/
def tagOwner (c : Chip) (tag : Nat) : Option (Nat × Nat) :=
  match c.fab.colls.find? fun k => k.tag == tag with
  | some k => some (k.engine, k.entry)
  | none => (c.fab.a2as.find? fun k => k.tag == tag).map fun k => (k.engine, k.entry)

/-- A frame belongs to a call that this member has ended: its count lies behind the member's own. -/
def pastCall (c : Chip) (tag count : Nat) : Bool :=
  let d := (Tab.get 0 c.fab.calls tag % p2 16 + p2 16 - count % p2 16) % p2 16
  decide (1 ≤ d ∧ d < p2 15)

/-- A frame that comes while no call of its tag is in progress waits until this member issues one; one of a call that has ended is
forgotten. DEDUCED, log entry 41. -/
def holdFrame (c : Chip) (tag count : Nat) (h : THdr) (payload : List Byte) : Chip :=
  let x : EarlyFrame := { thdr := h.enc, payload }
  if c.pastCall tag count || c.fab.early.contains x then c else c.onFab fun f => { f with early := f.early ++ [x] }

/-- A call of a tag meets a frame that differs from it (R308). -/
def mismatch (c : Chip) (tag : Nat) : Chip :=
  match c.tagOwner tag with
  | none => c
  | some (e, id) => match c.callEntry e id with
    | some ent => c.failColl e ent .collMismatch
    | none => c

/-- A collective frame meets the call in progress: its count and signature are compared, and its values are taken where they agree
(R308). -/
def takeColl (c : Chip) (h : THdr) (payload : List Byte) : Chip :=
  let tag := h.addr % p2 32
  match c.fab.colls.find? fun k => k.tag == tag with
  | none => if (c.tagOwner tag).isSome then c.mismatch tag else c.holdFrame tag (nbits h.addr 32 16) h payload
  | some k =>
    let signed := nbits h.arg 48 1 = 1
    let gathered := nbits h.arg 49 1 = 1
    let body := if signed then payload.drop 8 else payload
    let first := nbits h.arg 0 32
    let who := nbits h.arg 32 16
    if nbits h.addr 32 16 ≠ k.count % p2 16 ∨ (signed ∧ ofBytes (payload.take 8) ≠ k.sig.toNat) then c.mismatch tag
    else
      let cut (n : Nat) : List Nat := (List.range (body.length / n)).map fun i => ofBytes ((body.drop (n * i)).take n)
      let k1 :=
        if h.opcode = opCollGsum then addSums k first who ((cut 16).map (BitVec.ofNat 128))
        else if gathered then
          let n := match c.callEntry k.engine k.entry with
            | some ent => (match checkColl ent with | .ok (_, dst, _) => gatherBytes dst.fmt | .error _ => 1)
            | none => 1
          { k with gathered := ((cut n).zipIdx first).foldl (fun t (v, i) => Tab.set i v t) k.gathered }
        else addContrib k first who ((cut (contribBytes k.int)).map (BitVec.ofNat 64))
      (c.onColl k.engine k.entry fun _ => k1).advanceColl k.engine k.entry

/-- COLL_DATA and COLL_GSUM: accepted, and held while the member has not issued the call. -/
def collFrame (c : Chip) (h : THdr) (payload : List Byte) : Chip :=
  let c1 := c.respond h .success 0 []
  if (c1.tagOwner (h.addr % p2 32)).isSome then c1.takeColl h payload
  else c1.holdFrame (h.addr % p2 32) (nbits h.addr 32 16) h payload

/-- The GROUP_TAG of a held frame: a collective's in ADDR (R310), an all-to-all's in ARG. -/
def earlyTag (x : EarlyFrame) : Nat :=
  if fld x.thdr 7 0 = opA2aRows ∨ fld x.thdr 7 0 = opA2aMark then fld x.thdr 223 192 else fld x.thdr 95 64

/-- Frames that came before a call of their tag are taken now. -/
def takeEarly (c : Chip) (tag : Nat) (take : Chip → THdr → List Byte → Chip) : Chip :=
  let mine := c.fab.early.filter fun x => earlyTag x == tag
  mine.foldl (fun c x => take c (THdr.dec x.thdr) x.payload) (c.onFab fun f => { f with early := f.early.filter fun x => earlyTag x != tag })

/-- A held frame meets the collective that begins: one of an all-to-all differs from it (R308). -/
def takeHeld (c : Chip) (h : THdr) (payload : List Byte) : Chip :=
  if h.opcode = opA2aRows ∨ h.opcode = opA2aMark then c.mismatch (h.arg % p2 32) else c.takeColl h payload

/-! ### The rows -/

/-- The contributions or elements of a source TD: FP32 and INT64 (R58, R309), or raw bits. -/
def contribOf (src : TD) (raw : Nat) : W64 :=
  match loadElem src.fmt raw with
  | .f w => BitVec.ofNat 64 w.toNat
  | .i w => BitVec.ofInt 64 w.toInt

/-- A call begins: it is counted, its contributions go to the leaders of its group, or its elements to every member. -/
def beginColl (c : Chip) (e : Nat) (ent : QEntry) (src dst : TD) (g : Group) (raw : List Nat) : Chip :=
  let op := slugOp ent.slug
  let n := g.members.length
  let elems := if op = 5 then dst.count else src.count
  let count := Tab.get 0 c.fab.calls g.tag
  let k : Coll := { engine := e, entry := ent.id, tag := g.tag, count, op, members := g.members, rank := g.rank, elems,
                    int := src.fmt.isInt, sig := collSig g op elems src.fmt.code [] }
  let ent1 := { ent with prog := { ent.prog with phase := 1 } }
  let c1 := (c.onFab fun f => { f with calls := Tab.set g.tag (count + 1) f.calls, colls := f.colls ++ [k] }).updEntry e .fabric ent1
  let c2 :=
    if op = 5 then c1.gatherOut k dst.fmt (raw.zipIdx (shardLo n elems g.rank) |>.map fun (v, i) => (i, v))
    else
      let tab : Tab Nat := raw.zipIdx.map fun (v, i) => (i, v)
      let val (i : Nat) : W64 := contribOf src (Tab.get 0 tab i)
      (List.range n).foldl (fun c o =>
        let l := leaderOf n (g.rank / 32) o
        let is := shardOf n elems o
        if is.isEmpty then c
        else if l = g.rank then c.onColl e ent.id fun k => addContrib k (is.headD 0) g.rank (is.map val)
        else c.collSendAll k l opCollData g.rank 0 is fun i => toBytes (contribBytes k.int) (val i).toNat) c1
  (c2.takeEarly g.tag takeHeld).advanceColl e ent.id

/-- A collective slug at the head of its queue. -/
def collRun (c : Chip) (e : Nat) (ent : QEntry) (src dst : TD) : Chip :=
  if ent.prog.phase = 1 then c.advanceColl e ent.id
  else
    match c.readGroup e ent.slug with
    | .error st => c.endSlug e .fabric ent st 0
    | .ok g =>
      match collShape (slugOp ent.slug) g src dst with
      | .error st => c.endSlug e .fabric ent st 0
      | .ok () =>
        if g.members.any c.unreachable then c.failColl e ent .linkLost
        else match (List.range src.count).mapM (c.fabElem e src) with
          | .error st => (if st = .memUe ∨ st = .bufferUe then c.fabUe src else c).endSlug e .fabric ent st 0
          | .ok raw => c.beginColl e ent src dst g raw

def fabColl (c : Chip) (e : Nat) (ent : QEntry) : Chip :=
  match checkColl ent with
  | .error st => c.begin e .fabric ent (.error st) id
  | .ok (src, dst, _) => c.begin e .fabric ent (.ok ()) fun c => c.collRun e ent src dst

/-- COLL_TIMEOUT: the call that the head of an engine's fabric queue has in progress has waited too long (R311). -/
def collTimeout (c : Chip) (e : Nat) : Chip :=
  match (c.engine e).qFabric with
  | [] => c
  | ent :: _ =>
    if (c.collOf e ent.id).isSome || c.fab.a2as.any (fun k => k.engine == e && k.entry == ent.id) then c.failColl e ent .collTimeout else c

/-- Calls with a member that has become unreachable complete with LINK_LOST (R311). -/
def loseCalls (c : Chip) : Chip :=
  let gone (ms : List Nat) : Bool := ms.any c.unreachable
  let calls := ((c.fab.colls.filter fun k => gone k.members).map fun k => (k.engine, k.entry)) ++
    ((c.fab.a2as.filter fun k => gone k.members).map fun k => (k.engine, k.entry))
  calls.foldl (fun c (e, id) => match c.callEntry e id with
    | some ent => c.failColl e ent .linkLost
    | none => c) c

end Chip

end Sys2Proof.Machine
end

