-- ==== Sys2Proof/Machine/AllToAll.lean ====
section
/-!
DEFINITION. The all-to-all exchange (R308, R313 to R316): DISPATCH, COMBINE, and the frames A2A_ROWS and A2A_MARK. What the frames
carry besides rows, tags and header entries is the model's (DESIGN CHOICE, log entry 19).
-/
namespace Sys2Proof.Machine

/-! ### The role window (R313) -/

def up64 (n : Nat) : Nat := (n + 63) / 64 * 64
/-- Bytes of the header and of the tag area, each rounded up to a 64-byte boundary. -/
def winHeader (n : Nat) : Nat := up64 (16 * n)
def winTags (n cap : Nat) : Nat := up64 (8 * n * cap)
/-- Bytes of one row of `h` elements. -/
def rowLen (f : Fmt) (h : Nat) : Nat := if f = .int4 then h / 2 else h * (f.width / 8)
def winRow (n cap rb slot : Nat) : Nat := winHeader n + winTags n cap + slot * up64 rb
def winTag (n slot : Nat) : Nat := winHeader n + 8 * slot
def winSize (n cap rb : Nat) : Nat := winRow n cap rb (n * cap)

/-- The 64-bit tag of a row (R313). -/
def rowTag (j q : Nat) : Nat := j % p2 32 + (q % 8) <<< 32

/-! ### Checks (R305, R314, R316, R537) -/

structure A2ATds where
  src : TD
  dst : Option TD
  idx : Option TD
  deriving DecidableEq, Repr

/-- Rows of a two-dimensional TD. -/
def TD.rows (t : TD) : Nat := t.ext.getD 1 1

def checkA2A (ent : QEntry) : Except Status A2ATds := do
  let s := ent.slug
  failIf (fabReserved s) .reservedEncoding
  let src ← ent.tdReq (fabSrc s)
  let dst ← if fabCombine s then .ok none else (ent.tdReq (fabDst s)).map some
  let idx ← if fabCombine s then .ok none else (ent.tdReq (fabIdx s)).map some
  let far (t : Option TD) : Bool := match t with
    | some t => t.space != .lcl
    | none => false
  failIf (src.space != .lcl || far dst || far idx || fabFlagBad s || decide (p2 48 ≤ fabGroup s) || fabGroup s % 64 != 0) .placeIllegal
  failIf (idx.any fun t => t.fmt != .int32) .formatIllegal
  let two (t : TD) : Bool := t.twoDim
  failIf (!two src || (idx.any fun t => !two t || t.ext.headD 0 != fabTopk s || t.rows != src.rows) ||
    (dst.any fun t => !two t || t.ext.headD 0 != src.ext.headD 0 || t.rows != src.rows * fabTopk s)) .shapeIllegal
  return { src, dst, idx }

namespace Chip

/-- The raw bytes of a row of a TD, element by element in order; an INT4 row packs two to a byte (R48). -/
def rowBytes (c : Chip) (e : Nat) (t : TD) (row : Nat) : Except Status (List Byte) := do
  let h := t.ext.headD 0
  let vs ← (List.range h).mapM fun i => c.fabElem e t (row * h + i)
  let bits := vs.zipIdx.foldl (fun n (v, i) => n + v <<< (t.fmt.width * i)) 0
  return toBytes (rowLen t.fmt h) bits

/-- Signature of an all-to-all (R308). -/
def a2aSig (g : Group) (s : SlugWord) (f : Fmt) (rb : Nat) : W64 :=
  collSig g 3 0 f.code (toBytes 1 (fabCombine s).toNat ++ toBytes 1 (fabTopk s - 1) ++ toBytes 2 (fabCap s) ++ toBytes 2 (fabFirst s) ++
    toBytes 2 (fabRoles s) ++ toBytes 4 rb)

/-- Group tag, call count and the sender's rank, as the frames of an all-to-all carry them. -/
def markArg (k : A2A) : Nat := k.tag + (k.count % p2 16) <<< 32 + k.rank <<< 48

/-- Send the bytes of one row in pieces of at most 960 bytes, each behind its tag, the size of the window's layout, the call signature
and the call (R308): to a role's window, with the tag's own offset in ARG, or to a device's address, with ARG all ones. -/
def sendRow (c : Chip) (k : A2A) (role : Bool) (dst addr tagAt tag size : Nat) (row : List Byte) : Chip :=
  ((List.range ((row.length + 959) / 960)).map (960 * ·)).foldl (fun c o =>
    c.request k.engine k.entry 1 dst { opcode := opA2aRows, role, addr := addr + o, unit := fabUnitOf k.engine, arg := tagAt }
      (toBytes 8 tag ++ toBytes 8 size ++ toBytes 8 k.sig.toNat ++ toBytes 8 (markArg k) ++ ((row.drop o).take 960))) c

def a2aOf (c : Chip) (e id : Nat) : Option A2A := c.fab.a2as.find? fun k => k.engine == e && k.entry == id
def onA2a (c : Chip) (e id : Nat) (f : A2A → A2A) : Chip :=
  c.onFab fun b => { b with a2as := b.a2as.map fun k => if k.engine = e ∧ k.entry = id then f k else k }

/-- Roles of the range that this device holds; a dispatch counts those that are ready too (R315, R316). -/
def heldRoles (c : Chip) (first n : Nat) (ready : Bool) : List Nat :=
  ((List.range n).map (first + ·)).filter fun r =>
    let w := Tab.get 0 c.fab.roles r
    bit w 32 && bit w 33 && (!ready || bit w 34)

/-! ### DISPATCH (R314, R315) -/

/-- One routed slot: role, token, slot, and the count it takes among the rows of its role. -/
structure Routed where
  role : Nat
  j    : Nat
  q    : Nat
  c    : Nat
  deriving DecidableEq, Repr

/-- The sender's visit of the routing index: each row bound for a role takes that role's next count. Answers the routed slots and
the empty ones. -/
def routeRows (topk : Nat) (idx : List W32) : List Routed × List (Nat × Nat) :=
  let r := idx.zipIdx.foldl (fun (st : Tab Nat × List Routed × List (Nat × Nat)) (w, i) =>
    let (counts, out, empty) := st
    let j := i / topk
    let q := i % topk
    if w = 0xFFFFFFFF#32 then (counts, out, empty ++ [(j, q)])
    else
      let role := w.toNat % p2 16
      let n := Tab.get 0 counts role
      (Tab.set role (n + 1) counts, out ++ [{ role, j, q, c := n }], empty)) (([] : Tab Nat), [], [])
  r.2

/-- The whole of a dispatch's first phase: dropped and empty rows of TD_DST are zeroed, and rows are sent. DEDUCED, log entry 42. -/
def dispatchSend (c : Chip) (e : Nat) (ent : QEntry) (k : A2A) (t : A2ATds) (g : Group) (rows : List Routed) (empty : List (Nat × Nat)) :
    Except Status Chip := do
  let s := ent.slug
  let n := g.members.length
  let cap := fabCap s
  let rb := rowLen t.src.fmt (t.src.ext.headD 0)
  let (sent, dropped) := rows.partition fun r => r.c < cap
  let blank := empty ++ dropped.map fun r => (r.j, r.q)
  let c1 ← match t.dst with
    | none => .ok c
    | some d =>
      let h := d.ext.headD 0
      let ws := blank.flatMap fun (j, q) => (List.range h).map fun i =>
        let cs := [i, q * t.src.rows + j, 0, 0, 0, 0]
        ({ addr := d.addr cs, bits := 0, fmt := d.fmt, high := d.high cs } : EWrite)
      c.fabStore e ws
  let c2 := c1.onFab fun f => { f with a2aDropped := modifyAt (bump48 · dropped.length) f.a2aDropped (e / 16) }
  sent.foldlM (fun c r => do
    let row ← c.rowBytes e t.src r.j
    let slot := g.rank * cap + r.c
    return c.sendRow k true r.role (winRow n cap rb slot) (winTag n slot) (rowTag r.j r.q) (winSize n cap rb) row) c2

/-- The marks of a dispatch: the header entry of every role of the range (R315). The mark carries the sender's row count too. -/
def dispatchMarks (c : Chip) (e : Nat) (ent : QEntry) (k : A2A) (t : A2ATds) (rows : List Routed) : Chip :=
  let n := k.members.length
  let cap := fabCap ent.slug
  let rb := rowLen t.src.fmt (t.src.ext.headD 0)
  let (base, stride) := match t.dst with
    | some d => (d.base, bitsOfInt 32 (d.stride.getD 1 0))
    | none => (0, 0)
  ((List.range k.roles).map (k.first + ·)).foldl (fun c role =>
    let count := (rows.filter fun r => r.role == role).length
    let entry := toBytes 4 count ++ toBytes 4 stride ++ toBytes 8 base
    c.request e ent.id 1 role { opcode := opA2aMark, role := true, addr := 16 * k.rank, unit := fabUnitOf e, arg := markArg k }
      (entry ++ toBytes 8 k.sig.toNat ++ toBytes 8 t.src.rows ++ toBytes 8 (winSize n cap rb))) c

/-- An all-to-all whose slug has ended is forgotten. -/
def tidyA2a (c : Chip) (e id : Nat) : Chip :=
  if (c.callEntry e id).isSome then c
  else c.onFab fun b => { b with a2as := b.a2as.filter fun x => !(x.engine == e && x.entry == id) }

/-- A member has every mark it waits for. -/
def marksDone (c : Chip) (k : A2A) : Bool :=
  let n := k.members.length
  if k.combine then ((List.range k.roles).map (k.first + ·)).all fun r => k.marks.any fun m => m.1 == r
  else (c.heldRoles k.first k.roles true).all fun r => (List.range n).all fun s => k.marks.contains (r, s)

/-- The last phase of an all-to-all: RESPONSEs, then marks. -/
def finishA2A (c : Chip) (e : Nat) (ent : QEntry) : Chip :=
  (c.fabAwait e ent fun c =>
    match c.a2aOf e ent.id with
    | none => c.endSlug e .fabric ent .collMismatch 0
    | some k => if c.marksDone k then c.fabFinish e ent else c.updEntry e .fabric ent).tidyA2a e ent.id

/-- The routing index of a dispatch, checked: a role outside the range rejects the slug (R314). -/
def readIndex (c : Chip) (e : Nat) (s : SlugWord) (idx : TD) : Except Status (List W32) := do
  let vs ← (List.range idx.count).mapM (c.fabElem e idx)
  let ws := vs.map (BitVec.ofNat 32)
  failIf (ws.any fun w => w != 0xFFFFFFFF#32 && !(decide (fabFirst s ≤ w.toNat % p2 16 ∧ w.toNat % p2 16 < fabFirst s + fabRoles s))) .shapeIllegal
  return ws

/-! ### COMBINE (R316) -/

/-- Rows to return: for each held role and sender, address, tag and source row. -/
def combineRows (c : Chip) (e : Nat) (s : SlugWord) (t : A2ATds) (g : Group) : Except Status (List (Nat × Nat × Nat × Nat)) := do
  let n := g.members.length
  let cap := fabCap s
  let held := c.heldRoles (fabFirst s) (fabRoles s) false
  let parts ← held.zipIdx.mapM fun (role, hi) => do
    let base := fld (Tab.get 0 c.fab.roles role) 111 64
    let subs ← (List.range n).mapM fun snd => do
      let hb ← c.readLocal (e / 16) (addrRange (base + 16 * snd) 16)
      let h := ofBytes hb
      let rows := Tab.get 0 c.fab.retRows (4096 * role + snd)
      (List.range (min cap (nbits h 0 32))).mapM fun k => do
        let slot := snd * cap + k
        let tb ← c.readLocal (e / 16) (addrRange (base + winTag n slot) 8)
        let tag := ofBytes tb
        let addr := nbits h 64 64 + (nbits tag 32 3 * rows + nbits tag 0 32) * nbits h 32 32
        return (snd, addr, tag, hi * n * cap + slot)
    return subs.flatten
  failIf (t.src.rows != held.length * n * cap) .shapeIllegal
  return parts.flatten

/-- Send a combine's rows: to this device at once, within the range of R27 (R28), to the others as frames. -/
def combineSend (c : Chip) (e : Nat) (k : A2A) (t : A2ATds) (g : Group) (rows : List (Nat × Nat × Nat × Nat)) : Except Status Chip :=
  rows.foldlM (fun c (snd, addr, tag, r) => do
    let row ← c.rowBytes e t.src r
    if snd = g.rank then
      failIf (!(addrRange (addr % p2 48) row.length).all c.broadsheetOk) .addrRefused
      c.writeLocal (e / 16) none (cellsAt (addr % p2 48) row)
    else return c.sendRow k false (g.members.getD snd 0) (addr % p2 48) (p2 64 - 1) tag 0 row) c

/-- The marks of a combine: one per held role to every member. -/
def combineMarks (c : Chip) (e : Nat) (ent : QEntry) (k : A2A) : Chip :=
  (c.heldRoles k.first k.roles false).foldl (fun c role =>
    (k.members.zipIdx).foldl (fun c (m, r) =>
      if r = k.rank then c.onA2a e ent.id fun k => { k with marks := k.marks ++ [(role, r)] }
      else c.request e ent.id 1 m { opcode := opA2aMark, addr := role, unit := fabUnitOf e, arg := markArg k } (toBytes 8 k.sig.toNat)) c) c

/-! ### Frames that arrive (R301, R313 to R316) -/

/-- The call that a row frame belongs to differs from the call of its tag that is in progress here (R308); without one, what identifies the
frame's call is kept until one is issued. DEDUCED, log entry 41. -/
def checkRow (c : Chip) (call sig : Nat) : Chip :=
  let tag := nbits call 0 32
  match c.fab.a2as.find? fun k => k.tag == tag with
  | none =>
    if (c.tagOwner tag).isSome then c.mismatch tag
    else c.holdFrame tag (nbits call 32 16) { opcode := opA2aRows, arg := call % p2 48 } (toBytes 8 sig)
  | some k => if nbits call 32 16 ≠ k.count % p2 16 ∨ sig ≠ k.sig.toNat then c.mismatch tag else c

/-- A2A_ROWS: the row and its tag are stored in the addressed slot, or the row at the addressed place of this device; the frame's call is
compared (R308). -/
def a2aRows (c : Chip) (h : THdr) (payload : List Byte) : Chip :=
  let word (i : Nat) : Nat := ofBytes ((payload.drop (8 * i)).take 8)
  let row := payload.drop 32
  let done (c : Chip) : Chip := c.checkRow (word 3) (word 2)
  match c.acceptAt h row.length with
  | .error (st, arg) => c.respond h st arg []
  | .ok a =>
    if h.role then
      let ent := Tab.get 0 c.fab.roles h.dst
      if p2 (fld ent 40 35) < word 1 ∨ p2 (fld ent 40 35) < h.arg + 8 then c.respond h .addrRefused (roleReply ent) []
      else
        let ta := fld ent 111 64 + h.arg
        match c.rangeError a row.length, c.rangeError ta 8 with
        | some st, _ => c.refuseReq h st 0 (addrRange a row.length)
        | none, some st => c.refuseReq h st 0 (addrRange ta 8)
        | none, none =>
          let cells := cellsAt a row ++ cellsAt ta (payload.take 8)
          (match c.uePartial (cells.map (·.1)) with
          | some _ => c.refuseReq h .memUe 0 (cells.map (·.1))
          | none =>
            let (c1, txns) := c.storeLocal none cells
            done (c1.respondAfter h txns []))
    else match c.rangeError a row.length with
      | some st => c.refuseReq h st 0 (addrRange a row.length)
      | none => done (c.writeTarget h a row [])

/-- A mark counts for the all-to-all of its tag, or is held until the member issues it (R315). DEDUCED, log entry 42. -/
def takeMark (c : Chip) (h : THdr) (payload : List Byte) : Chip :=
  let tag := nbits h.arg 0 32
  match c.fab.a2as.find? fun k => k.tag == tag with
  | none => if (c.tagOwner tag).isSome then c.mismatch tag else c.holdFrame tag (nbits h.arg 32 16) h payload
  | some k =>
    let sig := ofBytes ((if h.role then payload.drop 16 else payload).take 8)
    if nbits h.arg 32 16 ≠ k.count % p2 16 ∨ sig ≠ k.sig.toNat then c.mismatch tag
    else
      let m := (if h.role then h.dst else h.addr, nbits h.arg 48 16)
      let c1 := c.onA2a k.engine k.entry fun k => { k with marks := if k.marks.contains m then k.marks else k.marks ++ [m] }
      match c1.callEntry k.engine k.entry with
      | some ent => if ent.prog.phase = 2 then c1.finishA2A k.engine ent else c1
      | none => c1

/-- A2A_MARK: a dispatch's mark writes its header entry. -/
def a2aMark (c : Chip) (h : THdr) (payload : List Byte) : Chip :=
  let count (c : Chip) : Chip :=
    if (c.tagOwner (nbits h.arg 0 32)).isSome then c.takeMark h payload
    else c.holdFrame (nbits h.arg 0 32) (nbits h.arg 32 16) h payload
  if !h.role then count (c.respond h .success 0 [])
  else
    match c.acceptAt h 16 with
    | .error (st, arg) => c.respond h st arg []
    | .ok a =>
      let ent := Tab.get 0 c.fab.roles h.dst
      if p2 (fld ent 40 35) < ofBytes ((payload.drop 32).take 8) then c.respond h .addrRefused (roleReply ent) []
      else match c.rangeError a 16 with
        | some st => c.refuseReq h st 0 (addrRange a 16)
        | none =>
          let n := ofBytes ((payload.drop 24).take 8)
          let c1 := c.onFab fun f => { f with retRows := Tab.set (4096 * h.dst + h.addr / 16) n f.retRows }
          count (c1.writeTarget h a (payload.take 16) [])

/-- Frames that came before the all-to-all of their tag are compared and counted now. -/
def takeEarlyMarks (c : Chip) (tag : Nat) : Chip :=
  c.takeEarly tag fun c h payload =>
    if (c.tagOwner tag).isNone then c
    else if h.opcode = opA2aRows then c.checkRow h.arg (ofBytes payload)
    else if h.opcode = opA2aMark then c.takeMark h payload
    else c.takeColl h payload

/-! ### The rows -/

/-- An all-to-all begins: it is counted, and its rows are sent. -/
def beginA2A (c : Chip) (e : Nat) (ent : QEntry) (t : A2ATds) (g : Group) : Chip :=
  let s := ent.slug
  let rb := rowLen t.src.fmt (t.src.ext.headD 0)
  let count := Tab.get 0 c.fab.calls g.tag
  let k : A2A := { engine := e, entry := ent.id, sig := a2aSig g s t.src.fmt rb, combine := fabCombine s, members := g.members, rank := g.rank,
                   tag := g.tag, count, first := fabFirst s, roles := fabRoles s }
  let c1 := c.onFab fun f => { f with calls := Tab.set g.tag (count + 1) f.calls, a2as := f.a2as ++ [k] }
  let sent : Except Status Chip := do
    if fabCombine s then
      let rows ← c1.combineRows e s t g
      c1.combineSend e k t g rows
    else
      match t.idx with
      | none => .error .placeIllegal
      | some ix =>
        let w ← c1.readIndex e s ix
        let (rows, empty) := routeRows (fabTopk s) w
        c1.dispatchSend e ent k t g rows empty
  match sent with
  | .error st => (c.updEntry e .fabric ent).endSlug e .fabric ent st 0
  | .ok c2 => (c2.updEntry e .fabric { ent with prog := { ent.prog with phase := 1 } }).takeEarlyMarks g.tag

/-- An all-to-all at the head of its queue. `phase` 1: rows are out; 2: marks are out. -/
def a2aRun (c : Chip) (e : Nat) (ent : QEntry) (t : A2ATds) : Chip :=
  match ent.prog.phase with
  | 0 =>
    (match c.readGroup e ent.slug with
    | .error st => c.endSlug e .fabric ent st 0
    | .ok g => if g.members.any c.unreachable then c.failColl e ent .linkLost else c.beginA2A e ent t g)
  | 1 =>
    c.fabAwait e ent fun c =>
      (match c.a2aOf e ent.id with
      | none => c.endSlug e .fabric ent .collMismatch 0
      | some k =>
        let ent1 := { ent with prog := { ent.prog with phase := 2 } }
        let c0 := (c.clearReqs e ent.id).updEntry e .fabric ent1
        if k.combine then (c0.combineMarks e ent1 k).finishA2A e ent1
        else match t.idx with
          | none => c
          | some ix =>
            match c0.readIndex e ent.slug ix with
            | .error st => c.failColl e ent st
            | .ok w => (c0.dispatchMarks e ent1 k t (routeRows (fabTopk ent.slug) w).1).finishA2A e ent1)
  | _ => c.finishA2A e ent

def fabA2A (c : Chip) (e : Nat) (ent : QEntry) : Chip :=
  match checkA2A ent with
  | .error st => c.begin e .fabric ent (.error st) id
  | .ok t => (c.begin e .fabric ent (.ok ()) fun c => c.a2aRun e ent t).tidyA2a e ent.id

end Chip

/-- An ALL_TO_ALL slug of a direction. -/
def isA2A (combine : Bool) (s : SlugWord) : Bool := slugClass s == 5 && slugOp s == 3 && fabCombine s == combine

end Sys2Proof.Machine
end

