-- ==== Sys2Proof/Machine/Link.lean ====
section
/-!
DEFINITION. Ports and links (R280 to R299): the receiver's and transmitter's sides of the link layer, forwarding, training and lanes,
heartbeats, and a port that goes down.
-/
namespace Sys2Proof.Machine

/-- The forme of a port. -/
def portForme (p : Nat) : Nat := p / 4

/-- Lanes of a WIDTH code (R295), and the code of a width. -/
def lanesOfCode (n : Nat) : Nat := match n with | 0 => 1 | 1 => 2 | _ => 4
def codeOfLanes (n : Nat) : Nat := match n with | 1 => 0 | 2 => 1 | _ => 2

/-- The width at which sound lanes let a link train; 0 with no sound lane (R282). -/
def soundWidth (bad : List Nat) : Nat :=
  let ok (l : Nat) : Bool := !bad.contains l
  if ok 0 && ok 1 && ok 2 && ok 3 then 4
  else if (ok 0 && ok 1) || (ok 2 && ok 3) then 2
  else if ok 0 || ok 1 || ok 2 || ok 3 then 1 else 0

/-- LSEQ `a` comes before `b` in serial order. -/
def seqBefore (a b : Nat) : Bool := decide (p2 15 ≤ (a + p2 16 - b % p2 16) % p2 16)

/-- The event of a port, raised by its bed die (R483). DEDUCED, log entry 72. -/
def Chip.portEvent (c : Chip) (p code : Nat) (sev : Severity) : Chip :=
  c.raise code sev (74 + portForme p) (.forme (portForme p)) []

namespace Chip

/-! ### Acknowledgements and credits (R283, R287) -/

/-- The ACK and credits of an incoming frame: covered frames leave the retry buffer, and what credits now allow is sent. -/
def takeAck (c : Chip) (p : Nat) (link : BitVec 64) : Chip :=
  let ack := fld link 35 20
  let vc := fld link 38 36
  let c1 := c.onPort p fun q =>
    let keep := q.retry.filter fun f => !seqBefore (fld f.link 19 4) ack
    { q with retry := keep, nakRun := if keep.length < q.retry.length then 0 else q.nakRun,
             credits := modifyAt (· + fld link 50 39) q.credits vc }
  c1.drainOut p

/-- The fields of a HEARTBEAT or TRAIN frame that a port sends (R295). -/
def beat (c : Chip) (p width : Nat) (seq : BitVec 32) : List Byte :=
  toBytes 32 ((if c.fab.idValid then c.fab.deviceId % p2 16 else 0) + (c.fab.domainId % p2 16) <<< 16 + (p % 16) <<< 32 +
    codeOfLanes width <<< 36 + c.fab.idValid.toNat <<< 38 + seq.toNat <<< 64)

/-- The link retrains: its frames are held, and the far end is told the width (R282). DEDUCED, log entry 38. -/
def startRetrain (c : Chip) (p : Nat) : Chip :=
  let w := (c.port p).width
  let c1 := c.onPort p fun q => { q with retrain := true, nakRun := 0 }
  c1.emitLink p ltTrain (c1.port p).rxSeq.toNat 0 0 (c1.beat p w 0)

/-- Unacknowledged frames are sent again, in order (R287). -/
def replay (c : Chip) (p : Nat) : Chip :=
  let q := c.port p
  let again := q.retry.map fun f =>
    ({ f with link := mkLink ltData (fld f.link 19 4) q.rxSeq.toNat 0 0 }).seal (bit f.trailer 32)
  let c1 := c.onPort p fun q => { q with retry := again }
  again.foldl (fun c f => c.send (.frame p f.bytes)) c1

/-! ### A port that goes down (R206, R296, R297) -/

/-- Routes of every device that no usable path reaches are lost: TRACKED lines from it are dropped, the watches on its lines end, and its own
watches are withdrawn (R206, R297). -/
def loseRoutes (c : Chip) : Chip :=
  let far (l : PLine) : Bool := l.space.toNat == 1 && (l.state == .tracked || l.state == .trackedInvalid) && c.unreachable (l.addr >>> 48)
  let c1 : Chip := { c with engines := c.engines.map fun (x : Engine) =>
    { x.mapCache (fun l => if far l then none else some l) with watched := x.watched.filter fun a => !c.unreachable (a >>> 48) } }
  let c2 := c1.onFab fun f => { f with
    watches := f.watches.filter fun w => !c.unreachable w.device,
    -- what a PREFETCH or a refetch has read there is watched no more
    reqs := f.reqs.map fun r => if (fld r.thdr 7 0 == opRead || fld r.thdr 7 0 == opWatch) && c.unreachable (fld r.thdr 31 16) then { r with stale := true } else r }
  -- invalidations that a lost watcher will never accept
  let gone := c2.fab.reqs.filter fun (r : FabReq) => r.engine == fabUnit && r.answer.isNone && c2.unreachable (fld r.thdr 31 16)
  let c3 := (gone.foldl (fun (c : Chip) r => c.answerReq r .addrRefused []) c2).loseCalls
  -- slow-tier updates whose state is out of reach (R264)
  (List.range 64).foldl (fun c e =>
    match c.ctxOf e with
    | none => c
    | some x =>
      let t := ctxTds x
      if c.slowTier (slugOp x.entry.slug) t && ([t.master, t.st0, t.st1].any fun o => o.any fun td => c.remoteTd td && c.unreachable (td.base >>> 48))
      then (c.failSlow e).settleSlow e x.entry t else c) c3

/-- A frame of another source that cannot go on is discarded, and leaves its receive buffer; a request is answered ROUTE_FAIL (R287, R292). -/
def dropForwarded (c : Chip) (via : Option Nat) (h : THdr) (payload : List Byte) : Chip :=
  let c1 := if h.opcode < 0x10 then c.respond h .routeFail 0 [] else c
  c1.returnCredits via h.enc payload

/-- A waiting frame chooses its way again; with no usable path a request is refused, at its source or by a RESPONSE (R292, R297).
DEDUCED, log entry 40. -/
def reroute (c : Chip) (o : OutFrame) : Chip :=
  match o.frame.thdr with
  | none => c
  | some w =>
    let h := THdr.dec w
    let dest := if h.role then fld (Tab.get 0 c.fab.roles h.dst) 15 0 else h.dst
    let own := h.src == c.fab.deviceId && c.fab.idValid
    let mine (r : FabReq) : Bool := own && decide (h.opcode < 0x10) && r.txn == h.txn && !r.queued && r.answer.isNone
    match c.choosePath dest h.vc with
    | some (p, dl) =>
      (c.onFab fun f => { f with reqs := f.reqs.map fun r => if mine r then { r with port := some p } else r }).queueFrame p { o with dl }
    | none =>
      if own then (match c.fab.reqs.find? mine with
        | some r => c.answerReq r .addrRefused []
        | none => c)
      else c.dropForwarded o.via h o.frame.payload

/-- The frames that came by a port which goes down hold its receive buffer no more: they go on, and return no credits. -/
def forgetBuffer (c : Chip) (p : Nat) : Chip :=
  let out (o : OutFrame) : OutFrame := if o.via = some p then { o with via := none } else o
  let del (d : Delivered) : Delivered := if d.port = some p then { d with port := none } else d
  c.onFab fun f => { f with ports := f.ports.map (fun q => { q with outq := q.outq.map out }), inbox := f.inbox.map del }

/-- A port that was up or training goes down: its paths are masked, its retry buffer discarded with LINK_LOST for the requests whose
frames had left, its waiting frames choose again, and the routes that are lost are lost (R297). -/
def portGoesDown (c : Chip) (p : Nat) : Chip :=
  let q := c.port p
  if q.state = .down ∨ q.state = .ethernet then c
  else
    let wasUp := q.state == .up
    let waiting := q.outq
    let c1 := (c.forgetBuffer p).onPort p fun q => { q with
      state := .down, retrain := false, trained := false, hbSeen := 0, masked := true, retry := [], outq := [],
      wentDown := q.wentDown || wasUp }
    if !wasUp then c1
    else
      let c2 := c1.portEvent p evPortDown .note
      let held (r : FabReq) : Bool := waiting.any fun o => match o.frame.thdr with
        | some w => (w == r.thdr) || (fld w 143 128 == r.txn && fld w 47 32 == c.fab.deviceId && decide (fld w 7 0 < 0x10))
        | none => false
      let lost := c2.fab.reqs.filter fun r => r.port == some p && r.answer.isNone && !r.queued && !r.delayed && !held r
      let c3 := lost.foldl (fun c r => c.answerReq r .linkLost []) c2
      (waiting.foldl (fun c o => c.reroute o) c3).loseRoutes

/-- PORT_DOWN: no HEARTBEAT for 15 ms, or another cause that R296 names. DEDUCED, log entry 37. -/
def portDown (c : Chip) (p : Nat) : Chip := c.portGoesDown p

/-- PORT_RETRAIN: a port that does not count as up and is not disabled begins to train, again if it was training already (R296). -/
def portRetrain (c : Chip) (p : Nat) : Chip :=
  let q := c.port p
  let w := soundWidth q.badLanes
  if (q.state = .down ∨ q.state = .training) ∧ !q.disable ∧ w ≠ 0 then
    let c1 := c.onPort p fun q => { q with
      state := .training, width := w, trained := false, hbSeen := 0, txSeq := 0, rxSeq := 0, nakRun := 0, credits := [1024, 1024, 768, 768, 512] }
    c1.emitLink p ltTrain 0 0 0 (c1.beat p w 0)
  else c

/-- FAB_PORT_CTL.DISABLE (R296, R299). -/
def setDisable (c : Chip) (p : Nat) (on : Bool) : Chip :=
  let c1 := c.onPort p fun q => { q with disable := on }
  if on then c1.portGoesDown p else c1

/-- A retrain at a width; a narrowing is recorded at CORRECTED (R282). -/
def retrainAt (c : Chip) (p w : Nat) : Chip :=
  let q := c.port p
  if w = 0 then c.portGoesDown p
  else
    let c1 := if w < q.width then c.portEvent p evLinkNarrowed .corrected else c
    let c2 := c1.onPort p fun q => { q with width := w }
    if q.state = .up then c2.startRetrain p
    else if q.state = .training then (c2.onPort p fun q => { q with trained := false }).emitLink p ltTrain 0 0 0 (c2.beat p w 0)
    else c2

/-- A retrain at the width that the lanes now allow: a link that the far end has narrowed stays so (R282). -/
def retrainLink (c : Chip) (p : Nat) : Chip := c.retrainAt p (min (soundWidth (c.port p).badLanes) (c.port p).width)

/-- FAB_PORT_CTL.RETRAIN_FULL: the link retrains at four lanes (R282, R299). -/
def retrainFull (c : Chip) (p : Nat) : Chip := (c.onPort p fun q => { q with badLanes := [] }).retrainAt p 4

/-- LANE_DROPOUT (R282). -/
def laneDropout (c : Chip) (p lane : Nat) : Chip :=
  if (c.port p).state = .ethernet then c
  else
    let c1 := c.onPort p fun q => { q with badLanes := if q.badLanes.contains lane then q.badLanes else q.badLanes ++ [lane] }
    if (c.port p).state = .down then c1 else c1.retrainLink p

/-! ### Link-level frames -/

/-- A link-level frame's check: its type, its CRC and STOMP (R283, R286). -/
def linkOk (ltype : Nat) (link : BitVec 64) (payload : List Byte) (trailer : BitVec 64) : Bool :=
  fld link 3 0 == ltype && FabFrame.good { link, payload, trailer }

/-- CONTROL_FRAME. -/
def controlFrame (c : Chip) (p : Nat) (link trailer : BitVec 64) : Chip :=
  if c.portAlive p && linkOk ltControl link [] trailer then c.takeAck p link else c

/-- NAK: the transmitter replays from the frame that the receiver expects; the eighth replay without acknowledgement retrains the
link (R287). -/
def nakFrame (c : Chip) (p : Nat) (link trailer : BitVec 64) : Chip :=
  if !(c.portAlive p && linkOk ltNak link [] trailer) then c
  else
    let c1 := c.takeAck p link
    if (c1.port p).retry.isEmpty then c1
    else
      let c2 := (c1.onPort p fun q => { q with nakRun := q.nakRun + 1, replays := q.replays + 1 }).onFab fun f =>
        { f with replay := modifyAt (bump48 · 1) f.replay (portForme p) }
      let c3 := c2.replay p
      if 8 ≤ (c3.port p).nakRun then c3.retrainLink p else c3

/-- TRAIN: both ends agree on the narrower width; training completes, and frames held during a retrain go on (R282, R296).
DEDUCED, log entry 38. -/
def trainFrame (c : Chip) (p : Nat) (link : BitVec 64) (payload : BitVec 256) (trailer : BitVec 64) : Chip :=
  let q := c.port p
  if q.disable || q.state == .ethernet || !linkOk ltTrain link (toBytes 32 payload.toNat) trailer then c
  else
    let c0 := if q.state = .down then c.portRetrain p else c
    let w := min (soundWidth (c0.port p).badLanes) (lanesOfCode (fld payload 37 36))
    if (c0.port p).state = .down ∨ w = 0 then c0
    else
      -- in a retrain the link keeps its order, and ACK covers what has arrived (R283); a link that trains anew has none yet
      let c0 := if (c0.port p).state = .up then c0.takeAck p link else c0
      let c1 := if w < (c0.port p).width then c0.portEvent p evLinkNarrowed .corrected else c0
      if (c1.port p).state = .up then
        let c2 := if (c1.port p).retrain then c1 else c1.emitLink p ltTrain (c1.port p).rxSeq.toNat 0 0 (c1.beat p w 0)
        ((c2.onPort p fun q => { q with width := w, retrain := false }).replay p).drainOut p
      else
        -- a port whose own TRAIN may have been lost answers, so that both ends complete
        let c2 := if q.state == .training && !q.trained then c1.emitLink p ltTrain 0 0 0 (c1.beat p w 0) else c1
        c2.onPort p fun q => { q with width := w, trained := true }

/-- HEARTBEAT: its ACK and credits count, the peer is recorded, the second matching one brings a trained port up, and another domain takes the port down
(R283, R289, R295, R296, R299). -/
def heartbeatFrame (c : Chip) (p : Nat) (link : BitVec 64) (payload : BitVec 256) (trailer : BitVec 64) : Chip :=
  if !(c.portAlive p && linkOk ltHeartbeat link (toBytes 32 payload.toNat) trailer) then c
  else
    let c0 := (c.takeAck p link).onPort p fun q => { q with peerId := fld payload 15 0, peerPort := fld payload 35 32 }
    if fld payload 31 16 ≠ c.fab.domainId then
      ((c0.onPort p fun q => { q with domainErr := true }).portEvent p evDomainMismatch .note).portGoesDown p
    else
    let c1 := c0.onPort p fun q => { q with hbSeen := q.hbSeen + 1 }
    if (c1.port p).state = .training ∧ 2 ≤ (c1.port p).hbSeen then
      (c1.onPort p fun q => { q with state := .up, masked := false }).drainOut p
    else c1

/-- The HEARTBEAT of one port (R295). -/
def sendBeat (c : Chip) (p : Nat) : Chip :=
  if c.portAlive p then
    let q := c.port p
    (c.onPort p fun q => { q with hbSeq := q.hbSeq + 1 }).emitLink p ltHeartbeat q.rxSeq.toNat 0 0 (c.beat p q.width q.hbSeq)
  else c

/-- HEARTBEAT_SEND: every ADEANE port (R295). -/
def heartbeatSend (c : Chip) : Chip := (List.range 16).foldl (fun c p => c.sendBeat p) c

/-! ### DATA frames (R287, R288, R292) -/

/-- Where a DATA frame that has arrived goes: to this device, on toward a device, or nowhere. A role frame passes through a device
that neither holds the role nor knows a newer epoch of it (DESIGN CHOICE, log entry 20). -/
def frameTo (c : Chip) (h : THdr) : Option Nat :=
  if h.linkLocal then none
  else if h.role then
    let ent := Tab.get 0 c.fab.roles h.dst
    if bit ent 32 && !bit ent 33 && !c.isSelf (fld ent 15 0) && !newerEpoch (fld ent 31 16) h.epoch then some (fld ent 15 0) else none
  else if c.isSelf h.dst then none else some h.dst

/-- A frame for another device goes on: HOPS is counted down, and without a usable path or hops a request is answered ROUTE_FAIL
(R284, R292). It holds the receive buffer of port `via` until it leaves (R287). -/
def forward (c : Chip) (via : Nat) (h : THdr) (dest : Nat) (payload : List Byte) : Chip :=
  match (if h.hops = 0 then none else c.choosePath dest h.vc) with
  | none => c.dropForwarded (some via) h payload
  | some (p, dl) =>
    (c.onFab fun f => { f with fwdFrames := modifyAt (bump48 · 1) f.fwdFrames (portForme p) }).queueFrame p
      { frame := { link := 0, thdr := some { h with hops := h.hops - 1 }.enc, payload }, dl, via := some via }

/-- A device without an id accepts only LINK_LOCAL management messages among DATA frames (R289). -/
def acceptsFrame (c : Chip) (h : THdr) : Bool := c.fab.idValid || (h.linkLocal && h.opcode == opMgmt)

/-- A frame for another device whose trailer fails after it has begun to leave: the outgoing copy carries STOMP (R288).
DEDUCED, log entry 39. -/
def forwardStomped (c : Chip) (h : THdr) (payload : List Byte) : Chip :=
  match c.frameTo h with
  | none => c
  | some dest =>
    match (if h.hops = 0 then none else c.choosePath dest h.vc) with
    | none => c
    | some (p, dl) =>
      let f := leavingFrame { frame := { link := 0, thdr := some { h with hops := h.hops - 1 }.enc, payload }, dl }
      if c.canEmit p f ∧ (c.port p).outq.isEmpty then
        (c.onFab fun b => { b with stomp := modifyAt (bump48 · 1) b.stomp (portForme p) }).emitFrame p f true
      else c

/-- Send a NAK with the LSEQ that the port expects (R287). -/
def sendNak (c : Chip) (p : Nat) : Chip := c.emitLink p ltNak (c.port p).rxSeq.toNat 0 0 []

/-- DATA_FRAME: a frame with a valid CRC in LSEQ order is accepted, acknowledged, and delivered or forwarded; a CRC failure or a gap is
answered with NAK; a stomped frame takes its place in the order and is discarded (R286 to R288, R292). DEDUCED, log entry 39. -/
def dataFrame (c : Chip) (p : Nat) (link : BitVec 64) (thdr : BitVec 256) (payload : List Byte) (trailer : BitVec 64) : Chip :=
  let f : FabFrame := { link, thdr := some thdr, payload, trailer }
  let q := c.port p
  let seq := fld link 19 4
  if !c.portAlive p || fld link 3 0 != ltData then c
  else if fld trailer 31 0 ≠ crc32c f.body then
    (if seq = q.rxSeq.toNat ∧ c.acceptsFrame (THdr.dec thdr) then c.forwardStomped (THdr.dec thdr) payload else c).sendNak p
  else if seq ≠ q.rxSeq.toNat then
    if seqBefore seq q.rxSeq.toNat then c else c.sendNak p
  else
    let c1 := c.onPort p fun q => { q with
      rxSeq := q.rxSeq + 1, rxFrames := q.rxFrames + 1, rxBytes := q.rxBytes + BitVec.ofNat 48 f.bytes.length }
    let c2 := c1.takeAck p link
    if bit trailer 32 then c2.returnCredits (some p) thdr payload
    else
      let h := THdr.dec thdr
      if !c2.acceptsFrame h then c2.returnCredits (some p) thdr payload
      else match c2.frameTo h with
        | some dest => c2.forward p h dest payload
        | none =>
          if h.opcode = opMgmt then (c2.deliver (some p) thdr payload).returnCredits (some p) thdr payload
          else (c2.deliver (some p) thdr payload).emitLink p ltControl (c2.port p).rxSeq.toNat 0 0 []

end Chip

end Sys2Proof.Machine
end

