-- ==== Sys2Proof/Machine/HostPort.lean ====
section
/-!
DEFINITION. The host port (R323 to R350): the CXL link, snoops and responses, HOST slugs, doorbells, sessions, host reset and host loss.
-/
namespace Sys2Proof.Machine

/-- SOURCE of the CXL port and line cache (R483). -/
def srcHost : Nat := 78

namespace Chip

/-! ### The link (R326, R345, R524) -/

/-- The rate and width to which a link trains with a far end's highest: 64 or 32 GT/s and ×8 or ×4 are the fallbacks (R323). -/
def linkRate (r : Nat) : Nat := if 128 ≤ r then 128 else if 64 ≤ r then 64 else if 32 ≤ r then 32 else r
def linkWidth (w : Nat) : Nat := if 16 ≤ w then 16 else if 8 ≤ w then 8 else if 4 ≤ w then 4 else w

/-- The link is in L0: CXL.cache is used at 32 GT/s or more where CXL was selected, and a change of rate or width after training is recorded
(R326). -/
def noteLink (c : Chip) (rate width : Nat) : Chip :=
  let changed := c.host.rate ≠ 0 ∧ (c.host.rate ≠ rate ∨ c.host.width ≠ width)
  let c1 := c.onHost fun h => { h with l0 := true, rate, width, cxlCache := h.cxl && h.cfg.cacheCapable && decide (32 ≤ rate) }
  if changed then c1.raise evCxlLinkChanged .corrected srcHost .device [] else c1

/-- The link leaves L0: HOST accesses wait. -/
def linkLeaves (c : Chip) : Chip := c.onHost fun h => { h with l0 := false }

/-- REFCLK_CXL_PRESENT: CD-CXL starts, and link training may begin. -/
def refclkPresent (c : Chip) : Chip :=
  let runs : Bool := !c.waitCold && c.standby
  let c1 := c.onHost fun h => { h with refclk := true, training := h.training || runs }
  if runs then { c1 with rst := { c1.rst with locked := c1.rst.locked ||| ((1 : BitVec 25) <<< 21) } } else c1

/-! ### Lines and snoops (R328 to R330) -/

/-- The answer to a snoop: a MODIFIED line's data, which the host then holds. -/
def answerSnoop (c : Chip) (line : Nat) : Chip :=
  let c1 := c.onHost fun h => { h with snoops := bump48 h.snoops 1 }
  match Tab.find? line c.host.lines with
  | some l => if l.state = .modified then (c1.hostPut line l).send (.snoopData line l.data) else c1.send (.snoopMiss line)
  | none => c1.send (.snoopMiss line)

/-- A snoop takes a line away: what the control plane has been answered for it and has not used is void. -/
def disown (c : Chip) (line : Nat) : Chip :=
  c.onHost fun h => { h with reqs := h.reqs.filter fun r => !(r.engine == ctlUnit && r.line == line && r.answer.isSome) }

/-- SNP_CUR: the state is unchanged. -/
def snpCur (c : Chip) (line : Nat) : Chip := if c.host.l0 then c.answerSnoop line else c

/-- SNP_DATA: the line is left SHARED; a downgrade invalidates TRACKED copies. -/
def snpData (c : Chip) (line : Nat) : Chip :=
  if !c.host.l0 then c
  else
    let c1 := (c.answerSnoop line).disown line
    match Tab.find? line c.host.lines with
    | some l => if l.state = .shared then c1
      else (c1.onHost fun h => { h with lines := Tab.set line { l with state := .shared } h.lines }).killHostCopies line
    | none => c1


/-- Host memory takes a host store: the bytes that `mask` selects of a line. -/
def hostWrites (c : Chip) (line : Nat) (mask : BitVec 64) (d : BitVec 512) : Chip :=
  let old := c.hostMemLine line
  let bits : BitVec 512 := BitVec.ofNat 512 (ofBytes ((List.range 64).map fun i => if mask.getLsbD i then (0xFF : Byte) else 0))
  (c.hostMemSet line ((old &&& ~~~bits) ||| (d &&& bits))).onHost fun h => { h with poison := if mask = BitVec.allOnes 64 then h.poison.erase line else h.poison }

/-! ### Doorbells (R335, R336, R338) -/

/-- An engine reads line 0 of its control block as the line cache has just re-read it, and acts on it. -/
def readLine0 (c : Chip) (e : Nat) (d : BitVec 512) : Chip :=
  match (c.engine e).ring with
  | none => c
  | some r =>
    let tail := BitVec.ofNat 32 (fld d 31 0)
    let consumed := BitVec.ofNat 32 (fld d 63 32)
    let resume := BitVec.ofNat 16 (fld d 79 64)
    let c1 := c.onRing e fun r => { r with sqTail := tail, cqConsumed := consumed, resume }
    let c2 :=
      if resume ≠ r.resumeSeen && !(c.engine e).retired then
        if (c.engine e).halted || r.halted then
          ((c1.onEngine e fun x => { x with halted := false }).onRing e fun r => { r with resumeSeen := resume, halted := false, haltStatus := 0 }).writeLine1 e
        else (c1.onRing e fun r => { r with resumeSeen := resume }).writeLine1 e
      else c1
    c2.pumpE e

/-- The line cache reads a line and pins it (R328, R336): a line that it holds is a hit, written back first where it is MODIFIED; any other is
read anew with RdShared. None while it cannot issue the request. -/
def repin (c : Chip) (line : Nat) : Option (Except Status (BitVec 512) × Chip) :=
  if !c.hostAvail then none
  else
    let pin (c : Chip) (d : BitVec 512) : Chip := c.onHost fun h => { h with
      lines := Tab.set line { state := .shared, data := d, pinned := true, recency := h.recency + 1 } h.lines, recency := h.recency + 1,
      unpins := h.unpins.erase line }
    match Tab.find? line c.host.lines with
    | some l =>
      let c1 := ((c.noteHlc [line]).hostFlush (· == line)).hostTouch [line]
      if l.ue then some (.error .hostPoison, c1) else some (.ok l.data, pin c1 l.data)
    | none =>
      let c1 := (c.hostMiss 1).hostAsk .rdShared line
      if c.host.poison.contains line then some (.error .hostPoison, c1) else some (.ok (c.hostMemLine line), pin c1 (c.hostMemLine line))

/-- Engines whose line 0 is a line. -/
def ringsAt (c : Chip) (line : Nat) : List Nat :=
  (List.range 64).filter fun e => match (c.engine e).ring with
    | some r => r.ctlBase / 64 == line
    | none => false

/-- The doorbell of a line: it is re-read and re-pinned, and its engines act on it. A poisoned line halts their rings. -/
def ringDoorbell (c : Chip) (line : Nat) : Chip :=
  let es := c.ringsAt line
  if es.isEmpty then c
  else match c.repin line with
    | none => c
    | some (.ok d, c1) => es.foldl (fun c e => c.readLine0 e d) c1
    | some (.error st, c1) => es.foldl (fun c e => c.haltRing e st.code) c1

/-- Pinned lines of engine rings that could not be re-read. -/
def staleRings (c : Chip) : List Nat :=
  ((List.range 64).filterMap fun e => match (c.engine e).ring with
    | some r => if (Tab.find? (r.ctlBase / 64) c.host.lines).isNone then some (r.ctlBase / 64) else none
    | none => none).eraseDups

/-- Line 1 of each ring where a write of it waits (R335). -/
def line1Goes (c : Chip) : Chip :=
  (List.range 64).foldl (fun (c : Chip) e => if (c.engine e).ring.any (·.due) then c.writeLine1 e else c) c

/-- Requests that were held back go out: lines pinned no more, line 1 of each ring where it is due, a pinned line that could not be re-read, and
the reads of the slugs that follow in the rings (R327, R345). -/
def hostResume (c : Chip) : Chip :=
  if !c.hostAvail then c
  else
    let c1 := c.host.unpins.foldl (fun c l => c.unpin l) (c.onHost fun h => { h with unpins := [] })
    let c2 := c1.line1Goes
    let c3 := c2.staleRings.foldl (fun c l => c.ringDoorbell l) c2
    (List.range 64).foldl (fun c e => if (c.engine e).ring.isSome then c.pumpE e else c) c3

/-- CXL_LINK_TRAINED: the highest common rate and width, with CXL.cache when CXL was selected at 32 GT/s or more. -/
def linkTrained (c : Chip) (rate width : Nat) (cxl : Bool) : Chip :=
  if !c.host.training then c
  else (((c.onHost fun h => { h with cxl }).noteLink (linkRate rate) (linkWidth width))).hostResume

/-- The link returns through recovery, at the width and rate it now has; nothing is lost, and what waited goes out. It cannot while CD-CXL
stands still (R524, R527). -/
def linkReturns (c : Chip) (rate width : Nat) : Chip :=
  if c.host.rate = 0 || !c.host.training then c else (c.noteLink (linkRate rate) (linkWidth width)).hostResume

/-- SNP_INV: data is returned, the line and its TRACKED copies are invalidated, and the host's store follows. -/
def snpInv (c : Chip) (line : Nat) (write : Option (BitVec 64 × BitVec 512)) : Chip :=
  if !c.host.l0 then c
  else
    let c1 := (c.answerSnoop line).disown line
    let c2 := match Tab.find? line c.host.lines with
      | some _ => (c1.onHost fun h => { h with lines := Tab.erase line h.lines }).killHostCopies line
      | none => c1
    match write with
    | none => c2
    | some (m, d) => c2.hostWrites line m d

/-! ### Responses (R329) -/

/-- A line can be installed: a full set needs an eviction request, which the device issues only while it may (R327). -/
def mayInstall (c : Chip) (line : Nat) : Bool :=
  c.hostAvail || (Tab.find? line c.host.lines).isSome ||
  decide ((c.host.lines.filter fun (k, l) => k % 8192 == line % 8192 && !l.pinned).length < 16)

/-- CXL_CACHE_RESPONSE: every waiting request for a line is answered; a good answer installs the line. A line that the device has made
MODIFIED in the meantime keeps its data, which the requests are answered with. Slots are free for requests that wait (R209). A response comes
whatever Bus Master Enable is by then (R327). -/
def cacheResponse (c : Chip) (line : Nat) (d : BitVec 512) (excl poison : Bool) : Chip :=
  let waiting := c.host.reqs.filter fun r => r.line == line && r.answer.isNone
  if !c.host.l0 || waiting.isEmpty then c
  else match (Tab.find? line c.host.lines).filter fun l => l.state == .modified with
  | some l => (c.onHost fun h => { h with reqs := h.reqs.map fun r => if r.line = line ∧ r.answer.isNone then { r with answer := some (l.data, l.ue) } else r }).releaseReqs
  | none =>
    let own := waiting.any fun r => r.kind != .rdShared
    let c1 := c.onHost fun h => { h with reqs := h.reqs.map fun r => if r.line = line ∧ r.answer.isNone then { r with answer := some (d, poison) } else r }
    let c1 := c1.releaseReqs
    if poison then c1
    else if !c1.mayInstall line then c1.hostMemSet line d
    else (c1.hostMemSet line d).hostInstall line (if own || excl then .exclusive else .shared) d


/-! ### HOST slugs (R334) -/

/-- The checks of a HOST slug. -/
def checkHost (ent : QEntry) : Except Status (Option TD) := do
  let s := ent.slug
  failIf (!rsvdZero s [(78, 434)] || decide (2 < slugOp s)) .reservedEncoding
  if slugOp s = 1 then
    failIf (fld s 77 68 != nullTd) .placeIllegal
    return none
  else
    let t ← ent.tdReq (fld s 77 68)
    failIf (t.space != .host) .placeIllegal
    return some t

/-- Host lines that hold a byte of a TD. -/
def hostLinesOf (t : TD) : List Nat := sortAddrs ((t.addrs.flatMap fun a => [a, a + t.elemBytes - 1]).map (· / 64))

/-- A HOST slug's action: write-backs, or the drop of clean lines and their platen copies. Pins are never lost (R328). -/
def hostAction (c : Chip) (s : SlugWord) (t : Option TD) : Chip :=
  match slugOp s, t with
  | 1, _ => c.hostFlush fun _ => true
  | 0, some t => let ls := hostLinesOf t
    c.hostFlush ls.contains
  | _, some t =>
    let ls := hostLinesOf t
    let c1 := c.hostFlush ls.contains
    let held := c1.host.lines.filter fun p => ls.contains p.1
    held.foldl (fun c (p : Nat × HLine) =>
      (if p.2.pinned then c else (c.hostLeave p.1 p.2).onHost fun h => { h with lines := Tab.erase p.1 h.lines }).killHostCopies p.1) c1
  | _, none => c

/-- A platen copy of a host line that is dropped, whatever its state. -/
def dropHostCopies (c : Chip) (ls : List Nat) : Chip :=
  { c with engines := c.engines.map fun (x : Engine) => x.mapCache fun l =>
      if l.space.toNat == 2 && (ls.contains (l.addr / 64) || ls.contains (l.addr / 64 + 1)) then none else some l }

/-- A HOST slug runs once CXL.cache requests can be issued. DEDUCED, log entry 55. -/
def hostRun (c : Chip) (e : Nat) (ent : QEntry) (t : Option TD) : Chip :=
  if t.any fun t => (hostLinesOf t).any fun l => p2 46 ≤ l then c.endSlug e .host ent .addrUnmapped 0
  else if c.formeDown.contains 0 && e / 16 != 0 then c.endSlug e .host ent .pathReset 0
  else if !c.hostAvail then c.updEntry e .host ent
  else
    let c1 := c.hostAction ent.slug t
    let c2 := match slugOp ent.slug, t with
      | 2, some t => c1.dropHostCopies (hostLinesOf t)
      | _, _ => c1
    c2.endSlug e .host ent .success 0

def hostSlug (c : Chip) (e : Nat) (ent : QEntry) : Chip :=
  match checkHost ent with
  | .error st => c.begin e .host ent (.error st) id
  | .ok t => c.begin e .host ent (.ok ()) fun c => c.hostRun e ent t

/-! ### The end of a session (R343, R344, R347) -/

/-- An engine's slugs that touch host memory end with HOST_LOST: those waiting in the queues, the one that the control core holds, and its CALLs.
A galley consumer drains its producer's entries first (R141). -/
def loseHostSlugs (c : Chip) (e : Nat) : Chip :=
  let c1 := QId.all.foldl (fun c q =>
    ((c.engine e).queue q).foldl (fun c ent =>
      if !touchesHost ent then c
      else if isConsumer ent.slug then
        (if ent.prog.drain.isSome then c else c.updEntry e q { ent with began := true, prog := { ent.prog with phase := 1, drain := some .hostLost } })
      else match q with
        | .update => c.endUpdate e ent .hostLost 0
        | _ => c.endSlug e q ent .hostLost ent.prog.done0) c) c
  let c2 := match (c1.engine e).core with
    | some ent => if touchesHost ent then c1.endCore e ent .hostLost else c1
    | none => c1
  -- a CALL that touches host memory ends with it, and the rest of its expansion is flushed (R185, R344)
  let lost := (c2.engine e).calls.filter fun k => touchesHost k.entry && !(k.faults.any fun p => p.1 == e)
  lost.foldl (fun c k =>
    let c := c.onEngine e fun x => { x with calls := x.calls.map fun q => if q.id = k.id then { q with faults := q.faults ++ [(e, .hostLost)] } else q }
    settleCalls 65 e (c.flushCall e k.id)) c2

/-- Slugs read from a ring and not admitted leave the stream: a ring stops being read with SQ_HEAD at the first of them. -/
def unreadRings (c : Chip) : Chip :=
  { c with engines := c.engines.map fun (x : Engine) => { x with stream := x.stream.filter fun it => !it.counts } }

/-- Slugs of the session that touch host memory and have not completed (R343, step 2). -/
def hostBusy (c : Chip) : Bool :=
  c.engines.any fun x => x.entries.any touchesHost || x.finishing.any (fun f => touchesHost f.entry) || x.core.any touchesHost ||
    x.calls.any fun k => touchesHost k.entry

/-- The rings are gone, with the slugs read from them that are not admitted. -/
def dropRings (c : Chip) : Chip :=
  let c1 := c.unreadRings
  { c1 with engines := c1.engines.map fun (x : Engine) => { x with ring := none } }

/-- The jobs of HOST rings that have not begun are discarded with the session; those begun finish, without a record (R347, R380). -/
def jobHostLoss (c : Chip) : Chip :=
  { c with ds := { c.ds with
    rings := c.ds.rings.map fun (q : JobRing) => if q.space = 2 then { q with sqTail := 0, sqHead := 0, cqConsumed := 0, cqWritten := 0, session := 0 } else q } }

/-- The unit number that stands for the overseer among the waiters of fabric requests. -/
def ovsUnit : Nat := 253

/-- Requests of an update or a clear that nobody waits for any more are forgotten. -/
def dropFetch (c : Chip) (who : Nat) : Chip :=
  c.onFab fun f => { f with reqs := (f.reqs.filter fun r => !(r.engine == ovsUnit && r.entry == who && (r.answer.isSome || r.queued))).map fun r =>
    if r.engine = ovsUnit ∧ r.entry = who then { r with orphan := true } else r }

def onClr (c : Chip) (g : Clearing → Clearing) : Chip := { c with ovs := { c.ovs with clr := g c.ovs.clr } }

/-- A clear ends, and a new nonce is drawn. -/
def clrEnd (c : Chip) (result : Nat) : Chip :=
  let (n, c1) := c.fresh
  (c1.dropFetch 1).onClr fun k => { k with
    asked := false, stage := .idle, done := true, result, deferred := false, logged := false, token := [], nonce := BitVec.ofNat 256 (Config.freeBits n 0) }

/-- A copy that a host loss or a device reset interrupts ends with READ_FAILED, and so does a clear whose token is being read from HOST (R470, R493). -/
def failCopies (c : Chip) : Chip :=
  let u := c.ovs.upd
  let u1 : Update := if u.stage = .copying then { u with stage := .idle, done := true, result := 1, deferred := false, buf := [] } else u
  let c1 : Chip := { c with ovs := { c.ovs with upd := u1 } }
  if c1.ovs.clr.stage = .checking ∧ c1.ovs.clr.space = 0 then c1.clrEnd 1 else c1

/-- HOST_LOST: the steps of a host loss (R347). -/
def hostLoss (c : Chip) : Chip :=
  let writes := (c.host.reqs.filter fun r => r.kind != .rdShared && r.answer.isNone).length
  let dirty := (c.host.lines.filter fun p => p.2.state == .modified).length
  let was := c.host.inForce
  let c1 := c.onHost fun h => { h with
    inForce := false, wrDropped := bump48 h.wrDropped writes, linesDiscarded := bump48 h.linesDiscarded dirty, lines := [], reqs := [],
    unpins := [], closing := false }
  let c2 : Chip := { c1 with engines := c1.engines.map fun (x : Engine) => x.mapCache fun l => if l.space.toNat = 2 then none else some l }
  let c3 := ((List.range 64).foldl (fun c e => c.loseHostSlugs e) c2).dropRings
  let c4 := c3.jobHostLoss.failCopies.onHost fun h => { h with
    state := .detached, busy := false, lost := h.lost || was,
    result := if h.state = .attaching then 4 else h.result }
  if was then
    c4.raise evHostLost .deferred srcHost .device
      [BitVec.ofNat 64 c4.host.session, BitVec.ofNat 64 c4.host.wrDropped.toNat, BitVec.ofNat 64 c4.host.linesDiscarded.toNat,
       BitVec.ofNat 64 c4.host.recordsDiscarded.toNat]
  else c4

/-- The HOST_LOST row: a loss that has been declared; nothing without a session. -/
def declareLoss (c : Chip) : Chip := if c.host.inForce then c.hostLoss else c

/-- The overseer reads host memory: the image of an update, or the token of a clear (R470, R493). -/
def ovsReads (c : Chip) : Bool :=
  (c.ovs.upd.stage == .copying && c.ovs.upd.space == 0) || (c.ovs.clr.stage == .checking && c.ovs.clr.space == 0)

/-- A HOST request that cannot be issued waits: one of a slug, of the attach or of the overseer, the read of a ring's next slug or of its line 0, the write of
its line 1 or of a record, or one of a HOST job ring (R327, R346). -/
def hostHeld (c : Chip) : Bool :=
  let ringHeld (x : Engine) : Bool := match x.ring with
    | none => false
    | some r => r.due || (Tab.find? (r.ctlBase / 64) c.host.lines).isNone || (r.sqTail != r.sqHead && !r.halted && x.stream.isEmpty) ||
        x.finishing.any fun f => f.needsRecord && f.entry.ring && f.entry.session == c.host.session
  let jobHeld (q : JobRing) : Bool := q.enable && q.space == 2 && q.session == c.host.session &&
    (q.due || (Tab.find? ((q.base - 128) / 64) c.host.lines).isNone || (q.sqTail != q.sqHead && !q.halted))
  !c.hostAvail && (c.hostBusy || c.host.state == .attaching || c.ovsReads || (c.host.inForce && (c.engines.any ringHeld || c.ds.rings.any jobHeld ||
    c.ds.jobs.any fun (_, j) => j.stage == .ended && (c.ds.rings.getD j.ring {}).space == 2 && j.session == c.host.session)))

/-- HOST_LOSS_TIMEOUT: the link has been out of L0, or a HOST request unanswered or held back, for more than 50 ms (R346). -/
def lossTimeout (c : Chip) : Chip :=
  if !c.host.l0 || (c.host.reqs.any fun r => r.answer.isNone) || c.host.state == .attaching || c.hostHeld then
    (if c.host.inForce || c.host.state == .attaching || c.ovsReads then c.hostLoss else c)
  else c

/-! ### Attach and detach (R339 to R343) -/

/-- One engine entry of the attach block. -/
structure AttachEntry where
  engine  : Nat
  sqBase  : Nat
  cqBase  : Nat
  ctlBase : Nat
  sqLog2  : Nat
  cqLog2  : Nat
  irqMode : Nat
  vector  : Nat
  deriving DecidableEq, Repr

def readAttachEntry (e : Nat) (w : BitVec 512) : AttachEntry :=
  { engine := e, sqBase := fld w 63 0, cqBase := fld w 127 64, ctlBase := fld w 191 128, sqLog2 := fld w 196 192, cqLog2 := fld w 201 197,
    irqMode := fld w 203 202, vector := fld w 207 204 }

/-- Ranges of an entry's rings and control block. -/
def attachRanges (a : AttachEntry) : List (Nat × Nat) :=
  [(a.sqBase, a.sqBase + 64 * p2 a.sqLog2), (a.cqBase, a.cqBase + 16 * p2 a.cqLog2), (a.ctlBase, a.ctlBase + 128)]

/-- Alignment, sizes and reserved fields of an entry (R339). -/
def attachBad (w : BitVec 512) : Bool :=
  let a := readAttachEntry 0 w
  a.sqBase % 4096 != 0 || a.cqBase % 4096 != 0 || a.ctlBase % 128 != 0 || decide (a.sqLog2 < 4 ∨ 16 < a.sqLog2 ∨ a.cqLog2 < 4 ∨ 16 < a.cqLog2) ||
  a.irqMode == 3 || fld w 511 208 != 0 || (attachRanges a).any fun p => p2 52 < p.2

/-- Ranges that meet pairwise. -/
def anyOverlap : List (Nat × Nat) → Bool
  | [] => false
  | (a, b) :: rs => rs.any (fun (x, y) => decide (a < y ∧ x < b)) || anyOverlap rs

/-- A 64-byte word from its bytes. -/
def word64 (bs : List Byte) : BitVec 512 := BitVec.ofNat 512 (ofBytes bs)

/-- The engines whose entries an attach reads: those of the mask that are not retired (R339). -/
def attachEngines (c : Chip) (h : BitVec 512) : List Nat := (List.range 64).filter fun e => bit h (64 + e) && !(c.engine e).retired

/-- The engines that an attach gives rings, from the header and the entries read, or BLOCK_INVALID (R339, R342 step 4). -/
def parseAttach (h : BitVec 512) (entries : List (Nat × BitVec 512)) : Option (List AttachEntry) :=
  if fld h 7 0 ≠ 1 ∨ fld h 63 8 ≠ 0 ∨ fld h 511 128 ≠ 0 ∨ entries.any fun (_, w) => attachBad w then none
  else
    let as := entries.map fun (e, w) => readAttachEntry e w
    if anyOverlap (as.flatMap attachRanges) then none else some as

/-- The entries of an attach block that are read, one by one; none where a read fails. -/
def attachEntries (base : Nat) : List Nat → Chip → Option (List (Nat × BitVec 512)) × Chip
  | [], c => (some [], c)
  | e :: es, c => match c.hostRead (base + 64 * (e + 1)) 64 with
    | (some (.ok bs), c1) => match attachEntries base es c1 with
      | (some ws, c2) => (some ((e, word64 bs) :: ws), c2)
      | (none, c2) => (none, c2)
    | (_, c1) => (none, c1)

/-- The epoch after an epoch, skipping 0 (R339). -/
def nextEpoch (n : Nat) : Nat := if (n + 1) % p2 16 = 0 then 1 else (n + 1) % p2 16

/-- Results of R341. -/
def attachFails (c : Chip) (result : Nat) : Chip := c.onHost fun h => { h with state := .detached, busy := false, result }

/-- Step 6 of R342, once every line 1 is written: the engines begin to admit from their new rings. -/
def attachDone (c : Chip) : Chip :=
  if c.engines.any fun x => x.ring.any (·.due) then c
  else
    let c1 := c.onHost fun h => { h with state := .attached, busy := false, result := 0 }
    (List.range 64).foldl (fun (c : Chip) e => if (c.engine e).ring.isSome then c.pumpE e else c) c1

/-- Steps 5 and 6 of R342: an engine that a slug had halted goes on with its new ring. DEDUCED, log entry 56. -/
def startSession (c : Chip) (as : List AttachEntry) : Chip :=
  let epoch := nextEpoch c.host.session
  let c1 := c.onHost fun h => { h with session := epoch, inForce := true }
  let ring (a : AttachEntry) : HostRing :=
    { sqBase := a.sqBase, cqBase := a.cqBase, ctlBase := a.ctlBase, sqLog2 := a.sqLog2, cqLog2 := a.cqLog2, irqMode := a.irqMode,
      irqVector := a.vector, session := epoch }
  let c2 := as.foldl (fun (c : Chip) a => c.onEngine a.engine fun x => { x with ring := some (ring a), halted := false }) c1
  (as.foldl (fun c a => (c.writeLine1 a.engine).ringDoorbell (a.ctlBase / 64)) c2).attachDone

/-- Steps 3 and 4 of R342: the block is read and checked, or the read waits. -/
def attachRead (c : Chip) : Chip :=
  let base := c.host.attachAddr.toNat / 64 * 64
  match c.hostRead base 64 with
  | (none, c) => c
  | (some (.error _), c) => c.attachFails 4
  | (some (.ok bs), c) => match attachEntries base (c.attachEngines (word64 bs)) c with
    | (none, c) => c.attachFails 4
    | (some ws, c) => match parseAttach (word64 bs) ws with
      | none => c.attachFails 3
      | some as => c.startSession as

/-- Step 2 of R342. -/
def beginAttach (c : Chip) (force : Bool) : Chip :=
  if c.host.inForce && !force then c.onHost fun h => { h with result := 2 }
  else
    let c1 := if c.host.inForce then c.hostLoss else c
    let c2 := c1.onHost fun h => { h with state := .attaching, busy := true }
    if c2.host.l0 && !c2.host.cxlCache then c2.attachFails 1 else c2.attachRead

/-- Step 3 of R343 begins: line 1 of each ring is written a last time, at once or when its line is owned. -/
def closeRings (c : Chip) : Chip := (List.range 64).foldl (fun c e => c.writeLine1 e) (c.onHost fun h => { h with closing := true })

/-- The end of step 3 of R343: every MODIFIED line goes to host memory, and the session ends. -/
def finishDetach (c : Chip) : Chip :=
  let c2 := c.hostFlush fun _ => true
  let c3 := ((c2.host.lines.filter (·.2.pinned)).map (·.1)).foldl (fun c k => c.unpin k) c2
  (c3.onHost fun h => { h with inForce := false, closing := false, state := .detached, busy := false, result := 0, reqs := [] }).dropRings.jobHostLoss

/-- A detach goes on: its last writes begin once no slug that touches host memory runs, and it ends when they are performed (R343). -/
def detachStep (c : Chip) : Chip :=
  if !(c.host.state == .detaching && !c.hostBusy && c.hostAvail) then c
  else
    let c1 := if c.host.closing then c.line1Goes else c.closeRings
    if c1.engines.any fun x => x.ring.any (·.due) then c1 else c1.finishDetach

/-- A DETACH begins (R340, R343): the engines stop admitting from their rings, also slugs that have been read. -/
def beginDetach (c : Chip) : Chip :=
  if !c.host.inForce then c.onHost fun h => { h with result := 0 }
  else (c.onHost fun h => { h with state := .detaching, busy := true }).unreadRings.detachStep

/-- DETACH_TIMEOUT: slugs still running complete with HOST_LOST (R343). -/
def detachTimeout (c : Chip) : Chip :=
  if c.host.state = .detaching then (List.range 64).foldl (fun c e => c.loseHostSlugs e) c else c

/-- HCTL_ATTACH: the last OP written waits for the overseer's next loop, and a write while BUSY is ignored (R340). An attach asked for before
STATE reads RUNNING is held in ATTACHING (R468). -/
def writeAttach (c : Chip) (op : Nat) : Chip :=
  if c.host.busy || op % 4 = 0 then c
  else if c.ovs.state ≠ .running ∧ op % 2 = 1 then c.onHost fun h => { h with attachOp := 0, state := .attaching, busy := true }
  else c.onHost fun h => { h with attachOp := op % 4 }

/-- Task 5 of the overseer's loop: the request written since the previous loop, and an attach or detach in progress. -/
def hostTask (c : Chip) : Chip :=
  let op := c.host.attachOp
  let c1 := c.onHost fun h => { h with attachOp := 0 }
  match c1.host.state with
  | .attaching =>
    if c1.host.inForce then c1.line1Goes.attachDone
    else if c1.host.l0 && !c1.host.cxlCache then c1.attachFails 1 else c1.attachRead
  | .detaching => c1.detachStep
  | _ => match op with
    | 1 => c1.beginAttach false
    | 2 => c1.beginDetach
    | 3 => c1.beginAttach true
    | _ => c1

/-! ### Bus Master Enable (R327, R517) -/

/-- Send every pending message that is not masked: Bus Master Enable alone holds messages back (R327). -/
def sendPending (c : Chip) : Chip :=
  (List.range 16).foldl (fun c v => match c.host.msix[v]? with
    | some m => if m.pending then c.msixRaise v else c
    | none => c) c

/-- BUS_MASTER_ENABLE: requests and messages are held back, or released. -/
def busMaster (c : Chip) (on : Bool) : Chip :=
  let c1 := c.onHost fun h => { h with bme := on }
  if on then c1.sendPending.hostResume else c1

/-- What a host reset does to the port (R341, R346): the session ends as a host loss, and the port's state is as after reset. A reset of
the link itself takes it out of L0 until it has trained again. -/
def hostReset (c : Chip) (kind : HostResetKind) : Chip :=
  let c1 := c.hostLoss
  let keepLink := match kind with
    | .flr => true
    | .cxl => true
    | _ => false
  let c2 : Chip := { c1 with
    evr := { c1.evr with irqEn := false },
    fab := { c1.fab with hostPath := { c1.fab.hostPath with rtSel := 0, roleSel := 0, roleSnap := 0 } } }
  c2.onHost fun h => { h with
    bme := false, attachAddr := 0, attachOp := 0, state := .detached, busy := false, result := c.host.result, msix := List.replicate 16 {},
    l0 := keepLink && h.l0, rate := if keepLink then h.rate else 0, width := if keepLink then h.width else 0,
    cxlCache := keepLink && h.cxlCache }

end Chip

/-- A HOST slug of an operation; the WRITEBACK row takes the reserved operations too. -/
def isHost (op : Nat) (s : SlugWord) : Bool := slugClass s == 6 && (slugOp s == op || (op == 0 && decide (2 < slugOp s)))

end Sys2Proof.Machine
end

