-- ==== Sys2Proof/Machine/DataJobs.lean ====
section
/-!
DEFINITION. Job rings and jobs (R354 to R359), and the NVMe over Fabrics initiator (R360 to R364).
-/
namespace Sys2Proof.Machine

def srcData : Nat := 73

/-! ### Fields of a job (R356, R364) -/

def jobOp (w : JobWord) : Nat := fld w 3 0
def jobSeq (w : JobWord) : Nat := fld w 19 4
def jobFlag (w : JobWord) : Bool := bit w 20
def jobCmpl (w : JobWord) : Bool := bit w 21
def jobFlagAddr (w : JobWord) : Nat := fld w 127 64
def jobFlagValue (w : JobWord) : Nat := fld w 191 128
def jobCtrl (w : JobWord) : Nat := fld w 195 192
def jobNsid (w : JobWord) : Nat := fld w 255 224
def jobAddrA (w : JobWord) : Nat := fld w 319 256
def jobChannel (w : JobWord) : Nat := fld w 200 192
def jobChCount (w : JobWord) : Nat := fld w 210 201
def jobTableNvme (w : JobWord) : Bool := bit w 211
def jobTableCtrl (w : JobWord) : Nat := fld w 215 212
def jobJ0 (w : JobWord) : Nat := fld w 367 320
def jobCount (w : JobWord) : Nat := fld w 415 384
def jobEpoch (w : JobWord) : Nat := fld w 439 416
/-- N, whose 48 bits hold 2^48 as 0. DEDUCED, log entry 69. -/
def jobN (w : JobWord) : Nat := if fld w 511 464 = 0 then p2 48 else fld w 511 464
def jobSeed (w : JobWord) : Nat := fld w 575 512

/-- Bits that an operation names, as (low bit, width); the others from bit 192 must be zero. -/
def jobFields (op : Nat) : List (Nat × Nat) :=
  match op with
  | 1 => [(192, 4), (196, 4), (200, 7), (207, 3), (256, 64)]
  | 2 => [(192, 4)]
  | 3 => [(192, 4), (224, 32), (256, 64), (320, 64), (384, 32)]
  | 4 => [(192, 4), (210, 2), (224, 32), (256, 64), (416, 128)]
  | 5 => [(192, 9), (201, 10), (211, 1), (212, 4), (224, 32), (256, 64), (320, 48), (384, 32), (416, 24), (464, 48), (512, 64)]
  | 6 => [(192, 9), (201, 3), (204, 1), (256, 64)]
  | 7 => [(192, 9), (205, 1)]
  | _ => []

/-- Bits of the listed fields as a mask. -/
def fieldMask (fs : List (Nat × Nat)) : Nat := (fs.map fun (lo, n) => (p2 n - 1) <<< lo).foldl (· + ·) 0

/-- The encoding faults of R356, R360 and R364. DEDUCED, log entry 69. -/
def jobReserved (w : JobWord) : Bool :=
  let op := jobOp w
  decide (7 < op) || fld w 63 22 != 0 || (w.toNat >>> 192) != ((w.toNat &&& fieldMask (jobFields op)) >>> 192) ||
  (match op with
   | 1 => fld w 206 200 == 0 || decide (64 < fld w 206 200) || decide (fld w 209 207 < 2)
   | 3 => fld w 415 384 == 0
   | 4 => decide (1 < fld w 211 210) || (fld w 211 210 == 0 && decide (2 < fld w 423 416))
   | 5 => jobChCount w == 0 || decide (512 < jobChCount w) || decide (512 < jobChannel w + jobChCount w)
          || decide (jobN w < jobJ0 w + jobCount w)
   | _ => false)

/-- Bytes of a Get Log Page: NUMD of CDW10 and CDW11, in dwords from 0 (NVMe; PRESUMED, log entry 22). -/
def logBytes (w : JobWord) : Nat := 4 * (fld w 447 432 + fld w 463 448 * p2 16 + 1)

/-- A controller that a job names, and whether it reads from the device's memory at ADDR_A. -/
def jobUses (j : Job) (ctrl : Nat) : Bool :=
  match jobOp j.word with
  | 1 | 2 | 3 | 4 => jobCtrl j.word == ctrl
  | 5 => (jobTableNvme j.word && jobTableCtrl j.word == ctrl) || ((j.load == .space || j.load == .reading) && fld j.entry 131 128 == ctrl)
  | _ => false

/-- A range of LOCAL addresses that exists, within one forme's HBM or one engine's block. -/
def Chip.rangeMapped (c : Chip) (a n : Nat) : Bool :=
  n == 0 || (c.mapped a && c.mapped (a + n - 1) &&
    match placeOf a, placeOf (a + n - 1) with
    | .hbm _, .hbm _ => true
    | .platen e _, .platen f _ => e == f
    | .buffer e _, .buffer f _ => e == f
    | _, _ => false)

namespace Chip

def onDs (c : Chip) (f : DataSvc → DataSvc) : Chip := { c with ds := f c.ds }
def ring (c : Chip) (r : Nat) : JobRing := c.ds.rings.getD r {}
def onJRing (c : Chip) (r : Nat) (f : JobRing → JobRing) : Chip := c.onDs fun d => { d with rings := modifyAt f d.rings r }
def onJob (c : Chip) (s : Nat) (f : Job → Job) : Chip := c.onDs fun d => { d with jobs := d.jobs.map fun (k, j) => (k, if k = s then f j else j) }
def onCtrl (c : Chip) (k : Nat) (f : Ctrl → Ctrl) : Chip := c.onDs fun d => { d with ctrls := d.ctrls.map fun (i, x) => (i, if i = k then f x else x) }

/-- The job ends with a status; the first status that it meets stands. -/
def failJob (c : Chip) (s : Nat) (st : Status) (nvme : Nat) : Chip :=
  c.onJob s fun j => if j.status = .success then { j with status := st, nvme } else j

/-- The data service writes LOCAL memory. Writes to memory behind a domain in reset wait for it, and those that follow wait behind
them (R358, R380); an address that does not exist ends the job. -/
def dsStore (c : Chip) (slot : Option Nat) (cells : List Host.Cell) : Chip :=
  if !c.ds.held.isEmpty then c.onDs fun d => { d with held := d.held ++ [(slot, cells)] }
  else match c.writeLocal 3 none cells with
    | .ok c1 => c1
    | .error .pathReset => (c.notePathAt 3 (cells.map (·.1)) .pathReset).onDs fun d => { d with held := d.held ++ [(slot, cells)] }
    | .error st => match slot with
      | some s => c.failJob s st 0
      | none => c

/-- The held writes go out again, in order (R418, R380). -/
def dsReissue (c : Chip) : Chip :=
  c.ds.held.foldl (fun c (s, cells) => c.dsStore s cells) (c.onDs fun d => { d with held := [] })

/-! ### Job rings (R354, R355) -/

/-- Write line 1 of a ring's control block; one in HOST space that cannot be issued waits (R327). -/
def writeJobLine1 (c : Chip) (r : Nat) : Chip :=
  let q := c.ring r
  let bs := toBytes 64 (q.sqHead.toNat + q.cqWritten.toNat <<< 32 + (if q.space = 2 then (q.session % p2 16) <<< 96 else 0))
  if q.space = 2 then
    if !c.host.inForce then c
    else if !c.hostAvail then c.onJRing r fun q => { q with due := true }
    else
      let (done, c1) := c.hostCtlWrite (q.base - 64) bs
      c1.onJRing r fun q => { q with due := !done }
  else c.dsStore none (cellsAt (q.base - 64) bs)

/-- Bytes that a ring's space holds. -/
def jobBytes (c : Chip) (q : JobRing) (a n : Nat) : Option (Except Status (List Byte)) × Chip :=
  if q.space = 2 then c.hostRead a n
  else match c.readLocal 3 (addrRange a n) with
    | .error .pathReset => (none, c)
    | r => (some r, c)

/-- A ring takes jobs: enabled, not halted, and for a HOST ring under the session in force. -/
def ringTakes (c : Chip) (q : JobRing) : Bool :=
  q.enable && !q.halted && (q.space == 0 || (q.space == 2 && c.host.inForce && q.session == c.host.session))

/-- A ring halts with RING_INVALID. -/
def haltJobs (c : Chip) (r : Nat) : Chip :=
  (c.onJRing r fun q => { q with halted := true }).raise Status.ringInvalid.code .deferred srcData .device
    [BitVec.ofNat 64 (c.ring r).sqHead.toNat, BitVec.ofNat 64 (c.ring r).sqTail.toNat]

/-- A job of a ring waits to write its record on a full completion ring: no job begins on it meanwhile (R181, R337, R354). -/
def recordHeld (c : Chip) (r : Nat) : Bool :=
  let q := c.ring r
  (q.cqWritten - q.cqConsumed).toNat == p2 q.log2 && c.ds.jobs.any fun (_, j) => j.ring == r && j.stage == .ended && (j.status != .success || jobCmpl j.word)

/-- The next job of a ring begins, if the ring has one and a slot is free. -/
def beginOne (c : Chip) (r : Nat) : Chip × Bool :=
  let q := c.ring r
  let ahead := (q.sqTail - q.sqHead).toNat
  match (List.range 64).find? fun s => (Tab.find? s c.ds.jobs).isNone with
  | none => (c, false)
  | some slot =>
    if !c.ringTakes q || c.ds.stopped || ahead = 0 || c.recordHeld r then (c, false)
    else if p2 q.log2 < ahead then (c.haltJobs r, false)
    else match c.jobBytes q (q.base + 128 * (q.sqHead.toNat % p2 q.log2)) 128 with
      | (none, c) => (c, false)
      | (some (.error _), c) => (c.haltJobs r, false)
      | (some (.ok bs), c) =>
        let job : Job := { ring := r, order := c.ds.nextOrder, word := BitVec.ofNat 1024 (ofBytes bs), session := q.session }
        let c1 := c.onDs fun d => { d with jobs := Tab.set slot job d.jobs, nextOrder := d.nextOrder + 1, lastRing := r }
        ((c1.onJRing r fun q => { q with sqHead := q.sqHead + 1 }).writeJobLine1 r, true)

/-- Jobs begin, the rings served in rotation (R357). -/
def beginJobs : Nat → Chip → Chip
  | 0, c => c
  | fuel + 1, c =>
    let order := (List.range 4).map fun i => (c.ds.lastRing + 1 + i) % 4
    let (c1, some_) := order.foldl (fun (c, got) r => if got then (c, true) else c.beginOne r) (c, false)
    if some_ then beginJobs fuel c1 else c1

/-- Line 0 of a ring as just read. -/
def takeLine0 (c : Chip) (r : Nat) (d : Nat) : Chip :=
  c.onJRing r fun q => { q with sqTail := BitVec.ofNat 32 d, cqConsumed := BitVec.ofNat 32 (d >>> 32) }

/-- The data service re-reads SQ_TAIL of a LOCAL ring and begins new jobs (JOB_RING_POLL, DOORBELL). -/
def jobPoll (c : Chip) (r : Nat) : Chip :=
  let q := c.ring r
  if !q.enable || q.space != 0 then c
  else match c.readLocal 3 (addrRange (q.base - 128) 8) with
    | .error .pathReset => c
    | .error _ => c.haltJobs r
    | .ok bs => beginJobs 64 (c.takeLine0 r (ofBytes bs))

/-- The doorbell of HOST rings: the pinned line has been snooped, is re-read and re-pinned, and new jobs begin (R336, R354). -/
def jobDoorbell (c : Chip) (line : Nat) : Chip :=
  let rs := (List.range 4).filter fun r => let q := c.ring r; q.enable && q.space == 2 && c.host.inForce && (q.base - 128) / 64 == line
  if rs.isEmpty then c
  else match c.repin line with
    | none => c
    | some (.ok d, c1) => beginJobs 64 (rs.foldl (fun c r => c.takeLine0 r (d.toNat % p2 64)) c1)
    | some (.error _, c1) => rs.foldl (fun c r => c.haltJobs r) c1

/-- An enabled HOST ring joins the session in force: its head is 0, its line 0 is pinned and SESSION is written (R354). -/
def jobAttach (c : Chip) (r : Nat) : Chip :=
  let q := c.ring r
  if q.enable && q.space == 2 && c.host.inForce then
    ((c.onJRing r fun q => { q with sqHead := 0, cqWritten := 0, sqTail := 0, cqConsumed := 0, session := c.host.session, halted := false }).writeJobLine1 r).jobDoorbell
      ((q.base - 128) / 64)
  else c

/-- Every enabled HOST ring joins a session that has just begun. -/
def jobAttachAll (c : Chip) : Chip := (List.range 4).foldl (fun c r => c.jobAttach r) c

/-- JOB_RING_DISABLE: new jobs stop and HALTED clears; a HOST ring's line is no longer pinned. -/
def jobDisable (c : Chip) (r : Nat) : Chip :=
  let q := c.ring r
  let c1 := c.onJRing r fun q => { q with enable := false, halted := false }
  if q.enable && q.space == 2 then c1.unpin ((q.base - 128) / 64) else c1

/-- A write of DS_JRINGn_CTL (R355): LOG2 and SPACE are ignored while ENABLE is 1. A HOST ring enabled in a session joins it at once (R354). A ring that is enabled starts at entry 0
(DESIGN CHOICE, log entry 23). -/
def writeJobCtl (c : Chip) (r v : Nat) : Chip :=
  let q := c.ring r
  let en := nbits v 6 1 == 1
  let c1 := if q.enable then (if en then c else c.jobDisable r)
    else
      let c0 := c.onJRing r fun q => { q with log2 := nbits v 0 4, space := nbits v 4 2, enable := en, halted := false }
      if en then
        let c2 := c0.onJRing r fun q => { q with sqHead := 0, cqWritten := 0, sqTail := 0, cqConsumed := 0, session := 0 }
        if nbits v 4 2 = 2 then c2.jobAttach r else c2.writeJobLine1 r
      else c0
  if nbits v 7 1 == 1 then c1.jobPoll r else c1

/-! ### Completion (R358) -/

/-- Completion record of a job. -/
def jobRecord (j : Job) (phase : Nat) : Nat :=
  let detail := match jobOp j.word with
    | 3 => j.bytes % p2 48
    | 5 => j.queued % p2 24 + (j.failed % p2 24) <<< 24
    | _ => 0
  jobSeq j.word + j.status.code <<< 16 + (j.nvme % p2 16) <<< 32 + detail <<< 64 + phase <<< 127

/-- PHASE of the next record of a completion ring (R358). -/
def JobRing.phase (q : JobRing) : Nat := 1 - (q.cqWritten.toNat >>> q.log2) % 2

/-- DETAIL of a job status event (R483): the record as its ring takes it, the job, and the session epoch in the last word. -/
def jobDetail (c : Chip) (j : Job) : List W64 :=
  let rec_ := jobRecord j (JobRing.phase (c.ring j.ring))
  [BitVec.ofNat 64 rec_, BitVec.ofNat 64 (rec_ >>> 64)] ++ (List.range 16).map (fun i => BitVec.ofNat 64 (j.word.toNat >>> (64 * i)))
    ++ List.replicate 7 0 ++ [BitVec.ofNat 64 (if c.host.inForce then c.host.session else 0)]

/-- A job's record goes to its ring's completion ring; true when it is written or discarded, false while it must wait. -/
def putJobRecord (c : Chip) (j : Job) : Chip × Bool :=
  let c0 := if (c.ring j.ring).space = 0 then
      (match c.readLocal 3 (addrRange ((c.ring j.ring).base - 128) 8) with
       | .ok bs => c.onJRing j.ring fun q => { q with cqConsumed := BitVec.ofNat 32 (ofBytes bs >>> 32) }
       | .error _ => c)
    else c
  let q := c0.ring j.ring
  if q.space = 2 && (!c0.host.inForce || j.session ≠ c0.host.session) then
    (c0.onHost fun h => { h with recordsDiscarded := bump48 h.recordsDiscarded 1 }, true)
  else if (q.space = 2 && !c0.hostAvail) || (q.cqWritten - q.cqConsumed).toNat = p2 q.log2 then (c0, false)
  else
    let n := q.cqWritten.toNat
    let bs := toBytes 16 (jobRecord j (JobRing.phase q))
    let a := q.cq + 16 * (n % p2 q.log2)
    let (done, c1) := if q.space = 2 then c0.hostCtlWrite a bs else (true, c0.dsStore none (cellsAt a bs))
    if done then ((c1.onJRing j.ring fun q => { q with cqWritten := q.cqWritten + 1 }).writeJobLine1 j.ring, true) else (c1, false)

/-- JOB_COMPLETE: a job whose writes are visible writes its record, then its flag, and frees its slot. -/
def jobComplete (c : Chip) (slot : Nat) : Chip :=
  match Tab.find? slot c.ds.jobs with
  | none => c
  | some j =>
    if j.stage ≠ .ended ∨ c.ds.held.any (fun p => p.1 == some slot) then c
    else
      let (c1, done) := if j.status ≠ .success || jobCmpl j.word then c.putJobRecord j else (c, true)
      if !done then c1
      else
        let c2 := if jobFlag j.word && jobFlagAddr j.word % 8 == 0 then
            c1.dsStore none (cellsAt (jobFlagAddr j.word) (toBytes 8 (jobFlagValue j.word))) else c1
        let c3 := if j.status = .success then c2 else c2.raise j.status.code j.status.severity srcData .device (c.jobDetail j)
        beginJobs 64 (c3.onDs fun d => { d with jobs := Tab.erase slot d.jobs })

/-- A job ends: nothing of it is outstanding any more. -/
def endJob (c : Chip) (slot : Nat) : Chip := c.onJob slot fun j => { j with stage := .ended }

/-! ### Commands (R360 to R363) -/

/-- An Ethernet port P12 to P15 that is up (R296, R351). -/
def ethPortUp (c : Chip) (p : Nat) : Bool := (c.port p).state == .ethernet && !(c.port p).disable && c.ds.ethUp.getD (p - 12) false

/-- Up ports of a PORT_MASK, lowest first. -/
def upPorts (c : Chip) (mask : Nat) : List Nat := (List.range 4).filterMap fun i => if nbits mask i 1 = 1 && c.ethPortUp (12 + i) then some (12 + i) else none

/-- Commands that have been sent and not answered on a queue pair. -/
def qpBusy (c : Chip) (ctrl qp : Nat) : Nat := (c.ds.cmds.filter fun k => k.ctrl == ctrl && k.qp == qp && k.sent).length

/-- A controller's queue pair can carry one more command. -/
def qpRoom (c : Chip) (ctrl qp : Nat) : Bool :=
  match Tab.find? ctrl c.ds.ctrls with
  | none => false
  | some x =>
    let q := x.qps.getD qp { port := 0, depth := 0 }
    x.phase != .reconnecting && decide (c.qpBusy ctrl qp < q.depth) && !c.ds.paused.getD (q.port - 12) false

/-- A number from `lo` to `lo + n − 1`, from `next` on, that no command outstanding at a target has. -/
def freeNum (c : Chip) (lo n next : Nat) (of : NvmeCmd → Nat) : Nat :=
  let out := c.ds.cmds.filter (·.sent)
  (((List.range (out.length + 1)).map fun k => lo + (next + k) % n).find? fun v => out.all fun k => of k.cmd != v).getD lo

/-- The next command identifier of 16 bits, and the next RDMA key of 32 bits: no outstanding command has it (R360, R362). -/
def freeCid (c : Chip) : Nat := c.freeNum 0 (p2 16) c.ds.nextCid NvmeCmd.cid
def freeKey (c : Chip) : Nat := c.freeNum 1 (p2 32 - 1) (c.ds.nextKey - 1) NvmeCmd.key

/-- A capsule leaves by the port of its queue pair, in priority DS_PFC_PRIO, ECN-capable (R351 to R353; ECT(0) is PRESUMED, log entry 22). -/
def sendCapsule (c : Chip) (ctrl qp port : Nat) (cmd : NvmeCmd) : Chip := c.send (.nvme ctrl qp port c.imp.dsPfcPrio 2 cmd)

/-- Send the commands that wait and for which their queue pair has room: each takes its identifier, and its key where it moves data. -/
def drainCmds (c : Chip) : Chip :=
  c.ds.cmds.foldl (fun c k =>
    if k.sent || !c.qpRoom k.ctrl k.qp then c
    else
      let cmd := { k.cmd with cid := c.freeCid, key := if k.cmd.len = 0 then 0 else c.freeKey }
      let port := match Tab.find? k.ctrl c.ds.ctrls with
        | some x => (x.qps.getD k.qp { port := 0, depth := 0 }).port
        | none => 0
      (c.onDs fun d => { d with
        nextCid := (cmd.cid + 1) % p2 16, nextKey := if cmd.len = 0 then d.nextKey else cmd.key + 1,
        cmds := d.cmds.map fun x => if x.num = k.num then { x with cmd := { x.cmd with cid := cmd.cid, key := cmd.key }, sent := true } else x }).sendCapsule k.ctrl k.qp port cmd) c

/-- Issue a command on a queue pair. -/
def issueCmd (c : Chip) (ctrl qp : Nat) (op : NvmeOp) (nsid len : Nat) (cdw : List (BitVec 32)) (slot : Option Nat) (dest : NDest) : Chip :=
  (c.onDs fun d => { d with
    nextCmd := d.nextCmd + 1, cmds := d.cmds ++ [{ num := d.nextCmd, ctrl, qp, cmd := { cid := 0, op, nsid, cdw, len }, slot, dest }] }).drainCmds

/-- The Connect of a queue: the host's and the subsystem's NQN, and the controller that is asked for (R353, R360, R361). -/
def connectOp (c : Chip) (x : Ctrl) (qid : Nat) : NvmeOp :=
  .connect qid x.qdepth (if qid = 0 then 0xFFFF else x.cntlid) c.imp.dsHostNqn ((toBytes 256 (fld x.target 2047 0)).takeWhile (· != 0))

/-- A queue pair is opened by a port to the target's address and service (R361). -/
def openPair (c : Chip) (x : Ctrl) (ctrl qp port : Nat) : Chip :=
  c.send (.qpOpen ctrl qp port (BitVec.ofNat 128 (fld x.target 2175 2048)) (fld x.target 2191 2176))

/-- A part of a destination that starts `skip` bytes on and is `len` long; the data of its command has `pre` bytes before it. -/
def subDest (d : NDest) (skip pre len : Nat) : NDest :=
  match d with
  | .local_ a _ _ => .local_ (a + skip) pre len
  | .input ch pos _ _ => .input ch (pos + skip) pre len
  | .entry pos _ _ => .entry (pos + skip) pre len
  | .staging => .local_ 0 pre 0

/-- Bytes that one Read command may carry: min(MDTS, 1 MiB) (R362). -/
def maxTransfer (x : Ctrl) : Nat := if x.mdts = 0 then p2 20 else min (p2 (x.mdts + 12 + x.mpsMin)) (p2 20)

/-- The Read commands of a run of namespace bytes, round-robin over the I/O queue pairs (R362). -/
def issueRuns (c : Chip) (w : NWait) (log2 : Nat) : Chip :=
  match Tab.find? w.ctrl c.ds.ctrls with
  | none => c
  | some x =>
    let lbs := p2 log2
    let per := max 1 (maxTransfer x / lbs)
    let b0 := w.off / lbs
    let blocks := (w.off + w.len + lbs - 1) / lbs - b0
    (List.range ((blocks + per - 1) / per)).foldl (fun c i =>
      let first := b0 + i * per
      let n := min per (blocks - i * per)
      let lo := max w.off (first * lbs)
      let hi := min (w.off + w.len) ((first + n) * lbs)
      let qp := 1 + (match Tab.find? w.ctrl c.ds.ctrls with | some y => y.turn | none => 0) % x.numIoq
      ((c.onCtrl w.ctrl fun y => { y with turn := y.turn + 1 }).issueCmd w.ctrl qp (.read first n) w.nsid (n * lbs) [] (some w.slot)
        (match w.dest with | .staging => .staging | d => subDest d (lo - w.off) (lo - first * lbs) (hi - lo)))) c

/-- Read a run of namespace bytes for a job. A namespace's block size is asked for at its first use (R362). A controller that is down
ends the job with TARGET_LOST (R363). -/
def nvmeRead (c : Chip) (w : NWait) : Chip :=
  match Tab.find? w.ctrl c.ds.ctrls with
  | none => c.failJob w.slot .targetLost 0
  | some x =>
    if x.phase = .connecting || x.closing then c.failJob w.slot .targetLost 0
    else match Tab.find? w.nsid x.blocks with
      | some log2 => c.issueRuns w log2
      | none => (c.onDs fun d => { d with waits := d.waits ++ [w] }).issueCmd w.ctrl 0 (.identify 0) w.nsid 4096 [] (some w.slot) .staging

/-- Something of a job is outstanding. -/
def jobBusy (c : Chip) (slot : Nat) : Bool := c.ds.cmds.any (fun k => k.slot == some slot) || c.ds.waits.any (fun w => w.slot == slot)

/-- Withdraw what a failed job has not sent. -/
def dropUnsent (c : Chip) (slot : Nat) : Chip :=
  c.onDs fun d => { d with cmds := d.cmds.filter fun k => !(k.slot == some slot && !k.sent), waits := d.waits.filter fun w => w.slot != slot }

/-- A controller's association ends: its queue pairs close and its commands are withdrawn. -/
def dropCtrl (c : Chip) (ctrl : Nat) : Chip :=
  (c.onDs fun d => { d with ctrls := Tab.erase ctrl d.ctrls, cmds := d.cmds.filter fun k => k.ctrl != ctrl,
                            waits := d.waits.filter fun w => w.ctrl != ctrl }).send (.nvmeClose ctrl)

/-! ### CONNECT and DISCONNECT (R361) -/

/-- The next step of a CONNECT, its last command having succeeded with a result and staged data. -/
def connectStep (c : Chip) (slot : Nat) (j : Job) (result : Nat) (data : List Byte) : Chip :=
  let ctrl := jobCtrl j.word
  let go (c : Chip) (n : Nat) : Chip := c.onJob slot fun j => { j with step := n }
  match j.step with
  | 0 => ((go c 1).onCtrl ctrl fun x => { x with cntlid := nbits result 0 16 }).issueCmd ctrl 0 .getCap 0 0 [] (some slot) .staging
  | 1 => ((go c 2).onCtrl ctrl fun x => { x with mpsMin := nbits result 48 4 }).issueCmd ctrl 0 .setEnable 0 0 [] (some slot) .staging
  | 2 => (go c 3).issueCmd ctrl 0 .getCsts 0 0 [] (some slot) .staging
  | 3 =>
    if result % 2 = 0 then c.issueCmd ctrl 0 .getCsts 0 0 [] (some slot) .staging
    else (go c 4).issueCmd ctrl 0 (.identify 1) 0 4096 [] (some slot) .staging
  | n =>
    let c1 := if n = 4 then c.onCtrl ctrl fun x => { x with mdts := (data.getD 77 0).toNat } else c
    match Tab.find? ctrl c1.ds.ctrls with
    | none => c1
    | some x =>
      if n - 4 < x.numIoq then
        match c1.upPorts x.portMask with
        | [] => (c1.failJob slot .connectFailed 0).endJob slot |>.dropCtrl ctrl
        | ps =>
          let p := ps.getD ((n - 4) % ps.length) 12
          (((go c1 (n + 1)).onCtrl ctrl fun x => { x with qps := x.qps ++ [{ port := p, depth := x.qdepth }] }).openPair x ctrl (n - 3) p).issueCmd ctrl
            (n - 3) (c1.connectOp x (n - 3)) 0 0 [] (some slot) .staging
      else ((c1.onCtrl ctrl fun x => { x with phase := .live }).endJob slot)

/-- The job is over as soon as nothing of it is outstanding: READ and ADMIN. -/
def settleRead (c : Chip) (slot : Nat) : Chip := if c.jobBusy slot then c else c.endJob slot

/-- A DISCONNECT ends once the controller's reads have finished (R361). -/
def settleDisconnect (c : Chip) (slot : Nat) (j : Job) : Chip :=
  let ctrl := jobCtrl j.word
  if c.ds.cmds.any (fun k => k.ctrl == ctrl && k.slot.isSome) || c.ds.waits.any (fun w => w.ctrl == ctrl) then c
  else (c.dropCtrl ctrl).endJob slot

end Chip

end Sys2Proof.Machine
end

