-- ==== Sys2Proof/Machine/DataSamples.lean ====
section
/-!
DEFINITION. The keyed shuffle (R366), channels and their frame rings (R368, R369, R374, R375), and the loading of samples (R365, R367).
-/
namespace Sys2Proof.Machine

/-! ### The shuffle (R366) -/

/-- Number of bits of a number. -/
def bitLength (n : Nat) : Nat := if n = 0 then 0 else Nat.log2 n + 1

/-- One round of the Feistel network. -/
def feistelRound (h seed epoch : Nat) (lr : Nat × Nat) (t : Nat) : Nat × Nat :=
  let f := randomWord (BitVec.ofNat 64 seed) (0xFF00 + t) ((epoch % p2 24) <<< 24 ||| lr.2)
  (lr.2, lr.1 ^^^ (f.toNat % p2 h))

def feistel (x h seed epoch : Nat) : Nat :=
  let (l, r) := (List.range 8).foldl (feistelRound h seed epoch) (x >>> h, x % p2 h)
  (l <<< h) ||| r

/-- Half the width of the Feistel network for `n` positions. -/
def shuffleHalf (n : Nat) : Nat :=
  let b := max 2 (bitLength (n - 1))
  (b + b % 2) / 2

/-- Cycle-walking: the walk stays on the cycle through its start, so a fuel of the network's size always suffices. -/
def cycleWalk (n h seed epoch : Nat) : Nat → Nat → Nat
  | 0, x => x
  | fuel + 1, x => if n ≤ x then cycleWalk n h seed epoch fuel (feistel x h seed epoch) else x

def shuffleIndex (j n seed epoch : Nat) : Nat :=
  let h := shuffleHalf n
  cycleWalk n h seed epoch (p2 (2 * h)) (feistel j h seed epoch)

/-! ### Channel descriptors (R368) -/

structure ChanDesc where
  program : Nat
  split   : Bool
  gray    : Bool
  area    : Bool
  fmt     : Fmt
  rmode   : RMode
  sat     : Bool
  colour  : Nat
  range   : Nat
  stream  : Nat
  step    : Nat
  maxFrames : Nat
  cropX   : Nat
  cropY   : Nat
  cropW   : Nat
  cropH   : Nat
  outW    : Nat
  outH    : Nat
  patch   : Nat
  weight  : Nat
  scale   : List W32
  bias    : List W32
  work    : Nat
  workMib : Nat
  inAddr  : Nat
  inBytes : Nat
  ring    : Nat
  slot    : Nat
  nslots  : Nat
  audio   : Nat
  audioBytes : Nat
  deriving DecidableEq, Repr

/-- The descriptor's fields; formats and modes that no code names read as BF16 and RNE, and `descOk` refuses them. -/
def ChanDesc.read (w : BitVec 1024) : ChanDesc :=
  { program := fld w 15 0, split := bit w 16, gray := bit w 17, area := fld w 19 18 == 1,
    fmt := (Fmt.ofCode (fld w 23 20)).getD .bf16, rmode := (RMode.ofCode (fld w 25 24)).getD .rne, sat := bit w 26,
    colour := fld w 29 27, range := fld w 31 30, stream := fld w 47 32, step := fld w 63 48, maxFrames := fld w 79 64,
    cropX := fld w 95 80, cropY := fld w 111 96, cropW := fld w 127 112, cropH := fld w 143 128,
    outW := fld w 159 144, outH := fld w 175 160, patch := fld w 181 176, weight := fld w 185 182,
    scale := (List.range 3).map fun i => BitVec.ofNat 32 (w.toNat >>> (192 + 32 * i)),
    bias := (List.range 3).map fun i => BitVec.ofNat 32 (w.toNat >>> (288 + 32 * i)),
    work := fld w 447 384, workMib := fld w 479 448, inAddr := fld w 543 480, inBytes := fld w 575 544, ring := fld w 639 576,
    slot := fld w 671 640, nslots := fld w 687 672, audio := fld w 751 688, audioBytes := fld w 783 752 }

def ChanDesc.comps (d : ChanDesc) : Nat := if d.gray then 1 else 3
def ChanDesc.elems (d : ChanDesc) : Nat := d.comps * d.outW * d.outH
def ChanDesc.payload (d : ChanDesc) : Nat := d.elems * (d.fmt.width / 8)
def ChanDesc.workBytes (d : ChanDesc) : Nat := d.workMib * p2 20

/-- A range of existing HBM. -/
def hbmRange (a n : Nat) : Bool := decide (a + n ≤ hbmTop)

/-- The descriptor breaks no rule of R368. -/
def descOk (c : Chip) (w : BitVec 1024) : Bool :=
  let d := ChanDesc.read w
  let k := d.cropW / max 1 d.outW
  fld w 191 186 == 0 && fld w 1023 784 == 0 && decide (fld w 19 18 ≤ 1) &&
  [Fmt.bf16, .e4m3, .e5m2, .int8].any (fun f => Fmt.ofCode (fld w 23 20) == some f) && (RMode.ofCode (fld w 25 24)).isSome &&
  decide (d.colour ≤ 3 ∧ d.range ≤ 2 ∧ 1 ≤ d.step) &&
  [d.cropX, d.cropY, d.cropW, d.cropH].all (fun n => n % 2 == 0) &&
  decide (1 ≤ d.cropW ∧ 1 ≤ d.cropH ∧ 1 ≤ d.outW ∧ 1 ≤ d.outH ∧ 1 ≤ d.patch ∧ d.patch ≤ 32 ∧ 1 ≤ d.weight) &&
  d.outW % d.patch == 0 && d.outH % d.patch == 0 &&
  d.work % 4096 == 0 && hbmRange d.work d.workBytes &&
  d.inAddr % 4096 == 0 && d.inBytes % 4096 == 0 && decide (1 ≤ d.inBytes) && hbmRange d.inAddr d.inBytes &&
  d.ring % 64 == 0 && decide (64 ≤ d.ring) && c.rangeMapped (d.ring - 64) (64 + d.slot * d.nslots) &&
  d.slot % 64 == 0 && decide (64 + d.payload ≤ d.slot ∧ 2 ≤ d.nslots) &&
  (d.audio == 0 || (d.audio % 64 == 0 && decide (64 ≤ d.audio) && d.audioBytes % 64 == 0 && c.rangeMapped (d.audio - 64) (64 + d.audioBytes))) &&
  (!d.area || (d.cropW == k * d.outW && d.cropH == k * d.outH && k % 2 == 0 && decide (2 ≤ k ∧ k ≤ 8)))

namespace Chip

def chan? (c : Chip) (ch : Nat) : Option Channel := Tab.find? ch c.ds.chans
def onChan (c : Chip) (ch : Nat) (f : Channel → Channel) : Chip :=
  c.onDs fun d => { d with chans := d.chans.map fun (k, x) => (k, if k = ch then f x else x) }

/-- A channel that takes samples: open, and not closing. -/
def chanOpen (c : Chip) (ch : Nat) : Bool := match c.chan? ch with | some x => x.closing.isNone | none => false

/-! ### Frame rings (R374) -/

/-- CONSUMED of a ring whose control words lie 64 bytes below it. -/
def ringConsumed (c : Chip) (ring : Nat) : Option Nat :=
  match c.readLocal 3 (addrRange (ring - 56) 8) with
  | .ok bs => some (ofBytes bs)
  | .error _ => none

/-- Free slots of a channel's frame ring, the waiting records counted as written. -/
def freeSlots (c : Chip) (x : Channel) : Nat :=
  let d := ChanDesc.read x.desc
  match c.ringConsumed d.ring with
  | none => 0
  | some n => d.nslots - (x.records + x.waiting.length - n)

/-- Write the waiting records for which there are slots: payload, header, then WRITTEN. -/
def flushRecords : Nat → Nat → Chip → Chip
  | 0, _, c => c
  | fuel + 1, ch, c =>
    match c.chan? ch with
    | none => c
    | some x =>
      let d := ChanDesc.read x.desc
      match x.waiting, c.ringConsumed d.ring with
      | (hdr, payload) :: rest, some n =>
        if d.nslots ≤ x.records - n then c
        else
          let a := d.ring + (x.records % d.nslots) * d.slot
          let c1 := (c.dsStore none (cellsAt (a + 64) payload)).dsStore none (cellsAt a hdr)
          let c2 := c1.dsStore none (cellsAt (d.ring - 64) (toBytes 8 (x.records + 1)))
          flushRecords fuel ch (c2.onChan ch fun x => { x with records := x.records + 1, waiting := rest })
      | _, _ => c

/-- FRAME_RING_SPACE: the consumer has advanced CONSUMED; the pending records are written. -/
def frameSpace (c : Chip) (ch : Nat) : Chip := flushRecords 65536 ch c

/-- A record joins the ring. -/
def putRecord (c : Chip) (ch : Nat) (hdr payload : List Byte) : Chip :=
  (c.onChan ch fun x => { x with waiting := x.waiting ++ [(hdr, payload)] }).frameSpace ch

/-- The END record of a sample (R375). -/
def endHeader (ch err j s frames pictures dropped : Nat) : List Byte :=
  toBytes 64 (2 + err <<< 8 + ch <<< 16 + j <<< 32 + s <<< 80 + (frames % p2 32) <<< 192 + (pictures % p2 32) <<< 224 + (dropped % p2 32) <<< 256)

/-- The END record of a sample that never reaches the channel's queue (R367). -/
def endUnread (c : Chip) (ch err j s : Nat) : Chip := c.putRecord ch (endHeader ch err j s 0 0 0) []

/-! ### Loading samples (R367) -/

/-- A LOAD_SAMPLES names a channel. -/
def loadNames (j : Job) (ch : Nat) : Bool := jobOp j.word == 5 && decide (jobChannel j.word ≤ ch ∧ ch < jobChannel j.word + jobChCount j.word)

/-- A LOAD_SAMPLES has samples for a channel still to deal with. -/
def loadOwes (j : Job) (ch : Nat) : Bool :=
  let first := jobChannel j.word
  let n := jobChCount j.word
  let d := ch - first
  jobOp j.word == 5 && j.stage != .ended && decide (first ≤ ch ∧ d < n ∧ j.pos + (d + n - j.pos % n) % n < jobCount j.word)

/-- A job may append to a channel: no job that began earlier still owes it a sample (R357). -/
def mayAppend (c : Chip) (j : Job) (ch : Nat) : Bool := !c.ds.jobs.any fun (_, k) => decide (k.order < j.order) && loadOwes k ch

/-- An entry of the sample table that R365 calls invalid. -/
def entryBad (w : BitVec 256) (inBytes : Nat) : Bool :=
  let len := fld w 95 64
  fld w 255 132 != 0 || len == 0 || len % 188 != 0 || decide (inBytes < len)

/-- The channel and the sample of a job's current position. -/
def loadChannel (j : Job) : Nat := jobChannel j.word + j.pos % jobChCount j.word
def loadJ (j : Job) : Nat := jobJ0 j.word + j.pos
def loadSample (j : Job) : Nat := shuffleIndex (loadJ j) (jobN j.word) (jobSeed j.word) (jobEpoch j.word)

/-- The job is done with its current sample. -/
def loadNext (c : Chip) (slot : Nat) (queued failed : Nat) : Chip :=
  c.onJob slot fun j => { j with load := .next, pos := j.pos + 1, queued := j.queued + queued, failed := j.failed + failed, entry := 0 }

/-- A LOAD_SAMPLES goes on until it must wait: for a read, for room, for its turn or for SAMPLE_QUEUED. -/
def loadStep : Nat → Nat → Chip → Chip
  | 0, _, c => c
  | fuel + 1, slot, c =>
    match Tab.find? slot c.ds.jobs with
    | none => c
    | some j =>
      if j.stage ≠ .running ∨ c.jobBusy slot then c
      else if j.status ≠ .success then c.endJob slot
      else
        let ch := loadChannel j
        match j.load with
        | .next =>
          if jobCount j.word ≤ j.pos then c.endJob slot
          else if !c.chanOpen ch then (c.failJob slot .channelLost 0).endJob slot
          else
            let s := loadSample j
            if jobTableNvme j.word then
              loadStep fuel slot ((c.onJob slot fun j => { j with load := .entry }).nvmeRead
                { slot, ctrl := jobTableCtrl j.word, nsid := jobNsid j.word, off := jobAddrA j.word + 32 * s, len := 32, dest := .entry 0 0 32 })
            else match c.readLocal 3 (addrRange (jobAddrA j.word + 32 * s) 32) with
              | .error .pathReset => c
              | .error st => (c.failJob slot st 0).endJob slot
              | .ok bs => loadStep fuel slot (c.onJob slot fun j => { j with load := .space, entry := BitVec.ofNat 256 (ofBytes bs) })
        | .entry => c
        | .space =>
          match c.chan? ch with
          | none => (c.failJob slot .channelLost 0).endJob slot
          | some x =>
            let d := ChanDesc.read x.desc
            if entryBad j.entry d.inBytes then
              loadStep fuel slot ((c.endUnread ch 5 (loadJ j) (loadSample j)).loadNext slot 0 1)
            else if !c.mayAppend j ch || decide (d.inBytes < x.inWr - x.inRd + fld j.entry 95 64) || decide (64 ≤ x.samples.length) then c
            else
              loadStep fuel slot ((c.onJob slot fun j => { j with load := .reading }).nvmeRead
                { slot, ctrl := fld j.entry 131 128, nsid := fld j.entry 127 96, off := fld j.entry 63 0, len := fld j.entry 95 64,
                  dest := .input ch x.inWr 0 0 })
        | .reading => c

/-- Fuel of one advance of a LOAD_SAMPLES; a job that has more to do goes on at the next occasion. -/
def loadFuel : Nat := 4096

/-- Every LOAD_SAMPLES in progress goes on, oldest first: an append right that one gives up passes to the next (R357). -/
def advanceLoads (c : Chip) : Chip :=
  (sortAddrs ((c.ds.jobs.filter fun (_, j) => jobOp j.word == 5).map fun (_, j) => j.order)).foldl (fun c n =>
    match List.find? (fun (p : Nat × Job) => p.2.order == n && jobOp p.2.word == 5) c.ds.jobs with
    | some (s, _) => loadStep loadFuel s c
    | none => c) c

/-- What a LOAD_SAMPLES does once nothing of it is outstanding: the entry it asked for is at hand, or its sample's read has failed. -/
def settleLoad (c : Chip) (slot : Nat) (j : Job) : Chip :=
  if c.jobBusy slot then c
  else match j.load with
    | .entry =>
      if j.status = .storageError then
        loadStep loadFuel slot (((c.endUnread (loadChannel j) 4 (loadJ j) (loadSample j)).onJob slot fun j => { j with status := .success, nvme := 0 }).loadNext slot 0 1)
      else loadStep loadFuel slot (c.onJob slot fun j => { j with load := .space })
    | .reading =>
      if j.status = .storageError then
        loadStep loadFuel slot (((c.endUnread (loadChannel j) 4 (loadJ j) (loadSample j)).onJob slot fun j => { j with status := .success, nvme := 0 }).loadNext slot 0 1)
      else if j.status ≠ .success then c.endJob slot
      else c
    | _ => loadStep loadFuel slot c

/-- SAMPLE_QUEUED: every byte of the current sample of a LOAD_SAMPLES has landed, and it joins the channel's queue (R367). -/
def sampleQueued (c : Chip) (slot : Nat) : Chip :=
  match Tab.find? slot c.ds.jobs with
  | none => c
  | some j =>
    if jobOp j.word ≠ 5 ∨ j.stage ≠ .running ∨ j.load ≠ .reading ∨ j.status ≠ .success ∨ c.jobBusy slot ∨ c.ds.held.any (fun p => p.1 == some slot) then c
    else
      let ch := loadChannel j
      let len := fld j.entry 95 64
      let c1 := c.onChan ch fun x => { x with samples := x.samples ++ [{ j := loadJ j, s := loadSample j, len }], inWr := x.inWr + len }
      (loadStep loadFuel slot (c1.loadNext slot 1 0)).advanceLoads

/-! ### CHANNEL_OPEN and CHANNEL_CLOSE (R369) -/

/-- Channels of a reader. -/
def readerLoad (c : Chip) (r : Nat) : Nat := (c.ds.chans.filter fun (_, x) => x.reader == r).length

/-- The reader with the fewest channels, the lowest on a tie. -/
def leastReader (c : Chip) : Nat := (List.range 8).foldl (fun b r => if c.readerLoad r < c.readerLoad b then r else b) 0

/-- The LOAD_SAMPLES in progress that name a channel complete with CHANNEL_LOST as it closes (R367). -/
def loseAppenders (c : Chip) (ch : Nat) : Chip :=
  c.ds.jobs.foldl (fun c (s, j) => if loadNames j ch && j.stage == .running then
    let c1 := (c.failJob s .channelLost 0).dropUnsent s
    if c1.jobBusy s then c1 else c1.endJob s else c) c

/-- A channel is gone. -/
def dropChannel (c : Chip) (ch : Nat) : Chip :=
  let slot := match c.chan? ch with
    | some x => x.closing.map (·.1)
    | none => none
  let c1 := c.onDs fun d => { d with chans := Tab.erase ch d.chans }
  match slot with
  | some s => c1.endJob s
  | none => c1

/-- A close with DRAIN completes once no sample is queued and no record waits. -/
def settleClose (c : Chip) (ch : Nat) : Chip :=
  match c.chan? ch with
  | none => c
  | some x => if x.closing.isSome && x.samples.isEmpty && x.waiting.isEmpty then c.dropChannel ch else c

end Chip

end Sys2Proof.Machine
end

