-- ==== Sys2Proof/Machine/DataMedia.lean ====
section
/-!
DEFINITION. The demultiplexer (R370, R379), the readers (R371 to R373), and frames turned into tensors (R374 to R378).
-/
namespace Sys2Proof.Machine

/-! ### Transport stream syntax (ISO/IEC 13818-1, as R370 uses it) -/

def byteAt (bs : List Byte) (i : Nat) : Nat := (bs.getD i 0).toNat
/-- A big-endian field of bytes. -/
def beAt (bs : List Byte) (i n : Nat) : Nat := ((bs.drop i).take n).foldl (fun a b => 256 * a + b.toNat) 0

/-- The payload of a packet: what follows the header and the adaptation field. -/
def tsPayload (p : List Byte) : List Byte :=
  let afc := byteAt p 3 / 16 % 4
  if afc % 2 = 0 then [] else if 2 ≤ afc then p.drop (5 + byteAt p 4) else p.drop 4

/-- The PTS of a PES header, 0 where it has none. -/
def pesPts (p : List Byte) : Nat :=
  if byteAt p 7 < 128 then 0
  else (byteAt p 9 / 2 % 8) <<< 30 + (beAt p 10 2 / 2) <<< 15 + beAt p 12 2 / 2

/-- The bytes of a PES packet after its header. -/
def pesData (p : List Byte) : List Byte := p.drop (9 + byteAt p 8)

/-- Programs of a PAT section: program_number and PMT PID. -/
def patPrograms (s : List Byte) : List (Nat × Nat) :=
  let len := beAt s 1 2 % 4096
  (List.range ((len - 9) / 4)).filterMap fun i =>
    let n := beAt s (8 + 4 * i) 2
    if n = 0 then none else some (n, beAt s (10 + 4 * i) 2 % 8192)

/-- Descriptors hold a registration of AV01. -/
def hasAv01 : Nat → List Byte → Bool
  | 0, _ => false
  | fuel + 1, d =>
    if d.length < 2 then false
    else if byteAt d 0 = 5 ∧ beAt d 2 4 = 0x41563031 then true
    else hasAv01 fuel (d.drop (2 + byteAt d 1))

/-- Streams of a PMT section: stream_type, PID and descriptors. -/
def pmtStreams : Nat → List Byte → List (Nat × Nat × List Byte)
  | 0, _ => []
  | fuel + 1, s =>
    if s.length < 5 then []
    else
      let n := beAt s 3 2 % 4096
      (byteAt s 0, beAt s 1 2 % 8192, (s.drop 5).take n) :: pmtStreams fuel (s.drop (5 + n))

/-- The elementary streams of a PMT section, its CRC left out. -/
def pmtBody (s : List Byte) : List Byte :=
  let len := beAt s 1 2 % 4096
  ((s.take (len - 1)).drop (12 + beAt s 10 2 % 4096))

def isVideo (t : Nat × Nat × List Byte) : Bool := [0x02, 0x1B, 0x24].contains t.1 || (t.1 == 0x06 && hasAv01 64 t.2.2)
def isAudio (t : Nat × Nat × List Byte) : Bool := [0x03, 0x04, 0x0F, 0x11, 0x81].contains t.1

/-- A complete PSI section and the bytes after it. -/
def takeSection (bs : List Byte) : Option (List Byte × List Byte) :=
  if bs.length < 3 then none
  else
    let n := 3 + beAt bs 1 2 % 4096
    if bs.length < n then none else some (bs.take n, bs.drop n)

/-- A section of the PAT or of the selected program's PMT takes effect. -/
def Demux.section_ (m : Demux) (program pid : Nat) (s : List Byte) : Demux :=
  if pid = 0 ∧ byteAt s 0 = 0 then
    match (patPrograms s).find? fun p => program == 0xFFFF || p.1 == program with
    | some p => { m with pmtPid := some p.2 }
    | none => m
  else if m.pmtPid = some pid ∧ byteAt s 0 = 2 ∧ (program = 0xFFFF ∨ beAt s 3 2 = program) then
    let ts := pmtStreams 256 (pmtBody s)
    let m1 := { m with audio := ((ts.filter isAudio).map (·.2.1)).take 4 }
    match m.video, ts.find? isVideo with
    | none, some t => { m1 with video := some t.2.1, codec := t.1 }
    | _, _ => m1
  else m

/-- Sections in formation on a PID are taken as they complete. -/
def Demux.sections_ (program pid : Nat) : Nat → List Byte → Demux → Demux
  | 0, bs, m => { m with sections := Tab.set pid bs m.sections }
  | fuel + 1, bs, m =>
    if byteAt bs 0 = 0xFF then { m with sections := Tab.erase pid m.sections }
    else match takeSection bs with
      | none => { m with sections := Tab.set pid bs m.sections }
      | some (s, rest) =>
        if rest.isEmpty then { m.section_ program pid s with sections := Tab.erase pid m.sections }
        else Demux.sections_ program pid fuel rest (m.section_ program pid s)

/-- A packet of a PSI PID. -/
def Demux.psi (m : Demux) (program pid : Nat) (start : Bool) (payload : List Byte) : Demux :=
  let old := Tab.get [] m.sections pid
  if start then
    let k := byteAt payload 0
    let m1 := if old.isEmpty then m else Demux.sections_ program pid 16 (old ++ (payload.drop 1).take k) m
    Demux.sections_ program pid 16 (payload.drop (1 + k)) m1
  else if old.isEmpty then m
  else Demux.sections_ program pid 16 (old ++ payload) m

namespace Chip

/-! ### Audio (R379) -/

/-- A PES payload goes to the audio ring behind its header, or is dropped when it does not fit. Its counts are bytes (DESIGN CHOICE, log entry 24). -/
def putAudio (c : Chip) (ch pid : Nat) (pes : List Byte) : Chip :=
  match c.chan? ch with
  | none => c
  | some x =>
    let d := ChanDesc.read x.desc
    if d.audio = 0 ∨ pes.length < 9 then c
    else
      let data := pesData pes
      let bs := toBytes 16 (pid + (pesPts pes) <<< 16 + (data.length % p2 32) <<< 64) ++ data
      let n := (bs.length + 63) / 64 * 64
      match c.ringConsumed d.audio with
      | none => c.onDs fun d => { d with audioDropped := bump48 d.audioDropped 1 }
      | some used =>
        if d.audioBytes < x.audioWr - used + n then c.onDs fun d => { d with audioDropped := bump48 d.audioDropped 1 }
        else
          let cells := (bs ++ List.replicate (n - bs.length) 0).zipIdx.map fun (b, i) => (d.audio + (x.audioWr + i) % d.audioBytes, b)
          ((c.dsStore none cells).dsStore none (cellsAt (d.audio - 64) (toBytes 8 (x.audioWr + n)))).onChan ch fun x => { x with audioWr := x.audioWr + n }

/-! ### The end of a sample (R372 to R376) -/

/-- The current sample of a channel ends: its END record, then the next sample from a fresh start. -/
def finishSample (c : Chip) (ch : Nat) : Chip :=
  match c.chan? ch with
  | none => c
  | some x =>
    match x.samples with
    | [] => c
    | s :: rest =>
      let err := if x.err ≠ 0 then x.err else if x.dropped ≠ 0 then 2 else 0
      let c1 := x.demux.audioPes.foldl (fun c (pid, pes) => c.putAudio ch pid pes) c
      let c2 := c1.putRecord ch (endHeader ch err s.j s.s x.frames x.decoded x.dropped) []
      (c2.onChan ch fun x => { x with
        samples := rest, inRd := x.inRd + s.len, used := 0, demux := {}, units := [], dropping := true, leading := false, held := [], outs := 0, frames := 0,
        decoded := 0, dropped := 0, skip := false, err := 0 }).advanceLoads.settleClose ch

/-! ### The demultiplexer (R370) -/

/-- A video PES is complete: an access unit for the reader, unless it has been spoiled. -/
def closePes (x : Channel) : Channel :=
  match x.demux.pes with
  | none => x
  | some u =>
    { x with units := if x.demux.spoiled || u.data.length < 9 then x.units else x.units ++ [{ pts := pesPts u.data, data := pesData u.data }],
             demux := { x.demux with pes := none, spoiled := false } }

/-- A payload starts a video PES packet. -/
def videoStart (p : List Byte) : Bool := beAt p 0 3 == 1 && byteAt p 3 / 16 == 14

/-- A packet of the video PID. A continuity gap discards the PES in which it falls; a repeated packet is passed over. DEDUCED, log entry 70. -/
def videoPacket (x : Channel) (cc : Nat) (start : Bool) (payload : List Byte) : Channel :=
  if payload.isEmpty || x.demux.cc == some cc then x
  else
    let gap := match x.demux.cc with
      | none => false
      | some k => (k + 1) % 16 != cc
    let x1 := if gap then { x with demux := { x.demux with spoiled := x.demux.pes.isSome } } else x
    let x2 := { x1 with demux := { x1.demux with cc := some cc } }
    if start then
      let x3 := closePes x2
      { x3 with demux := { x3.demux with pes := some { pts := 0, data := payload }, spoiled := false } }
    else match x2.demux.pes with
      | none => x2
      | some u => { x2 with demux := { x2.demux with pes := some { u with data := u.data ++ payload } } }

/-- A packet of an audio PID. -/
def audioPacket (c : Chip) (ch pid : Nat) (start : Bool) (payload : List Byte) : Chip :=
  match c.chan? ch with
  | none => c
  | some x =>
    let old := Tab.get [] x.demux.audioPes pid
    let c1 := if start && !old.isEmpty then c.putAudio ch pid old else c
    c1.onChan ch fun x =>
      if start then { x with demux := { x.demux with audioPes := Tab.set pid payload x.demux.audioPes } }
      else if old.isEmpty then x
      else { x with demux := { x.demux with audioPes := Tab.set pid (old ++ payload) x.demux.audioPes } }

end Chip

/-! ### Resize and colour (R376, R377) -/

/-- A plane of samples, `w` to a row. -/
structure Plane where
  w    : Nat
  vals : List Nat

def Plane.at_ (p : Plane) (x y : Nat) : Nat := p.vals.getD (y * p.w + x) 0

/-- The source position of an output coordinate on one axis, in 1/256ths. -/
def srcPos (x win wout : Nat) : Nat := min ((2 * x + 1) * win * 256 / (2 * wout) - 128) ((win - 1) * 256)

/-- BILINEAR: the exact value with divisor 2^16. -/
def bilinear (p : Plane) (cx cy win hin wout hout x y : Nat) : Nat :=
  let sx := srcPos x win wout
  let sy := srcPos y hin hout
  let i := sx / 256
  let f := sx % 256
  let row (j : Nat) : Nat := p.at_ (cx + i) (cy + j) * (256 - f) + p.at_ (cx + min (i + 1) (win - 1)) (cy + j) * f
  row (sy / 256) * (256 - sy % 256) + row (min (sy / 256 + 1) (hin - 1)) * (sy % 256)

/-- AREA: the exact sum of a `k` × `k` box. -/
def boxSum (p : Plane) (cx cy k x y : Nat) : Nat :=
  ((List.range (k * k)).map fun i => p.at_ (cx + x * k + i % k) (cy + y * k + i / k)).sum

def cvtRne (n : Nat) : W32 := toF32 (FVal.ofInt n 0)

/-- Constants of R377 for a bit depth and a range: yoff, yscl, coff, cscl. -/
def rangeConsts (depth : Nat) (full : Bool) : W32 × W32 × W32 × W32 :=
  let k := p2 (depth - 8)
  if full then (cvtRne 0, ratioF false 1 (p2 depth - 1) 0, cvtRne (p2 (depth - 1)), ratioF false 1 (p2 depth - 1) 0)
  else (cvtRne (16 * k), ratioF false 1 (219 * k) 0, cvtRne (128 * k), ratioF false 1 (224 * k) 0)

/-- (Kr, Kb) in ten-thousandths of BT601, BT709 and BT2020_NCL. -/
def matrixK (m : Nat) : Nat × Nat := match m with | 1 => (2990, 1140) | 3 => (2627, 593) | _ => (2126, 722)

/-- k_rv, k_gu, k_gv, k_bu of R377. -/
def matrixConsts (m : Nat) : W32 × W32 × W32 × W32 :=
  let (r, b) := matrixK m
  let g := 10000 - r - b
  (ratioF false (2 * (10000 - r)) 10000 0, ratioF true (2 * b * (10000 - b)) (10000 * g) 0,
   ratioF true (2 * r * (10000 - r)) (10000 * g) 0, ratioF false (2 * (10000 - b)) 10000 0)

/-- `pixel` of R377. -/
def pixelOf (d : ChanDesc) (depth matrix : Nat) (full : Bool) (ty tcb tcr dDiv dDivC : Nat) : List W32 :=
  let (yoff, yscl, coff, cscl) := rangeConsts depth full
  let (krv, kgu, kgv, kbu) := matrixConsts matrix
  let yp := mulF (subF (divF (cvtRne ty) (cvtRne dDiv)) yoff) yscl
  let cbp := mulF (subF (divF (cvtRne tcb) (cvtRne dDivC)) coff) cscl
  let crp := mulF (subF (divF (cvtRne tcr) (cvtRne dDivC)) coff) cscl
  let sc (i : Nat) : W32 := d.scale.getD i 0
  let bi (i : Nat) : W32 := d.bias.getD i 0
  if d.gray then [fmaF yp (sc 0) (bi 0)]
  else [fmaF (fmaF krv crp yp) (sc 0) (bi 0), fmaF (fmaF kgu cbp (fmaF kgv crp yp)) (sc 1) (bi 1), fmaF (fmaF kbu cbp yp) (sc 2) (bi 2)]

/-- One field of an interlaced picture, or its frame: every second row of each plane from a parity. -/
def Picture.field (p : Picture) (bottom : Bool) : Picture :=
  let par := if bottom then 1 else 0
  let rows (w h : Nat) (v : List Nat) : List Nat := (List.range (h / 2)).flatMap fun r => (v.drop ((2 * r + par) * w)).take w
  let cw := (p.width + 1) / 2
  let chh := (p.height + 1) / 2
  { p with height := p.height / 2, luma := rows p.width p.height p.luma, cb := rows cw chh p.cb, cr := rows cw chh p.cr }

/-- Output pictures that a decoded picture gives, with their BOTTOM_FIELD: under FIELD_SPLIT an interlaced picture gives two (R371). -/
def outputPics (d : ChanDesc) (p : Picture) : List (Picture × Bool) :=
  if d.split && p.interlaced then (if p.bottomFirst then [(p.field true, true), (p.field false, false)] else [(p.field false, false), (p.field true, true)])
  else [(p, false)]

/-- The crop rectangle lies within an output picture (R376). -/
def cropFits (d : ChanDesc) (p : Picture) : Bool := decide (d.cropX + d.cropW ≤ p.width ∧ d.cropY + d.cropH ≤ p.height)

/-- Values of an output pixel: crop, resize and colour conversion; `lines` is the height of the whole picture (R377). -/
def outPixel (d : ChanDesc) (p : Picture) (lines x y : Nat) : List W32 :=
  let luma : Plane := { w := p.width, vals := p.luma }
  let cw := (p.width + 1) / 2
  let plane (v : List Nat) : Plane := { w := cw, vals := v }
  let matrix := if d.colour ≠ 0 then d.colour else if p.matrix ≠ 0 then p.matrix else if 720 ≤ lines then 2 else 1
  let full := if d.range ≠ 0 then d.range == 2 else p.range == 2
  if d.area then
    let k := d.cropW / max 1 d.outW
    let chroma (v : List Nat) : Nat := boxSum (plane v) (d.cropX / 2) (d.cropY / 2) (k / 2) x y
    pixelOf d p.depth matrix full (boxSum luma d.cropX d.cropY k x y) (chroma p.cb) (chroma p.cr) (k * k) (k / 2 * (k / 2))
  else
    let chroma (v : List Nat) : Nat := bilinear (plane v) (d.cropX / 2) (d.cropY / 2) (d.cropW / 2) (d.cropH / 2) d.outW d.outH x y
    pixelOf d p.depth matrix full (bilinear luma d.cropX d.cropY d.cropW d.cropH d.outW d.outH x y) (chroma p.cb) (chroma p.cr) (p2 16) (p2 16)

/-- A frame's payload in the order of R378. -/
def framePayload (seed : W64) (d : ChanDesc) (s frameNo : Nat) (p : Picture) (lines : Nat) : List Byte :=
  let n := d.elems
  (List.range (d.outW * d.outH)).flatMap fun q =>
    let px := q % d.patch
    let py := q / d.patch % d.patch
    let pc := q / (d.patch * d.patch) % (d.outW / d.patch)
    let pr := q / (d.patch * d.patch) / (d.outW / d.patch)
    ((outPixel d p lines (pc * d.patch + px) (pr * d.patch + py)).zipIdx).flatMap fun (v, k) =>
      let e := k + d.comps * q
      let u := if d.rmode = .stochastic then randomWord (seed ^^^ BitVec.ofNat 64 s) d.stream ((e + n * frameNo) % p2 48) else 0
      toBytes (d.fmt.width / 8) (storeElem d.fmt { mode := d.rmode, sat := d.sat, u } none false (.f v))

/-! ### Random access points (R372) -/

/-- The units of an access unit: what follows each start code 00 00 01. -/
def startUnits : List Byte → List (List Byte)
  | [] => []
  | b :: bs => if b = 0 ∧ bs.take 2 = [0, 1] then bs.drop 2 :: startUnits bs else startUnits bs

/-- Type of an AV1 OBU, and the first byte of its payload: past an extension byte and a size of up to eight bytes. -/
def obuType (u : List Byte) : Nat := byteAt u 0 / 8 % 16
def obuFirst (u : List Byte) : Nat :=
  let p := u.drop (if byteAt u 0 / 4 % 2 = 1 then 2 else 1)
  if byteAt u 0 / 2 % 2 = 1 then byteAt ((p.dropWhile fun b => 128 ≤ b.toNat).drop 1) 0 else byteAt p 0

/-- An access unit begins with a random access point of its codec: an MPEG-2 sequence header with an I picture, an H.264 IDR, an HEVC IRAP, or an
AV1 key frame with a sequence header (R372). The codes are the outside standards' (PRESUMED, log entry 98). -/
def isRap (codec : Nat) (au : List Byte) : Bool :=
  let us := startUnits au
  match codec with
  | 0x02 => us.any (fun u => byteAt u 0 == 0xB3) && us.any fun u => byteAt u 0 == 0x00 && byteAt u 2 / 8 % 8 == 1
  | 0x1B => us.any fun u => byteAt u 0 % 32 == 5
  | 0x24 => us.any fun u => decide (16 ≤ byteAt u 0 / 2 % 64 ∧ byteAt u 0 / 2 % 64 ≤ 23)
  | _ => us.any (fun u => obuType u == 1) && us.any fun u => (obuType u == 3 || obuType u == 6) && decide (obuFirst u < 32)

/-- An HEVC access unit is a RASL picture. -/
def isRasl (codec : Nat) (au : List Byte) : Bool :=
  codec == 0x24 && (startUnits au).any fun u => byteAt u 0 / 2 % 64 == 8 || byteAt u 0 / 2 % 64 == 9

/-- Sequence-level parameters within the table of R371 and the channel's work area (R369). -/
def unitSupported (d : ChanDesc) (codec : Nat) (u : DecUnit) : Bool :=
  let area := u.codedW * u.codedH
  let fits := match codec with
    | 0x02 => decide (u.codedW ≤ 1920 ∧ u.codedH ≤ 1152 ∧ u.pic.depth = 8)
    | 0x1B => decide ((u.codedW + 15) / 16 * ((u.codedH + 15) / 16) ≤ 36864 ∧ u.pic.depth = 8)
    | _ => decide (area ≤ 8912896) && (u.pic.depth == 8 || u.pic.depth == 10)
  u.supported && fits && decide (2 * 65536 + 17 * area * 3 * (if 8 < u.pic.depth then 2 else 1) ≤ 2 * d.workBytes)

namespace Chip

/-- PICTURE_OUTPUT: one output picture; a selected one becomes a FRAME record (R374, R375). A picture that the crop does not fit ends
the sample (R376). -/
def outputOne (c : Chip) (ch pts lines : Nat) (p : Picture) (bottom : Bool) : Chip :=
  match c.chan? ch with
  | none => c
  | some x =>
    let d := ChanDesc.read x.desc
    match x.samples with
    | [] => c
    | s :: _ =>
      if x.skip then c
      else if !cropFits d p then c.onChan ch fun x => { x with err := 1, skip := true }
      else
        let k := x.outs
        let c1 := c.onChan ch fun x => { x with outs := x.outs + 1 }
        if k % d.step ≠ 0 then c1
        else
          let payload := framePayload x.seed d s.s x.frames p lines
          let hdr := toBytes 64 (1 + (if bottom then 16 else 0) + ch <<< 16 + s.j <<< 32 + s.s <<< 80 + (pts % p2 33) <<< 128
            + (x.frames % p2 32) <<< 192 + (k % p2 32) <<< 224 + (payload.length % p2 32) <<< 288)
          (c1.putRecord ch hdr payload).onChan ch fun x =>
            { x with frames := x.frames + 1, skip := decide (d.maxFrames ≠ 0 ∧ d.maxFrames ≤ x.frames + 1) }

/-- The pictures due for output leave the decoder in display order. -/
def releaseHeld : Nat → Nat → Chip → Chip
  | 0, _, c => c
  | n + 1, ch, c =>
    match c.chan? ch with
    | none => c
    | some x =>
      match x.held with
      | [] => c
      | h :: rest =>
        let c1 := c.onChan ch fun x => { x with held := rest }
        let c2 := (outputPics (ChanDesc.read x.desc) h.pic).foldl (fun c (p, b) => c.outputOne ch h.pts h.pic.height p b) c1
        releaseHeld n ch c2

/-! ### The demultiplexer's packets (R370) -/

/-- The sample's bytes are all taken: the last access unit completes, and a sample with nothing to decode ends. DEDUCED, log entry 70. -/
def settleSample (c : Chip) (ch : Nat) : Chip :=
  match c.chan? ch with
  | none => c
  | some x =>
    match x.samples with
    | [] => c
    | s :: _ =>
      if x.skip then c.finishSample ch
      else if x.used < s.len then c
      else
        let c1 := c.onChan ch fun x => closePes (if x.demux.video.isNone && x.err == 0 then { x with err := 3 } else x)
        match c1.chan? ch with
        | some y => if y.units.isEmpty then ((releaseHeld y.held.length ch c1).finishSample ch) else c1
        | none => c1

/-- One packet, in sync. -/
def takePacket (c : Chip) (ch : Nat) (x : Channel) (p : List Byte) : Chip :=
  let pid := beAt p 1 2 % 8192
  let start := nbits (byteAt p 1) 6 1 == 1
  if 128 ≤ byteAt p 1 ∨ 64 ≤ byteAt p 3 then c.onDs fun d => { d with tsDiscard := bump48 d.tsDiscard 1 }
  else
    let payload := tsPayload p
    let program := (ChanDesc.read x.desc).program
    if pid = 0 ∨ x.demux.pmtPid = some pid then c.onChan ch fun x => { x with demux := x.demux.psi program pid start payload }
    else if x.demux.video = some pid then c.onChan ch fun x => videoPacket x (byteAt p 3 % 16) start payload
    else if x.demux.video.isNone && start && videoStart payload then c.onChan ch fun x => { x with err := 3, skip := true }
    else if x.demux.audio.contains pid then c.audioPacket ch pid start payload
    else c

/-- DEMUX_PACKET: the next transport stream packet of a channel's current sample; bytes before a sync byte are passed over. -/
def demuxPacket (c : Chip) (ch : Nat) : Chip :=
  match c.chan? ch with
  | none => c
  | some x =>
    match x.samples with
    | [] => c
    | s :: _ =>
      if c.ds.stopped || c.domDown.contains 20 || s.len ≤ x.used then c
      else
        let d := ChanDesc.read x.desc
        let at_ (i : Nat) : Nat := d.inAddr + (x.inRd + i) % d.inBytes
        let room := s.len - x.used
        match c.readLocal 3 ((List.range room).map fun i => at_ (x.used + i)) with
        | .error _ => c
        | .ok bs =>
          let lead := (bs.takeWhile (· ≠ 0x47)).length
          let p := (bs.drop lead).take 188
          if p.length < 188 then (c.onChan ch fun x => { x with used := s.len }).settleSample ch
          else ((c.onChan ch fun x => { x with used := x.used + lead + 188 }).takePacket ch x p).settleSample ch

/-- Insert a picture in display order. -/
def insertHeld (h : HeldPic) : List HeldPic → List HeldPic
  | [] => [h]
  | g :: gs => if h.order < g.order then h :: g :: gs else g :: insertHeld h gs

/-- One access unit is decoded: the seed is that in force as the sample's decoding begins (R275, R372). -/
def decodeUnit (c : Chip) (ch : Nat) (u : DecUnit) : Chip :=
  match c.chan? ch with
  | none => c
  | some x =>
    match x.units with
    | [] => c
    | au :: rest =>
      let d := ChanDesc.read x.desc
      let c1 := c.onChan ch fun x => { x with units := rest, seed := if x.decoded = 0 then c.seed else x.seed }
      let first := (outputPics d u.pic).head?.map (·.1)
      if !unitSupported d x.demux.codec u || (x.outs == 0 && !(first.map (cropFits d)).getD true) then
        c1.onChan ch fun x => { x with err := 1, skip := true }
      else
        let rap := isRap x.demux.codec au.data
        let starts := x.dropping && rap
        let drop := (x.dropping && !rap) || u.damaged || (x.leading && isRasl x.demux.codec au.data)
        let c1 := c1.onDs fun s => { s with lumaSamples := bump48 s.lumaSamples (u.pic.width * u.pic.height) }
        let c2 := c1.onChan ch fun x =>
          { x with decoded := x.decoded + 1, leading := if rap then starts else x.leading, dropping := if starts then u.damaged else x.dropping || u.damaged,
                   dropped := if drop then x.dropped + 1 else x.dropped,
                   held := if drop then x.held else insertHeld { order := u.order, pts := au.pts, pic := u.pic } x.held }
        releaseHeld u.release ch c2

/-- A channel that a reader may serve (R373). -/
def eligible (c : Chip) (x : Channel) : Bool :=
  !x.units.isEmpty && !x.skip && decide (x.held.length + 2 ≤ c.freeSlots x) &&
  (match x.closing with
   | some (_, drain) => drain
   | none => true)

/-- The turn of a channel: up to WEIGHT pictures, while it stays eligible. -/
def turnOf : Nat → Nat → List DecUnit → Chip → Chip
  | 0, _, _, c => c
  | _ + 1, _, [], c => c
  | n + 1, ch, u :: us, c =>
    match c.chan? ch with
    | none => c
    | some x => if c.eligible x then turnOf n ch us (c.decodeUnit ch u) else c

/-- READER_TURN: the reader serves its next eligible channel after the one it served last (R373). `units` is what decoding the
channel's next access units gives. -/
def readerTurn (c : Chip) (reader : Nat) (units : List DecUnit) : Chip :=
  let last := c.ds.lastChan.getD reader 511
  let order := (List.range 512).map fun i => (last + 1 + i) % 512
  let next := order.find? fun ch => match c.chan? ch with
    | some x => x.reader == reader && c.eligible x
    | none => false
  match next with
  | none => c
  | some ch =>
    if c.ds.stopped || c.domDown.contains 20 then c
    else
      let weight := match c.chan? ch with | some x => (ChanDesc.read x.desc).weight | none => 0
      let c1 := turnOf weight ch units (c.onDs fun d => { d with lastChan := d.lastChan.set reader ch })
      match c1.chan? ch with
      | none => c1
      | some x =>
        let spills := match x.samples with
          | s :: _ => x.skip || (decide (s.len ≤ x.used) && x.units.isEmpty && x.demux.pes.isNone)
          | [] => false
        if spills then
          let c2 := if x.skip then c1 else releaseHeld x.held.length ch c1
          c2.finishSample ch
        else c1

end Chip

end Sys2Proof.Machine
end

