-- ==== Sys2Proof/Machine/DataService.lean ====
section
/-!
DEFINITION. The data service's commands: jobs performed (R356, R361 to R369), completions and losses of the initiator (R362, R363),
Ethernet frames (R352), and what resets do to it (R380).
-/
namespace Sys2Proof.Machine

/-- A job of an operation; the JOB_NOP row takes the reserved operations too. -/
def jobRowMatches (op : Nat) (w : JobWord) : Bool := jobOp w == op || (op == 0 && decide (7 < jobOp w))

/-- An ADMIN job: GET_LOG_PAGE, or any other subcommand (R364). -/
def jobAdminRow (log : Bool) (w : JobWord) : Bool := jobOp w == 4 && (fld w 211 210 == 1) == log

namespace Chip

/-- The oldest job of a ring that has begun and is not performed. -/
def nextJob (c : Chip) (ring : Nat) : Option (Nat × Job) :=
  (c.ds.jobs.filter fun (_, j) => j.ring == ring && j.stage == .begun).foldl (fun b p => match b with
    | none => some p
    | some q => if p.2.order < q.2.order then some p else some q) none

/-- A job that the producer hands over now begins in a free slot. -/
def placeJob (c : Chip) (ring : Nat) (w : Option JobWord) : Chip :=
  match w, (List.range 64).find? fun s => (Tab.find? s c.ds.jobs).isNone with
  | some w, some s => c.onDs fun d => { d with
      jobs := Tab.set s { ring, order := d.nextOrder, word := w, session := (d.rings.getD ring {}).session } d.jobs, nextOrder := d.nextOrder + 1 }
  | _, _ => c

/-- Faults that end any job at once (R356, R358). -/
def jobError (c : Chip) (w : JobWord) : Option Status :=
  if jobReserved w then some .reservedEncoding
  else if jobFlag w && jobFlagAddr w % 8 != 0 then some .placeIllegal
  else if jobFlag w && !c.rangeMapped (jobFlagAddr w) 8 then some .addrUnmapped
  else none

/-- The shape of every row of a job: a job handed over now begins first; the ring's oldest begun job is performed if it is of the row. -/
def runJob (c : Chip) (ring : Nat) (w : Option JobWord) (isRow : JobWord → Bool) (run : Chip → Nat → Job → Chip) : Chip :=
  let c1 := c.placeJob ring w
  match c1.nextJob ring with
  | none => c1
  | some (s, j) =>
    if !isRow j.word || c1.ds.stopped then c1
    else match c1.jobError j.word with
      | some st => (c1.failJob s st 0).endJob s
      | none => run (c1.onJob s fun j => { j with stage := .running }) s j

/-- JOB_NOP. -/
def jobNop (c : Chip) (s : Nat) (_ : Job) : Chip := c.endJob s

/-- The job ends at once with a status. -/
def rejectJob (c : Chip) (s : Nat) (st : Status) : Chip := (c.failJob s st 0).endJob s

/-- The bytes of LOCAL memory that a job reads as it starts; a domain in reset makes the job wait (R380). -/
def jobReads (c : Chip) (s : Nat) (a n : Nat) (k : List Byte → Chip) : Chip :=
  match c.readLocal 3 (addrRange a n) with
  | .ok bs => k bs
  | .error .pathReset => c.onJob s fun j => { j with stage := .begun }
  | .error st => c.rejectJob s st

/-- CONNECT (R361). -/
def jobConnect (c : Chip) (s : Nat) (j : Job) : Chip :=
  let w := j.word
  let ctrl := jobCtrl w
  let mask := fld w 199 196
  let n := fld w 206 200
  if (Tab.find? ctrl c.ds.ctrls).isSome then c.rejectJob s .channelBusy
  else c.jobReads s (jobAddrA w) 288 fun bs =>
    let used := (c.ds.ctrls.map fun p => p.2.numIoq).sum
    match c.upPorts mask with
    | [] => c.rejectJob s .connectFailed
    | p :: _ =>
      if 64 < used + n then c.rejectJob s .connectFailed
      else
        let depth := p2 (fld w 209 207)
        let x : Ctrl := { target := BitVec.ofNat 2304 (ofBytes bs), portMask := mask, numIoq := n, qdepth := depth, qps := [{ port := p, depth }] }
        ((c.onDs fun d => { d with ctrls := Tab.set ctrl x d.ctrls }).openPair x ctrl 0 p).issueCmd ctrl 0 (c.connectOp x 0) 0 0 [] (some s) .staging

/-- DISCONNECT (R361). -/
def jobDisconnect (c : Chip) (s : Nat) (j : Job) : Chip :=
  match Tab.find? (jobCtrl j.word) c.ds.ctrls with
  | none => c.rejectJob s .targetLost
  | some _ => (c.onCtrl (jobCtrl j.word) fun x => { x with closing := true }).settleDisconnect s j

/-- READ (R362). -/
def jobRead (c : Chip) (s : Nat) (j : Job) : Chip :=
  let w := j.word
  let n := fld w 415 384
  if !c.rangeMapped (jobAddrA w) n then c.rejectJob s .addrUnmapped
  else (c.nvmeRead { slot := s, ctrl := jobCtrl w, nsid := jobNsid w, off := fld w 383 320, len := n, dest := .local_ (jobAddrA w) 0 n }).settleRead s

/-- ADMIN: the command is formed from CDW10 to CDW13 unchanged (R364). -/
def jobAdmin (c : Chip) (s : Nat) (j : Job) : Chip :=
  let w := j.word
  let log := fld w 211 210 == 1
  let n := if log then logBytes w else 4096
  if p2 16 < n then c.rejectJob s .reservedEncoding
  else if !c.rangeMapped (jobAddrA w) n then c.rejectJob s .addrUnmapped
  else match Tab.find? (jobCtrl w) c.ds.ctrls with
    | none => c.rejectJob s .targetLost
    | some x =>
      if x.phase = .connecting ∨ x.closing then c.rejectJob s .targetLost
      else c.issueCmd (jobCtrl w) 0 (if log then .getLogPage else .identify (fld w 423 416)) (jobNsid w) n
        ((List.range 4).map fun i => BitVec.ofNat 32 (w.toNat >>> (416 + 32 * i))) (some s) (.local_ (jobAddrA w) 0 n)

/-- LOAD_SAMPLES (R367). -/
def jobLoad (c : Chip) (s : Nat) (j : Job) : Chip :=
  let w := j.word
  if !((List.range (jobChCount w)).all fun i => c.chanOpen (jobChannel w + i)) then c.rejectJob s .placeIllegal
  else (loadStep loadFuel s c).advanceLoads

/-- CHANNEL_OPEN (R369); it waits while CD-READ is in reset (R417, R418). -/
def jobOpen (c : Chip) (s : Nat) (j : Job) : Chip :=
  let w := j.word
  let ch := jobChannel w
  if c.domDown.contains 20 then (c.notePath (some 20)).onJob s fun j => { j with stage := .begun }
  else if (c.chan? ch).isSome then c.rejectJob s .channelBusy
  else if jobAddrA w % 64 ≠ 0 then c.rejectJob s .placeIllegal
  else c.jobReads s (jobAddrA w) 128 fun bs =>
    let desc : BitVec 1024 := BitVec.ofNat 1024 (ofBytes bs)
    let r := if bit w 204 then c.leastReader else fld w 203 201
    if !descOk c desc then c.rejectJob s .placeIllegal
    else if 64 ≤ c.readerLoad r then c.rejectJob s .channelLimit
    else (c.onDs fun d => { d with chans := Tab.set ch { desc, reader := r } d.chans }).endJob s

/-- CHANNEL_CLOSE (R369); one of a channel that is not open has nothing to close and is rejected as LOAD_SAMPLES is (DESIGN CHOICE, log entry 25). -/
def jobClose (c : Chip) (s : Nat) (j : Job) : Chip :=
  let ch := jobChannel j.word
  if !c.chanOpen ch then c.rejectJob s .placeIllegal
  else
    let c1 := (c.onChan ch fun x => { x with closing := some (s, bit j.word 205) }).loseAppenders ch
    (if bit j.word 205 then c1.settleClose ch else c1.dropChannel ch).advanceLoads

/-! ### Completions (R361 to R363) -/

/-- A namespace's block size is known: the reads that waited for it are issued (R362). -/
def haveBlocks (c : Chip) (ctrl nsid : Nat) (data : List Byte) : Chip :=
  let at_ (i : Nat) : Nat := (data.getD i 0).toNat
  let f := at_ 26 % 16
  let log2 := at_ (128 + 4 * f + 2)
  let ws := c.ds.waits.filter fun w => w.ctrl == ctrl && w.nsid == nsid
  let c1 := (c.onCtrl ctrl fun x => { x with blocks := Tab.set nsid log2 x.blocks }).onDs fun d =>
    { d with waits := d.waits.filter fun w => !(w.ctrl == ctrl && w.nsid == nsid) }
  ws.foldl (fun c w => c.issueRuns w log2) c1

/-- A job goes on after one of its commands has gone. -/
def settleJob (c : Chip) (s : Nat) (result : Nat) (data : List Byte) (ok : Bool) : Chip :=
  match Tab.find? s c.ds.jobs with
  | none => c
  | some j =>
    if j.stage ≠ .running then c
    else match jobOp j.word with
      | 1 => if ok then c.connectStep s j result data else ((c.failJob s .connectFailed 0).endJob s).dropCtrl (jobCtrl j.word)
      | 5 => c.settleLoad s j
      | _ => c.settleRead s

/-- A DISCONNECT of a controller that waits goes on. -/
def settleClosing (c : Chip) (ctrl : Nat) : Chip :=
  c.ds.jobs.foldl (fun c (s, j) => if jobOp j.word = 2 ∧ jobCtrl j.word = ctrl ∧ j.stage = .running then c.settleDisconnect s j else c) c

/-- What a command that a target fails gives its job: a step of CONNECT is CONNECT_FAILED (R361), any other STORAGE_ERROR (R363). -/
def stepStatus (c : Chip) (s : Nat) : Status :=
  match Tab.find? s c.ds.jobs with
  | some j => if jobOp j.word = 1 then .connectFailed else .storageError
  | none => .storageError

/-- NVME_COMPLETION: a target answers a command with a status field and a result (R363). A Read that fails with DNR 0 is reissued once;
the key of a command is withdrawn with it (R362). -/
def nvmeCompletion (c : Chip) (ctrl cid status result : Nat) : Chip :=
  match c.ds.cmds.find? fun k => k.ctrl == ctrl && k.cmd.cid == cid && k.sent with
  | none => c
  | some k =>
    let c1 := c.onDs fun d => { d with cmds := d.cmds.filter fun x => x.num != k.num }
    let isRead : Bool := match k.cmd.op with | .read _ _ => true | _ => false
    let dnr := nbits status 14 1 == 1
    if status ≠ 0 ∧ isRead ∧ !dnr ∧ !k.retried then
      (c1.onDs fun d => { d with cmds := d.cmds ++ [{ k with sent := false, retried := true, buf := [] }] }).drainCmds
    else
      let data := (List.range k.cmd.len).map fun i => (cellAt i k.buf).getD 0
      let c2 := c1.drainCmds
      let c3 := match k.slot with
        | none => c2
        | some s =>
          if status ≠ 0 then ((c2.failJob s (c2.stepStatus s) status).dropUnsent s).settleJob s result data false
          else
            let got := match k.dest with
              | .local_ _ _ n => n
              | _ => 0
            let c3 := c2.onJob s fun j => { j with bytes := j.bytes + got }
            let c4 := match k.cmd.op, k.cmd.cdw with
              | .identify 0, [] => c3.haveBlocks ctrl k.cmd.nsid data
              | _, _ => c3
            c4.settleJob s result data true
      (c3.settleClosing ctrl).advanceLoads

/-- CONNECTION_LOST: the association is torn down and reconnecting starts; a CONNECT in progress fails (R361, R363). -/
def connectionLost (c : Chip) (ctrl : Nat) : Chip :=
  match Tab.find? ctrl c.ds.ctrls with
  | none => c
  | some x =>
    match x.phase with
    | .reconnecting => c
    | .connecting =>
      (c.ds.jobs.foldl (fun c (s, j) => if jobOp j.word = 1 ∧ jobCtrl j.word = ctrl ∧ j.stage = .running
        then c.rejectJob s .connectFailed else c) c).dropCtrl ctrl
    | .live =>
      (c.onDs fun d => { d with
        ctrls := Tab.set ctrl { x with phase := .reconnecting, qps := [] } d.ctrls,
        cmds := d.cmds.filterMap fun k => if k.ctrl ≠ ctrl then some k
          else if k.slot.isNone then none
          else some { k with sent := false, buf := [] } }).send (.nvmeClose ctrl)

/-- RECONNECT_ATTEMPT: on success the queue pairs are open again and every outstanding command is reissued under a new key (R363). -/
def reconnect (c : Chip) (ctrl : Nat) (ok : Bool) : Chip :=
  match Tab.find? ctrl c.ds.ctrls with
  | none => c
  | some x =>
    let ps := c.upPorts x.portMask
    if x.phase ≠ .reconnecting || ps.isEmpty then c
    else
      let say (c : Chip) (qp port : Nat) : Chip :=
        ((c.openPair x ctrl qp port).sendCapsule ctrl qp port { cid := c.freeCid, op := c.connectOp x qp }).onDs fun d => { d with nextCid := (c.freeCid + 1) % p2 16 }
      let c1 := say c 0 (ps.headD 12)
      if !ok then c1
      else
        let io := (List.range x.numIoq).map fun i => ({ port := ps.getD (i % ps.length) 12, depth := x.qdepth } : QPair)
        let c2 := io.zipIdx.foldl (fun c (q, i) => say c (i + 1) q.port) c1
        (c2.onCtrl ctrl fun x => { x with phase := .live, qps := { port := ps.headD 12, depth := x.qdepth } :: io }).drainCmds

/-- Every job that uses a controller completes with TARGET_LOST (R363), once nothing of it is outstanding at another (R358). -/
def loseTargetJobs (c : Chip) (ctrl : Nat) : Chip :=
  c.ds.jobs.foldl (fun c (s, j) =>
    if !(j.stage == .running && jobUses j ctrl) then c
    else
      let c1 := ((c.failJob s .targetLost 0).dropUnsent s).onDs fun d => { d with cmds := d.cmds.filter fun k => !(k.slot == some s && k.ctrl == ctrl) }
      if c1.jobBusy s then c1 else c1.endJob s) c

/-- TARGET_LOST: at the reconnect deadline the controller is down (R363). -/
def targetLost (c : Chip) (ctrl : Nat) : Chip :=
  match Tab.find? ctrl c.ds.ctrls with
  | none => c
  | some x => if x.phase ≠ .reconnecting then c else ((c.loseTargetJobs ctrl).dropCtrl ctrl).advanceLoads

/-- KEEP_ALIVE: sent to every connected controller (R361). -/
def keepAlive (c : Chip) : Chip :=
  c.ds.ctrls.foldl (fun c (k, x) => if x.phase = .live then c.issueCmd k 0 .keepAlive 0 0 [] none .staging else c) c

/-- A word with one byte replaced. -/
def setByte (w : BitVec 256) (i : Nat) (v : Byte) : BitVec 256 :=
  (w &&& ~~~(BitVec.ofNat 256 (0xFF <<< (8 * i)))) ||| BitVec.ofNat 256 (v.toNat <<< (8 * i))

/-- Data of a command lands where its key covers: only the requested bytes reach memory (R362). -/
def landData (c : Chip) (k : NCmd) (off : Nat) (data : List Byte) : Chip :=
  let cells := data.zipIdx off
  match k.dest with
  | .staging => c.onDs fun d => { d with cmds := d.cmds.map fun x => if x.num = k.num
      then { x with buf := cells.foldl (fun b (v, i) => cellSet i v b) x.buf } else x }
  | .local_ a skip n =>
    c.dsStore k.slot (cells.filterMap fun (v, i) => if skip ≤ i ∧ i < skip + n then some (a + (i - skip), v) else none)
  | .entry pos skip n => match k.slot with
    | none => c
    | some s => c.onJob s fun j => { j with entry := cells.foldl (fun w (v, i) => if skip ≤ i ∧ i < skip + n then setByte w (pos + (i - skip)) v else w) j.entry }
  | .input ch pos skip n =>
    match c.chan? ch with
    | none => c
    | some x =>
      let d := ChanDesc.read x.desc
      c.dsStore k.slot (cells.filterMap fun (v, i) => if skip ≤ i ∧ i < skip + n then some (d.inAddr + (pos + (i - skip)) % d.inBytes, v) else none)

/-- RDMA_WRITE: data under a live key lands; any other is refused with a remote access error and fails its queue pair (R362). -/
def rdmaWrite (c : Chip) (ctrl qp key off : Nat) (data : List Byte) : Chip :=
  match c.ds.cmds.find? fun k => k.ctrl == ctrl && k.qp == qp && k.sent && k.cmd.key == key && decide (k.cmd.len ≠ 0 ∧ off + data.length ≤ k.cmd.len) with
  | some k => c.landData k off data
  | none => ((c.onDs fun d => { d with rdmaRefused := bump48 d.rdmaRefused 1 }).send (.rdmaNak ctrl qp)).connectionLost ctrl

/-! ### Ethernet frames (R352) -/

def dsMac (c : Chip) (p : Nat) : List Byte := (toBytes 6 (c.imp.dsMacBase + (p - 12))).reverse
/-- The port's address as 16 bytes, and whether it is IPv4. -/
def dsIp (c : Chip) (p : Nat) : Bool × List Byte :=
  let v := c.imp.dsIps.getD (p - 12) 0
  (v % 256 == 4, (toBytes 18 v).drop 1 |>.take 16)

/-- The local queue pair number of a controller's queue pair (the model's, PRESUMED, log entry 22). -/
def qpn (ctrl qp : Nat) : Nat := 1 + 65 * ctrl + qp

/-- A queue pair slowed, if it is the one named. -/
def slowPair (n k : Nat) (i : Nat) (q : QPair × Nat) : QPair :=
  if qpn i q.2 = n ∧ 1 < q.1.rate then { q.1 with rate := 1 + Config.freeBits 10 k % (q.1.rate - 1) } else q.1

/-- A congestion notification lowers the rate of the queue pair it names; how far is left open (DESIGN CHOICE, log entry 26). -/
def congestion (c : Chip) (n : Nat) : Chip :=
  let (k, c1) := c.fresh
  c1.onDs fun d => { d with ctrls := d.ctrls.map fun (i, x) => (i, { x with qps := x.qps.zipIdx.map (slowPair n k i) }) }

/-- Internet checksum of bytes. -/
def inetSum (bs : List Byte) : Nat :=
  let s := ((List.range ((bs.length + 1) / 2)).map fun i => beAt (bs ++ [0]) (2 * i) 2).sum
  let f := s % p2 16 + s / p2 16
  let g := f % p2 16 + f / p2 16
  0xFFFF - g

def beBytes (n x : Nat) : List Byte := (toBytes n x).reverse

/-- The ARP reply for the port's own address. -/
def arpReply (c : Chip) (p : Nat) (f : List Byte) : Chip :=
  let (v4, ip) := c.dsIp p
  let own := ip.drop 12
  if v4 && beAt f 20 2 == 1 && (f.drop 38).take 4 == own then
    c.send (.eth p ((f.drop 22).take 6 ++ c.dsMac p ++ beBytes 2 0x0806 ++ beBytes 2 1 ++ beBytes 2 0x0800 ++ [6, 4] ++ beBytes 2 2
      ++ c.dsMac p ++ own ++ (f.drop 22).take 10))
  else c.onDs fun d => { d with ethDiscard := bump48 d.ethDiscard 1 }

/-- The neighbour advertisement for the port's own address. -/
def ndReply (c : Chip) (p : Nat) (f : List Byte) : Chip :=
  let (v4, own) := c.dsIp p
  if !v4 && (f.drop 62).take 16 == own then
    let src := (f.drop 22).take 16
    let unspec := src.all (· == 0)
    let dst := if unspec then beBytes 16 (0xFF02 * p2 112 + 1) else src
    let body (sum : Nat) : List Byte := [136, 0] ++ beBytes 2 sum ++ beBytes 4 (if unspec then 0x20000000 else 0x60000000) ++ own ++ [2, 1] ++ c.dsMac p
    let sum := inetSum (own ++ dst ++ beBytes 4 32 ++ beBytes 4 58 ++ body 0)
    c.send (.eth p ((f.drop 6).take 6 ++ c.dsMac p ++ beBytes 2 0x86DD ++ beBytes 4 0x60000000 ++ beBytes 2 32 ++ [58, 255] ++ own ++ dst ++ body sum))
  else c.onDs fun d => { d with ethDiscard := bump48 d.ethDiscard 1 }

/-- What follows the IP header of a RoCEv2 packet: its UDP payload, or none for another packet. -/
def rocePayload (f : List Byte) : Option (List Byte) :=
  let udp := match beAt f 12 2 with
    | 0x0800 => if byteAt f 23 = 17 then f.drop (14 + byteAt f 14 % 16 * 4) else []
    | 0x86DD => if byteAt f 20 = 17 then f.drop 54 else []
    | _ => []
  if beAt udp 2 2 = 4791 then some (udp.drop 8) else none

/-- A frame for the port's own address. -/
def toPort (c : Chip) (p : Nat) (f : List Byte) : Bool :=
  let (v4, ip) := c.dsIp p
  f.take 6 == c.dsMac p && (if v4 then beAt f 12 2 == 0x0800 && (f.drop 30).take 4 == ip.drop 12 else beAt f 12 2 == 0x86DD && (f.drop 38).take 16 == ip)

/-- A priority flow control frame pauses the RoCEv2 priority of its port, or lets it go on (R351). The end of a pause by its time is DEDUCED,
DEDUCED, log entry 93. -/
def flowControl (c : Chip) (p : Nat) (f : List Byte) : Chip :=
  let prio := c.imp.dsPfcPrio
  if nbits (beAt f 16 2) prio 1 = 0 then c
  else (c.onDs fun d => { d with paused := d.paused.set (p - 12) (beAt f (18 + 2 * prio) 2 != 0) }).drainCmds

/-- ETH_FRAME: RoCEv2 of reliable connections is taken, a congestion notification lowers a rate, priority flow control acts on its priority, ARP
and neighbour discovery for the own address are answered, and every other frame is discarded and counted. -/
def ethFrame (c : Chip) (p : Nat) (f : List Byte) : Chip :=
  let drop (c : Chip) : Chip := c.onDs fun d => { d with ethDiscard := bump48 d.ethDiscard 1 }
  if !c.ethPortUp p then c
  else match rocePayload f with
    | some bth =>
      if !c.toPort p f then drop c
      else if byteAt bth 0 = 0x81 then c.congestion (beAt bth 5 3)
      else if byteAt bth 0 < 32 then c
      else drop c
    | none =>
      if beAt f 12 2 = 0x0806 then c.arpReply p f
      else if beAt f 12 2 = 0x86DD ∧ byteAt f 20 = 58 ∧ byteAt f 54 = 135 then c.ndReply p f
      else if beAt f 12 2 = 0x8808 ∧ beAt f 14 2 = 0x0101 then c.flowControl p f
      else drop c

/-! ### Resets (R380, R417) -/

/-- Channels of some readers close: the current sample gets an END record of STREAM_ERROR and queued samples are discarded. -/
def resetReaders (c : Chip) (rs : List Nat) : Chip :=
  (c.ds.chans.filter fun (_, x) => rs.contains x.reader).foldl (fun c (ch, x) =>
    let c1 := match x.samples with
      | s :: _ => c.putRecord ch (endHeader ch 2 s.j s.s x.frames x.decoded x.dropped) []
      | [] => c
    (c1.loseAppenders ch).dropChannel ch) c

/-- An Ethernet port goes down: the connections on it are lost (R296, R363). -/
def ethPortDown (c : Chip) (p : Nat) : Chip :=
  c.ds.ctrls.foldl (fun c (k, x) => if x.qps.any fun q => q.port == p then c.connectionLost k else c) c

/-- The Ethernet ports go down: every connection is lost (R363). -/
def ethDown (c : Chip) : Chip :=
  let c1 := c.onDs fun d => { d with ethUp := List.replicate 4 false, paused := List.replicate 4 false }
  c1.ds.ctrls.foldl (fun c (k, _) => c.connectionLost k) c1

def ethUpAll (c : Chip) : Chip := c.onDs fun d => { d with ethUp := List.replicate 4 true }

/-- Jobs in progress of some operations complete with a status; their commands are withdrawn. -/
def loseJobs (c : Chip) (op : Nat → Bool) (st : Status) : Chip :=
  c.ds.jobs.foldl (fun c (s, j) => if j.stage ≠ .ended && op (jobOp j.word) then
    (c.rejectJob s st).onDs fun d => { d with cmds := d.cmds.filter fun k => k.slot != some s, waits := d.waits.filter fun w => w.slot != s } else c) c

/-- The readers and the demultiplexer are reset: every channel closes, and the jobs that load or close channels end (R380, R417). -/
def closeChannels (c : Chip) : Chip := (c.loseJobs (fun op => op == 5 || op == 7) .channelLost).resetReaders (List.range 8)

/-- A reset that takes in F3: every channel and controller closes, and every job in progress ends (R380). -/
def dsReset (c : Chip) : Chip :=
  let c1 := (c.loseJobs (fun op => op == 5 || op == 6 || op == 7) .channelLost).loseJobs (fun _ => true) .targetLost
  let c2 := c1.resetReaders (List.range 8)
  (c2.ds.ctrls.foldl (fun c (k, _) => c.dropCtrl k) c2).onDs fun d => { d with cmds := [], waits := [] }

end Chip

end Sys2Proof.Machine
end

