-- ==== Sys2Proof/Machine/Sources.lean ====
section
/-!
DEFINITION. What the counters of engines count (R498, R501), and how running totals survive the reset of an engine.
-/
namespace Sys2Proof.Machine

/-- Engines of a forme. -/
def formeEngines (f : Nat) : List Nat := (List.range 16).map (16 * f + ·)

/-- The scope of a counter (R498). -/
inductive Scope
  | engine (e : Nat)
  | forme (f : Nat)
  | device
  deriving DecidableEq, Repr

/-- A domain lies within a counter's scope. -/
def Scope.holds (s : Scope) (d : Dom) : Bool :=
  match s with
  | .engine e => d == .engine e
  | .forme f => d.within (.forme f)
  | .device => true

/-- What a source gives: a running total, or a gauge's present value. -/
inductive Source
  | total (n : Nat)
  | gauge (n : Nat)
  | absent
  deriving DecidableEq, Repr

def Source.add (a b : Source) : Source :=
  match a, b with
  | .total x, .total y => .total (x + y)
  | .gauge x, .gauge y => .gauge (x + y)
  | .absent, y => y
  | x, .absent => x
  | x, _ => x

namespace Chip

/-- The engine sources in code order (R501). -/
def engineSource (c : Chip) (e code arg : Nat) : Source :=
  let x := c.engine e
  let k := x.cnt
  match code with
  | 0x000 => .total x.pacer.toNat | 0x001 => .total x.ticks.toNat
  | 0x002 => .total x.nan.toNat | 0x003 => .total x.infs.toNat
  | 0x004 => .total k.strokes16.toNat | 0x005 => .total k.strokes8.toNat
  | 0x006 => .total k.strokesInt.toNat | 0x007 => .total k.strokesSplit.toNat
  | 0x008 => .total k.vectorSteps.toNat
  | 0x009 => .total k.pltHit.toNat | 0x00A => .total k.pltMiss.toNat
  | 0x00B => .total k.refetch.toNat | 0x00C => .total k.dropped.toNat | 0x00D => .total k.trackRefused.toNat
  | 0x00E => .gauge (x.cache.filter fun l => l.td == arg).length
  | 0x00F => .gauge ((c.fab.reqs.filter fun r => r.engine == e && r.answer.isNone && !r.queued).length + (c.host.reqs.filter fun r => r.engine == e && r.answer.isNone).length
      + ((c.engine e).banks.map fun p => p.2.queued + p.2.held).sum)
  | 0x010 => .total k.bytesHbm.toNat | 0x011 => .total k.bytesBroadsheet.toNat | 0x012 => .total k.bytesHost.toNat
  | _ => .absent

/-- A source of engines summed over those of a list that are in service (R498). -/
def engineSum (c : Chip) (es : List Nat) (code arg : Nat) : Source :=
  (es.filter fun e => !(c.engine e).retired).foldl (fun b e => b.add (c.engineSource e code arg)) .absent

end Chip

/-- A counter takes an increment, noting a wrap (R500). -/
def SelCnt.bump (k : SelCnt) (n : Nat) : SelCnt :=
  { k with value := k.value + BitVec.ofNat 48 n, wrapped := k.wrapped || decide (p2 48 ≤ k.value.toNat + n) }

/-- A counter of a running total takes what the total has grown by. -/
def SelCnt.follow (k : SelCnt) (total : Nat) : SelCnt := { k.bump ((total + p2 48 - k.base) % p2 48) with base := total % p2 48 }

namespace Chip

/-- The selectable counters of a scope, and their replacement. -/
def selOf (c : Chip) (s : Scope) : List SelCnt :=
  match s with
  | .engine e => (c.engine e).sel
  | .forme f => c.cnts.forme.getD f []
  | .device => c.cnts.device
def setSel (c : Chip) (s : Scope) (l : List SelCnt) : Chip :=
  match s with
  | .engine e => c.onEngine e fun x => { x with sel := l }
  | .forme f => { c with cnts := { c.cnts with forme := c.cnts.forme.set f l } }
  | .device => { c with cnts := { c.cnts with device := l } }

/-- The counters of wider scope that sum an engine source over engines follow it up to `old`, and from now on count from `c`, whose engines
have been zeroed or retired since: what they have counted stays (R211, R498). -/
def carryCounts (c old : Chip) : Chip :=
  let carry (es : List Nat) (k : SelCnt) : SelCnt :=
    if 0x100 ≤ k.source then k
    else match old.engineSum es k.source k.arg, c.engineSum es k.source k.arg with
      | .total t, .total t' => { k.follow t with base := t' % p2 48 }
      | _, _ => k
  { c with cnts := { c.cnts with
    forme := c.cnts.forme.zipIdx.map fun (l, f) => l.map (carry (formeEngines f)),
    device := c.cnts.device.map (carry (List.range 64)) } }

end Chip

end Sys2Proof.Machine
end

