-- ==== Sys2Proof/Machine/EngineResets.lean ====
section
/-!
DEFINITION. The steps of the engine reset (R416), shared by the engine reset, the retirement of an engine and the wider resets.
-/
namespace Sys2Proof.Machine

/-- The overseer as the source of an event (R483). -/
def srcOvs : Nat := 72

/-- Bed-domain codes of R417: the forme a domain belongs to; the readers span all formes. -/
def bedForme (d : Nat) : Option Nat := if d < 16 then some (d / 4) else if d < 20 then some (d - 16) else none

/-- Bit of CLK_STATUS of a bed domain (R407). -/
def bedClk (d : Nat) : Nat := if d < 20 then d + 1 else 24


namespace Chip

/-! ### Episodes end (R479) -/

def endEpisodes (c : Chip) (hit : Episode → Bool) : Chip := { c with episodes := c.episodes.filter fun ep => !hit ep }

/-- Handling that a finished reset has carried out. -/
def dropHandlings (c : Chip) (hit : Dom → Severity → Bool) : Chip :=
  { c with handlings := c.handlings.filter fun h => match h with
      | .handle lv d => !hit d lv
      | .stop => true }

/-! ### The engine reset (R416) -/

/-- The cache part is invalidated: the engine is withdrawn from the home directories, and a WATCH with ARG 0 withdraws each watch of the
engine that stands at another device, whether its line is still cached or not (R195, R196, R203). -/
def emptyCache (c : Chip) (e : Nat) : Chip :=
  let c1 := (c.engine e).cache.foldl (fun (c : Chip) (l : PLine) =>
    if c.ownHbm l.space.toNat l.addr then c.dirWithdraw e (l.addr % p2 48 / 128) else c) c
  let c2 := (c.engine e).watched.foldl (fun (c : Chip) a =>
    c.request fabUnit 0 0 (a >>> 48) { opcode := opWatch, dst := a >>> 48, addr := a % p2 48, unit := e, arg := 0 } []) c1
  c2.onEngine e fun x => { x with cache := [], watched := [] }

/-- Slugs leave a queue without a record; the answers to their requests are forgotten. -/
def discard (c : Chip) (e : Nat) (q : QId) (gone : QEntry → Bool) : Chip :=
  (((c.engine e).queue q).filter gone).foldl (fun c ent => (c.clearRemote e ent.id).dropEntry e q ent.id) c

/-- A member part that the reset discards ends on its leading engine with FLUSHED (R394). -/
def flushParts (c : Chip) (e : Nat) : Chip :=
  let x := c.engine e
  let parts : List (Nat × Nat) := x.callParts.map (fun p => (p.leader, p.id)) ++ x.calls.filterMap (·.leader)
  let c1 := c.onEngine e fun x => { x with calls := [], callParts := [] }
  parts.foldl (fun (c : Chip) (l, id) =>
    settleCalls 65 l (c.onEngine l fun x => { x with calls := x.calls.map fun k =>
      if k.id = id ∧ k.leader.isNone then { k with parts := k.parts.erase e, faults := k.faults ++ [(e, .flushed)] } else k })) c1

/-- What an engine keeps through its reset: its place in service, its division, its ticker, its rings, the bed-die slugs begun, its requests
at HBM banks, and the spike region as last set (R214, R226, R416). The completion ring is the default one again (R182). -/
def resetState (imp : Imposition) (e : Nat) (x : Engine) : Engine :=
  { retired := x.retired, retCause := x.retCause, parked := x.parked, stopAdm := x.stopAdm,
    qFabric := x.qFabric, qHost := x.qHost, qUpdate := x.qUpdate, nextId := x.nextId, adm := x.adm, seed := x.seed,
    cring := { base := imp.cringBase + e * 0x100000 + 0x40, log2 := imp.cringLog2 },
    nextCall := x.nextCall, ring := x.ring, split := x.split, cache := x.cache, recency := x.recency,
    spike := { x.spike with frame := [], opens := 0 }, ticker := x.ticker, tickRate := x.tickRate,
    rested := x.rested, banks := x.banks, sel := x.sel.map fun k => { k with value := 0, base := 0 } }

/-- The engine reset (R416) with the effects of R119, R153, R164, R182, R196, R211 and R226. The shadows of the engine are zeroed, and LATCHED
falls with them (R515; DESIGN CHOICE, log entry 90). -/
def resetEngine (c : Chip) (e : Nat) : Chip :=
  -- steps 1 and 2: what has not begun on the bed die is discarded, what runs on the face die is cut
  let faces : List QId := QId.all.filter fun q => !q.onBed
  let beds : List QId := QId.all.filter fun q => q.onBed
  let c1 := faces.foldl (fun (c : Chip) q => c.discard e q fun _ => true) c
  let c2 := beds.foldl (fun (c : Chip) q => c.discard e q fun ent => !ent.began) c1
  let c3 := match (c2.engine e).core with
    | some ent => c2.clearRemote e ent.id
    | none => c2
  -- step 3: the records of the others are discarded
  let mute (l : List QEntry) : List QEntry := l.map fun ent => { ent with mute := true, call := none }
  let c4 := (c3.emptyCache e).onEngine e fun x => { x with qFabric := mute x.qFabric, qHost := mute x.qHost, qUpdate := mute x.qUpdate }
  let c4 := c4.onCtx e fun k => { k with entry := { k.entry with mute := true, call := none } }
  -- step 5
  let c5' := c4.flushParts e
  let c5 := c5'.onEngine e (resetState c.imp e)
  let buf := bufferOf e
  let c6 : Chip := { c5 with
    mem := c5.mem.fillRegion (.range buf (buf + 0x800000)) none, ue := c5.ue.filter fun a => !(decide (buf ≤ a ∧ a < buf + 0x800000)),
    prf := { c5.prf with seen := c5.prf.seen.map fun p => if p.1 = e then (e, 0, 0) else p },
    cnts := { c5.cnts with engSh := c5.cnts.engSh.set e { sel := List.replicate 8 0 } } }
  ((c6.carryCounts c5').storeLocal (some e) (cellsAt ((c6.engine e).cring.base - 8) (List.replicate 8 0))).1

/-- Step 6: line 1 of the ring's control block reads HALTED with FLUSHED. -/
def flushRing (c : Chip) (e : Nat) : Chip :=
  if c.host.inForce ∧ (c.engine e).ring.isSome then c.haltRing e Status.flushed.code else c

/-- The span of a request lies within a reset in progress (R415): KIND and TARGET as R423 codes them. -/
def spanBusy (c : Chip) (kind target : Nat) : Bool :=
  let forme (f : Nat) : Bool := c.rst.device || c.rst.formes.any fun r => r.forme == f
  match kind with
  | 1 => c.rst.engines.contains target || forme (target / 16)
  | 2 => forme target
  | 3 => (c.rst.beds.any fun b => b.code == target) || (match bedForme target with
    | some f => forme f
    | none => c.rst.device)
  | _ => c.rst.device

/-- Requested resets whose spans are no longer in reset set DONE (R415, R424). -/
def settleReset (c : Chip) : Chip :=
  let going := c.rst.wants.filter fun w => c.spanBusy w.kind w.target
  if going.length = c.rst.wants.length then c else { c with rst := { c.rst with wants := going, done := true } }

/-- An engine reset is asked for: through RST_REQ, or as the handling of a unit error. -/
def engineAsked (c : Chip) (e : Nat) : Bool := c.rst.engines.contains e || c.handlings.contains (.handle .fatalEngine (.engine e))

/-- Steps 1 to 6 of R416. The coding of the cause in the record is not given; that word is a free value (DESIGN CHOICE, log entry 6). -/
def engineSteps (c : Chip) (e : Nat) : Chip :=
  let (n, c1) := ((c.resetEngine e).flushRing e).fresh
  c1.raise evEngineReset .note e (.engine e) [Config.freeWord n]

end Chip

end Sys2Proof.Machine
end

