-- ==== Sys2Proof/Machine/Bonds.lean ====
section
/-!
DEFINITION. Bundles and their tests (R383 to R394): lane maps, flits, the bond monitor's pattern test and what it does about a lane, and
the retirement of an engine. A bundle of an engine is numbered 0 to 179: 0–67 F2F inbound data, 68–101 F2F outbound data, 102–109 F2F
control, 110–175 TSV data, 176–179 TSV control (DESIGN CHOICE, log entry 27).
-/
namespace Sys2Proof.Machine

/-- The kinds of bundles (R383). -/
inductive BundleKind
  | f2fIn | f2fOut | f2fCtl | tsvData | tsvCtl
  deriving DecidableEq, Repr

def bundleKind (i : Nat) : BundleKind :=
  if i < 68 then .f2fIn else if i < 102 then .f2fOut else if i < 110 then .f2fCtl else if i < 176 then .tsvData else .tsvCtl

def bundlesPerEngine : Nat := 180

def BundleKind.isCtl (k : BundleKind) : Bool := k == .f2fCtl || k == .tsvCtl
def BundleKind.isTsv (k : BundleKind) : Bool := k == .tsvData || k == .tsvCtl
/-- Physical lanes (R384): the signals and two spares. -/
def BundleKind.lanes (k : BundleKind) : Nat := if k.isTsv then 66 else 34
/-- Logical signals, parity with them (R383). -/
def BundleKind.signals (k : BundleKind) : Nat := k.lanes - 2
/-- Working lanes that HALF needs (R384). -/
def BundleKind.halfNeeds (k : BundleKind) : Nat := if k.isTsv then 32 else 16
/-- CAUSE of a retirement (R399). -/
def BundleKind.cause (k : BundleKind) : Nat := match k with | .f2fCtl => 1 | .tsvCtl => 2 | .tsvData => 4 | _ => 3

/-- Lane numbers in rising order without repeats. -/
def addLanes (out new : List Nat) : List Nat := (List.range 66).filter fun i => out.contains i || new.contains i

/-! ### Lane maps and flits (R384, R385) -/

/-- The modes of a data bundle. A control bundle is FULL or LOST. -/
inductive BundleMode
  | full | half | lost
  deriving DecidableEq, Repr

def Bundle.mode (b : Bundle) : BundleMode := if b.lost then .lost else if b.half then .half else .full

/-- The working physical lanes, rising. -/
def Bundle.working (b : Bundle) (k : BundleKind) : List Nat := (List.range k.lanes).filter fun l => !b.out.contains l

/-- The lane map: the physical lane of each logical signal, or of each lane that carries a flit's 16 beats in HALF (R384). -/
def Bundle.laneMap (b : Bundle) (k : BundleKind) : List Nat :=
  match b.mode with
  | .full => (b.working k).take k.signals
  | .half => (b.working k).take k.halfNeeds
  | .lost => []

/-- Beats of one flit: 8, and 16 in HALF (R383, R384). -/
def Bundle.beats (b : Bundle) : Nat := match b.mode with | .full => 8 | .half => 16 | .lost => 0

/-- The sender sends a flit while the replay buffer has room. -/
def FlitLink.send (l : FlitLink) : FlitLink := if l.replay.length < 4 then { l with next := l.next + 1, replay := l.replay ++ [l.next] } else l

/-- A flit arrives: one whose CRC-16 fails is discarded, and one that has been accepted is not accepted again. -/
def FlitLink.arrive (l : FlitLink) (n : Nat) (crcOk : Bool) : FlitLink := if crcOk && n == l.got then { l with got := n + 1 } else l

/-- The receiver acknowledges what it has accepted. -/
def FlitLink.ack (l : FlitLink) : FlitLink := { l with replay := l.replay.filter fun n => decide (l.got ≤ n) }

/-- The sender replays every flit that is not acknowledged (R385; step 4 of R391). -/
def FlitLink.resume (l : FlitLink) : FlitLink := (l.replay.foldl (fun (l : FlitLink) n => l.arrive n true) l).ack

/-- A flit whose CRC-16 fails at its first arrival. -/
def FlitLink.crcFail (l : FlitLink) : FlitLink := ((l.send).arrive l.next false).resume

/-! ### The pattern test (R389) -/

inductive LaneState
  | sound | weak | failing
  deriving DecidableEq, Repr

/-- The error-free window of a lane, in hundredths of the unit interval. -/
def windowOf (t : BundleTest) (l : Nat) : Nat := (t.windows.getD l 100).toNat

/-- A lane's state as the test decides it. -/
def laneState (t : BundleTest) (l : Nat) : LaneState :=
  if bit t.centre l || decide (windowOf t l < 10) then .failing else if windowOf t l < 25 then .weak else .sound

def lanesIn (t : BundleTest) (k : BundleKind) (s : LaneState) : List Nat := (List.range k.lanes).filter fun l => laneState t l == s

/-- The lane of a list with the lowest error-free window, the first of equals (R393; the choice among equals is a DESIGN CHOICE, log
entry 118). -/
def narrowestLane (t : BundleTest) (ls : List Nat) : Nat :=
  (ls.drop 1).foldl (fun m l => if windowOf t l < windowOf t m then l else m) (ls.headD 0)

/-- What the monitor does about failing lanes (R390). -/
inductive Repair
  | nothing | remapped | halved | lost
  deriving DecidableEq, Repr

/-- The mode that the remaining lanes allow, and the action (R384, R390). -/
def Bundle.repair (b : Bundle) (k : BundleKind) (failing : List Nat) : Bundle × Repair :=
  let new := failing.filter fun i => !b.out.contains i
  if new.isEmpty then (b, .nothing)
  else
    let out := addLanes b.out new
    let b1 := { b with out, weak := b.weak.filter fun i => !out.contains i }
    if !b.half && decide (out.length ≤ 2) then (b1, .remapped)
    else if k.isCtl then ({ b1 with lost := true }, .lost)
    else if k.halfNeeds ≤ k.lanes - out.length then ({ b1 with half := true }, if b.half then .remapped else .halved)
    else ({ b1 with half := false, lost := true }, .lost)

namespace Chip

def bundleKey (e i : Nat) : Nat := e * 256 + i
def bundle (c : Chip) (e i : Nat) : Bundle := Tab.get {} c.bonds (bundleKey e i)

/-- What a pattern test of the bundle measures now. -/
def condition (c : Chip) (e i : Nat) : BundleTest := Tab.get { bundle := 0 } c.lanes (bundleKey e i)

/-- The lanes of a bundle are as a test has measured them, until another measures them anew (DESIGN CHOICE, log entry 114). -/
def measure (c : Chip) (e : Nat) (t : BundleTest) : Chip := { c with lanes := Tab.set (bundleKey e t.bundle.toNat) { t with bundle := 0 } c.lanes }

/-- The lanes in use that fail the test of the map in force. -/
def mapFails (c : Chip) (e i : Nat) : List Nat := (lanesIn (c.condition e i) (bundleKind i) .failing).filter fun l => !(c.bundle e i).out.contains l

/-- The bundle's part of the bond map changes; the map is written to the folio store at the overseer's loop (R391, R399). -/
def setBundle (c : Chip) (e i : Nat) (b : Bundle) : Chip :=
  let c1 : Chip := { c with bonds := Tab.set (bundleKey e i) b c.bonds, evr := { c.evr with mapDirty := true } }
  { c1 with bondChanged := if c1.bondChanged.contains e then c1.bondChanged else c1.bondChanged ++ [e] }

/-- An event of a bond monitor (R483, R502). -/
def bondEvent (c : Chip) (e code : Nat) (sev : Severity) : Chip := c.raise code sev (74 + e / 16) (.engine e) []

/-- The retirement of an engine (R394): it is reset and out of service, its slice and buffers are unmapped, its ring reads FLUSHED, and
ENGINE_RETIRED carries the engine, the bundle, the lane and the cause. -/
def retire (c : Chip) (e i lane : Nat) : Chip :=
  if (c.engine e).retired then c
  else
    let cause := (bundleKind i).cause
    let c0 := c.engineSteps e
    let c1 := (c0.onEngine e fun x => { x with retired := true, retCause := cause }).carryCounts c0
    let c2 := c1.raise evEngineRetired .fatalEngine (74 + e / 16) (.engine e)
      [BitVec.ofNat 64 e, BitVec.ofNat 64 i, BitVec.ofNat 64 lane, BitVec.ofNat 64 cause]
    let c3 : Chip := { c2 with
      rst := { c2.rst with engines := c2.rst.engines.filter (· != e) },
      evr := { c2.evr with mapDirty := true },
      bondChanged := if c2.bondChanged.contains e then c2.bondChanged else c2.bondChanged ++ [e] }
    let c4 := (c3.dropHandlings fun d lv => d == .engine e && lv == .fatalEngine).endEpisodes fun ep => ep.dom == .engine e && ep.level == .fatalEngine
    c4.settleReset

/-- A bundle changes its lane map or mode: its sender stops at a flit boundary, both sides switch, and unacknowledged flits are replayed
(steps 1, 2 and 4 of R391). The map goes to the folio store at the overseer's loop (step 5). -/
def changeMap (c : Chip) (e i : Nat) (b : Bundle) : Chip := c.setBundle e i { b with flits := b.flits.resume }

/-- Failing lanes of a bundle are mapped out together with all that the test of the new map finds failing: step 3 of R391, and the
second failure of R392, join the change, so that no lane of the map in force fails (R390 to R392). -/
def failLanes (c : Chip) (e i : Nat) (failing : List Nat) : Chip :=
  let b := c.bundle e i
  let all := failing ++ c.mapFails e i
  if (c.engine e).retired || b.lost then c
  else match b.repair (bundleKind i) all with
    | (_, .nothing) => c
    | (b1, .remapped) => (c.changeMap e i b1).bondEvent e evLaneRemapped .corrected
    | (b1, .halved) => (c.changeMap e i b1).unitError evBundleHalf .deferred (74 + e / 16) (.engine e) none []
    | (b1, .lost) => (c.changeMap e i b1).retire e i ((all.filter fun l => !b.out.contains l).headD 0)

/-- A weak lane: mapped out as a failing one while a spare is free and BOND_PROACTIVE is 1, else left in use and recorded once
(R390). DEDUCED, log entry 61. -/
def weakLane (c : Chip) (e i lane : Nat) : Chip :=
  let b := c.bundle e i
  if (c.engine e).retired || b.lost || b.out.contains lane then c
  else if c.imp.bondProactive && decide (b.out.length < 2) then (c.failLanes e i [lane]).bondEvent e evLaneWeak .note
  else if b.weak.contains lane then c
  else (c.setBundle e i { b with weak := addLanes b.weak [lane] }).bondEvent e evLaneWeak .note

/-- A pattern test of a bundle as its lanes are (R389, R390). -/
def patternTest (c : Chip) (e i : Nat) : Chip :=
  if bundlesPerEngine ≤ i then c
  else (lanesIn (c.condition e i) (bundleKind i) .weak).foldl (fun (c : Chip) l => c.weakLane e i l) (c.failLanes e i (c.mapFails e i))

/-- The tests of an engine's bundles at start-up and at its reset (R389). A bundle that is not listed is sound. -/
def testEngine (c : Chip) (e : Nat) : Chip :=
  (c.lanes.filter fun p => p.1 / 256 == e).foldl (fun (c : Chip) p => c.patternTest e (p.1 % 256)) c

end Chip

end Sys2Proof.Machine
end

