-- ==== Sys2Proof/Machine/Resets.lean ====
section
/-!
DEFINITION. Resets (chapter 14): the engine reset, the bed-domain, forme and device resets, the reset request register, parking, and
the loss of a clock's lock.
-/
namespace Sys2Proof.Machine

namespace Chip

/-- ENGINE_RESET: the steps of R416 on an engine for which a reset is asked; its bundles are tested before it takes slugs again (R389). -/
def engineReset (c : Chip) (e : Nat) : Chip :=
  if !c.engineAsked e || (c.engine e).retired then c
  else
    let c3 := c.engineSteps e
    let c4 : Chip := { c3 with rst := { c3.rst with engines := c3.rst.engines.filter (· != e) } }
    let c5 := (c4.dropHandlings fun d lv => d == .engine e && lv == .fatalEngine).endEpisodes fun ep => ep.dom == .engine e && ep.level == .fatalEngine
    (c5.settleReset.testEngine e).pumpE e

/-! ### Recovery (R186, R418) -/

/-- Slugs held for a recovered domain may run again: code 0 to 20 for a bed domain, 100 + forme for a forme reset. -/
def release (c : Chip) (code : Nat) : Chip :=
  let free (l : List QEntry) : List QEntry := l.map fun ent => if ent.held = some code then { ent with held := none } else ent
  let c1 : Chip := { c with
    engines := c.engines.map fun (x : Engine) => { x with
      qMove := free x.qMove, qMatrix := free x.qMatrix, qVector := free x.qVector, qFabric := free x.qFabric, qHost := free x.qHost,
      qSpike := free x.qSpike, qUpdate := free x.qUpdate } }
  -- correctors reissue the gets and puts that met PATH_RESET (R264); the data service its writes (R380)
  let c2 := (List.range 64).foldl (fun (c : Chip) e => match c.ctxOf e with
    | none => c
    | some x => ([1, 2] ++ x.chunks.flatMap fun (k : CorChunk) => [getKey k.idx, putKey k.idx]).foldl (fun (c : Chip) key => c.reissue e x.entry.id key) c) c1
  c2.dsReissue.advanceLoads

/-! ### Bed-domain resets (R417) -/

/-- The controller of a stack is reset: no unit's request stands in its queues any more, each having completed with PATH_RESET (R210, R417). -/
def dropBanks (c : Chip) (m : Nat) : Chip :=
  let keep (t : Tab BankQ) : Tab BankQ := t.filter fun p => p.1 / 4096 != m
  let held (t : Tab BankQ) : Nat := ((t.filter fun p => p.1 / 4096 == m).map fun p => p.2.queued).sum
  let c := c.notePath (some m) (((c.engines.map fun (x : Engine) => held x.banks).sum) + (c.cors.map fun (k : Corrector) => held k.banks).sum)
  { c with engines := c.engines.map (fun (x : Engine) => { x with banks := keep x.banks }),
           cors := c.cors.map fun (k : Corrector) => { k with banks := keep k.banks } }.releaseReqs

/-- Contents of an HBM stack are lost: undefined bytes, invalidated platen lines, lost spill records (R225, R417). -/
def loseStack (c : Chip) (m : Nat) : Chip :=
  let (n, c1) := c.fresh
  let gone (a : Nat) : Bool := decide (a < hbmTop) && stackOf a == m
  let lines := (c1.dir.map DirEntry.line).filter fun l => gone (l * 128)
  let c2 := lines.foldl (fun (c : Chip) l => c.dirInvalidate l none) (c1.loseSpilled gone)
  { c2 with mem := c2.mem.fillRegion (.stack m) (some n), ue := c2.ue.filter fun a => !gone a }

/-- The requests of this device that a port's output queue holds and has not sent complete with PATH_RESET (R417). -/
def refuseUnsent (c : Chip) (p : Nat) : Chip :=
  let own (o : OutFrame) : Option Nat := match o.frame.thdr with
    | some w => if o.via.isNone && fld w 47 32 == c.fab.deviceId && decide (fld w 7 0 < 0x10) then some (fld w 143 128) else none
    | none => none
  let txns := (c.port p).outq.filterMap own
  let c1 := c.onPort p fun q => { q with outq := q.outq.filter fun o => (own o).isNone }
  (c.fab.reqs.filter fun r => !r.queued && r.answer.isNone && txns.contains r.txn).foldl (fun (c : Chip) r => (c.answerReq r .pathReset []).notePath (some (16 + p / 4))) c1

/-- A fabric unit and its link layers are reset: what it holds and has not sent, and its slugs in progress, complete with PATH_RESET, and its
ports go down (R417). DEDUCED, log entry 37. -/
def resetFab (c : Chip) (f : Nat) : Chip :=
  let c1 := (List.range 4).foldl (fun (c : Chip) i =>
    let p := 4 * f + i
    ((c.refuseUnsent p).portGoesDown p).onPort p fun q => { q with badLanes := [], retrain := false, retry := [], outq := [], txSeq := 0, rxSeq := 0 }) c
  let c2 := c1.onFab fun b => { b with inbox := b.inbox.filter fun d => match d.port with
    | some p => p / 4 != f
    | none => true }
  let c3 := (formeEngines f).foldl (fun (c : Chip) e => ((c.engine e).qFabric.filter (·.began)).foldl (fun (c : Chip) ent =>
    let c1 := ((c.dropColl e ent.id).onFab fun b => { b with a2as := b.a2as.filter fun k => !(k.engine == e && k.entry == ent.id) }).endSlug e
      .fabric ent .pathReset ent.prog.done0
    c1.onEngine e fun x => { x with qFabric := x.qFabric.map fun q => if q.id = ent.id then { q with held := some (16 + f) } else q }) c) c2
  if f = 3 then c3.ethDown else c3

/-- Step 1 of R417 at the overseer's loop: the domain is marked and its edge refuses requests. -/
def markBeds (c : Chip) : Chip :=
  let asked := (c.rst.beds.filter fun b => b.stage == .asked).map (·.code)
  { c with domDown := c.domDown ++ asked,
           rst := { c.rst with beds := c.rst.beds.map fun b =>
             if b.stage = .asked then { b with stage := .marked, before := Tab.get 0 c.rst.pathCount b.code } else b } }

/-- Stacks enter or leave self-refresh. -/
def refreshOf (c : Chip) (m n : Nat) (on : Bool) : Chip :=
  { c with pwr := { c.pwr with selfRefresh := c.pwr.selfRefresh.zipIdx.map fun ((r : Bool), i) => if decide (m ≤ i ∧ i < m + n) then on else r } }

/-- Bits of CLK_STATUS whose PLLs a reset stops, or has relocked (R407). -/
def unlock (c : Chip) (bits : BitVec 25) : Chip := { c with rst := { c.rst with locked := c.rst.locked &&& ~~~bits } }
def relock (c : Chip) (bits : BitVec 25) : Chip := { c with rst := { c.rst with locked := c.rst.locked ||| bits } }

/-- BED_RESET: steps 2 and 3 of R417 on a marked domain, whose PLL then relocks. -/
def bedReset (c : Chip) (d : Nat) : Chip :=
  match c.rst.beds.find? fun b => b.code == d && b.stage == .marked with
  | none => c
  | some b =>
    let c1 :=
      if d < 16 then
        let c := c.dropBanks d
        if b.clear then (c.loseStack d).raise evHbmContentLost .deferred (74 + d / 4) (.forme (d / 4)) [BitVec.ofNat 64 d] else c.refreshOf d 1 true
      else if d < 20 then c.resetFab (d - 16)
      else c.closeChannels
    { (c1.unlock ((1 : BitVec 25) <<< bedClk d)) with rst := { (c1.unlock ((1 : BitVec 25) <<< bedClk d)).rst with
        beds := c1.rst.beds.map fun x => if x.code = d ∧ x.stage = .marked then { x with stage := .waiting } else x } }

/-- READY of a bed domain (steps 4 and 5 of R417). -/
def bedReady (c : Chip) (d : Nat) : Chip :=
  if !(c.rst.beds.any fun b => b.code == d && b.stage == .waiting) then c
  else
    let c1 := c.relock ((1 : BitVec 25) <<< bedClk d)
    let c2 : Chip := { c1 with
      domDown := c1.domDown.filter (· != d),
      rst := { c1.rst with beds := c1.rst.beds.map fun x => if x.code = d ∧ x.stage = .waiting then { x with stage := .ready } else x } }
    let c3 := if decide (d < 16) && c2.pwr.stop != .stopped then c2.refreshOf d 1 false else c2
    ((if d = 19 then c3.ethUpAll else c3).release d)

/-- Step 6 of R417 at the overseer's loop, with the number of requests that the domain has refused since its reset began. The bed die that holds the
domain is the record's source (DEDUCED, log entry 113). -/
def endBeds (c : Chip) : Chip :=
  let ready := c.rst.beds.filter fun b => b.stage == .ready
  let c1 : Chip := { c with rst := { c.rst with
    beds := c.rst.beds.filter fun b => b.stage != .ready, done := c.rst.done || !ready.isEmpty } }
  ready.foldl (fun (c : Chip) b =>
    let (src, dom) : Nat × Dom := match bedForme b.code with
      | some f => (74 + f, .forme f)
      | none => (srcOvs, .device)
    c.raise evBedReset .note src dom [BitVec.ofNat 64 b.code, if b.clear then 1 else 0, (Tab.get 0 c.rst.pathCount b.code - b.before).setWidth 64])
    c1.settleReset

/-! ### Parking (R405, R419) -/

/-- The engines of a forme park or leave the parked state. -/
def park (c : Chip) (f : Nat) (on : Bool) : Chip :=
  { c with engines := c.engines.zipIdx.map fun ((x : Engine), e) => if e / 16 = f then { x with parked := on, rested := x.rested || on } else x }

def onPower (c : Chip) (f : Nat) (g : FormePower → FormePower) : Chip := { c with pwr := { c.pwr with formes := modifyAt g c.pwr.formes f } }
def formePower (c : Chip) (f : Nat) : FormePower := c.pwr.formes.getD f {}

/-- PRESS_LOW: the undervoltage detector parks the forme's engines; the episode is recorded (R405). DEDUCED, log entry 63. -/
def pressLow (c : Chip) (f : Nat) : Chip :=
  if (c.formePower f).low then c
  else ((c.onPower f fun p => { p with low := true }).park f true).raise evPressLow .corrected (74 + f) (.forme f) []

/-- PRESS_RECOVER: the engines continue where they stopped, unless a reset, a trip or an orderly stop still holds them (R405, R445). -/
def pressRecover (c : Chip) (f : Nat) : Chip :=
  if !(c.formePower f).low then c
  else
    let c1 := c.onPower f fun p => { p with low := false }
    if c1.formeDown.contains f || c1.pwr.thermtrip || c1.pwr.stop == .stopped then c1
    else (formeEngines f).foldl (fun (c : Chip) e => c.pumpE e) (c1.park f false)

/-! ### Forme and device resets (R420 to R422) -/

/-- The forme's engines have completed or failed every admitted slug. -/
def drained (c : Chip) (f : Nat) : Bool :=
  (formeEngines f).all fun e => let x := c.engine e
    x.retired || (x.entries.isEmpty && x.core.isNone && x.finishing.isEmpty)

/-- Admission stops on every engine of a forme (step 1 of R420). -/
def stopForme (c : Chip) (f : Nat) : Chip :=
  { c with engines := c.engines.zipIdx.map fun ((x : Engine), e) => if e / 16 = f then { x with stopAdm := true } else x }

/-- The correctors of a forme abandon every context: their shards are undefined (R278). -/
def abandonContexts (c : Chip) (f : Nat) : Chip :=
  (c.cor f).ctxs.foldl (fun (c : Chip) x =>
    let t := ctxTds x
    (c.scramble [t.master, t.st0, t.st1, t.work]).dropCtx x.engine) c

/-- A forme that goes down without self-refresh loses the contents of its four stacks and of its platen scratch parts (R421). -/
def loseForme (c : Chip) (f : Nat) : Chip :=
  let c2 := (List.range 4).foldl (fun (c : Chip) i => c.loseStack (4 * f + i)) c
  let (n, c3) := c2.fresh
  let lo := sliceOf (16 * f)
  let hi := lo + 16 * 0x2000000
  { c3 with mem := c3.mem.fillRegion (.range lo hi) (some n), ue := c3.ue.filter fun a => !(decide (lo ≤ a ∧ a < hi)) }

/-- CLK_STATUS bits of the domains that a forme reset relocks: its stacks, its fabric unit, and CD-PLT (R407, R420). -/
def formeClocks (f : Nat) : BitVec 25 := ((0xF : BitVec 25) <<< (4 * f + 1)) ||| ((1 : BitVec 25) <<< (17 + f)) ||| ((1 : BitVec 25) <<< 23)

/-- Steps 3 to 6 of R420 for one forme: its engines park, its bed die is reset, its engines are reset, each with its record. A forced reset (R421) loses
the contents of its stacks and of its platen scratch parts. -/
def formeGoesDown (c : Chip) (f : Nat) (forced : Bool) : Chip :=
  let c1 := (c.stopForme f).park f true
  let c2 := (if forced then c1.loseForme f else c1.refreshOf (4 * f) 4 true).unlock (formeClocks f)
  -- a stack's CLEAR that this reset takes over still loses the contents (R415, R417)
  let c2 := (c2.rst.beds.filter fun b => b.clear && bedForme b.code == some f && (b.stage == .asked || b.stage == .marked)).foldl
    (fun (c : Chip) b => (c.loseStack b.code).raise evHbmContentLost .deferred (74 + f) (.forme f) [BitVec.ofNat 64 b.code]) c2
  let c2 := (List.range 4).foldl (fun (c : Chip) i => c.dropBanks (4 * f + i)) c2
  let c3 := (c2.abandonContexts f).resetFab f
  let c4 := if f = 3 then c3.dsReset else c3.resetReaders [2 * f, 2 * f + 1]
  let c5 := (formeEngines f).foldl (fun (c : Chip) e =>
    if (c.engine e).retired then c
    else [QId.fabric, .host, .update].foldl (fun (c : Chip) q => c.discard e q fun _ => true) (c.engineSteps e)) c4
  { c5 with
    formeDown := if c5.formeDown.contains f then c5.formeDown else c5.formeDown ++ [f],
    domDown := c5.domDown.filter fun d => bedForme d != some f,
    handlings := c5.handlings.filter fun h => match h with
      | .handle lv (.engine e) => !(e / 16 == f && decide (lv.code ≤ 4))
      | .handle lv (.forme g) => !(g == f && decide (lv.code ≤ 4))
      | _ => true,
    rst := { c5.rst with
      engines := c5.rst.engines.filter fun e => e / 16 != f, beds := c5.rst.beds.filter fun b => bedForme b.code != some f,
      formes := c5.rst.formes.map fun r => if r.forme = f then { r with stage := .waiting, forced } else r } }

/-- The further effects of a device reset (R422): a host loss, the loss of every spill region (R226), the statistics (R236), HOLD and
the slugs it holds (R238), the exponent tables (R257), the job seed (R275). -/
def deviceEffects (c : Chip) : Chip :=
  let c1 := c.hostLoss
  { c1 with
    engines := c1.engines.map fun (x : Engine) => { x with spike := {}, seed := 0 },
    cors := c1.cors.map fun (k : Corrector) => { k with layers := [] },
    pwr := { c1.pwr with kFixed := false, leases := c1.pwr.leases.filter fun l => l.left.isSome },
    prf := { c1.prf with mean := 0, var := 0, n := 0, hold := false, layerNan := [], layerInf := [], seen := [] },
    -- the ids are set anew (R289): FAB_DEVICE_ID, or none in ASSIGNED mode
    fab := { c1.fab with
      deviceId := if c1.imp.fabAssigned then 0 else c1.imp.fabDeviceId, idValid := !c1.imp.fabAssigned,
      routes := if c1.imp.fabAssigned && c1.fab.ownRoute && c1.fab.idValid then Tab.erase c1.fab.deviceId c1.fab.routes else c1.fab.routes },
    seed := 0 }

/-- The formes of a device reset go on together: once each has drained or is forced, all go down; one whose own reset has come further waits for
the others (R415, R422). -/
def deviceStep (c : Chip) : Chip :=
  let rs := c.rst.formes.filter fun r => r.stage != .waiting
  -- a requested reset waits while a sensor reads 95 °C or more (R445)
  let hot : Bool := (c.rst.wants.any fun w => w.kind == 4) && c.pwr.stop != .none_ &&
    (c.pwr.temps ++ c.pwr.hbm).zipIdx.any fun (t, i) => decide (1272 ≤ t ∧ t ≤ 1712) && !c.pwr.badSensors.contains i
  if !c.rst.device || hot || rs.isEmpty then c
  else if rs.all fun (r : FormeReset) => c.drained r.forme || r.forced then
    (rs.foldl (fun (c : Chip) r => c.formeGoesDown r.forme r.forced) c).deviceEffects
  else c

/-- One forme's reset goes on: step 1 stops admission and arms the watchdog; once the engines have drained, or at once when forced,
the forme goes down (R420, R421, R423). -/
def formeStep (c : Chip) (f : Nat) : Chip :=
  match c.rst.formes.find? fun r => r.forme == f with
  | none => c
  | some r =>
    let c1 := if r.stage = .asked then
        { (c.stopForme f) with rst := { c.rst with formes := c.rst.formes.map fun x => if x.forme = f then { x with stage := .quiescing } else x } }
      else c
    if r.stage = .waiting then c
    else if c1.rst.device then c1.deviceStep
    else if r.forced || c1.drained f then c1.formeGoesDown f r.forced else c1

/-- A forme reset is asked for; it takes over narrower resets (R415). -/
def askForme (c : Chip) (f : Nat) (forced : Bool) : Chip :=
  let c0 : Chip := { c with rst := { c.rst with engines := c.rst.engines.filter fun e => e / 16 != f } }
  let c1 := c0.dropHandlings fun d lv => (d == .forme f || (match d with | .engine e => e / 16 == f | _ => false)) && lv.code ≤ 4
  if c1.rst.formes.any fun r => r.forme == f then
    { c1 with rst := { c1.rst with formes := c1.rst.formes.map fun r =>
        if r.forme = f ∧ r.stage ≠ .waiting then { r with forced := r.forced || forced } else r } }
  else { c1 with rst := { c1.rst with formes := c1.rst.formes ++ [{ forme := f, forced }] } }

/-- A device reset is asked for: the four formes together. -/
def askDevice (c : Chip) (forced : Bool) : Chip :=
  let c1 := (List.range 4).foldl (fun (c : Chip) f => c.askForme f forced) c
  { c1 with rst := { c1.rst with device := true } }

/-- FORME_RESET: the reset that was asked for, or that a unit error's handling asks for, goes on. -/
def formeReset (c : Chip) (f : Nat) : Chip :=
  let c1 := if c.handlings.contains (.handle .fatalForme (.forme f)) then c.askForme f false else c
  c1.formeStep f

/-- DEVICE_RESET: the device reset that was asked for goes on. -/
def deviceReset (c : Chip) : Chip :=
  if c.rst.device then (List.range 4).foldl (fun (c : Chip) f => c.formeStep f) c else c

/-- QUIESCE_WATCHDOG: a forme that has not parked in time is forced (R421). -/
def quiesceWatchdog (c : Chip) (f : Nat) : Chip :=
  if c.rst.formes.any fun r => r.forme == f && r.stage == .quiescing then
    let c1 : Chip := { c with rst := { c.rst with formes := c.rst.formes.map fun r => if r.forme = f then { r with forced := true } else r } }
    c1.formeStep f
  else c

/-- A forme's bed die is up again (steps 5 to 7 of R420): its engines leave the parked state, its FORME_RESET is recorded, and what
waited for it runs again. In a device reset it waits for formes that have not come as far (R422). -/
def formeReady (c : Chip) (f : Nat) : Chip :=
  match c.rst.formes.find? fun r => r.forme == f && r.stage == .waiting with
  | none => c
  | some r =>
    if c.rst.device && c.rst.formes.any (fun x => x.stage != .waiting) then c
    else
    let c1 : Chip := { c with
      formeDown := c.formeDown.filter (· != f),
      engines := c.engines.zipIdx.map fun ((x : Engine), e) =>
        if e / 16 = f then { x with parked := (c.formePower f).low || (c.pwr.stop == .stopped && !c.rst.device), stopAdm := c.pwr.stop != .none_ && !c.rst.device } else x,
      rst := { c.rst with
        formes := c.rst.formes.filter fun x => x.forme != f, forced := r.forced || (c.rst.device && decide (c.rst.formes.length < 4) && c.rst.forced) } }
    let c1 := c1.relock (if (c1.rst.formes.any fun x => x.stage == .waiting) then formeClocks f &&& ~~~((1 : BitVec 25) <<< 23) else formeClocks f)
    let c2 := c1.raise evFormeReset (if r.forced then .fatalForme else .note) (74 + f) (.forme f) [if r.forced then 1 else 0]
    let c3 := c2.endEpisodes fun ep => ep.dom.within (.forme f) && decide (3 ≤ ep.level.code) && decide (ep.level.code ≤ 4)
    -- the bed domains that the reset took over have recovered with it (R415)
    let c4 := ([4 * f, 4 * f + 1, 4 * f + 2, 4 * f + 3, 16 + f, 100 + f] : List Nat).foldl (fun (c : Chip) d => c.release d)
      (if f = 3 then c3.ethUpAll else c3)
    -- every bundle is tested before the engines take slugs (R389, R420)
    let c4 := (formeEngines f).foldl (fun (c : Chip) e => c.testEngine e)
      (if c4.pwr.stop = .stopped ∧ !c4.rst.device then c4 else c4.refreshOf (4 * f) 4 false)
    let last := c4.rst.device && c4.rst.formes.isEmpty
    let c5 : Chip := if last then
        { c4 with episodes := [], handlings := [], rst := { c4.rst with device := false, locked := c4.rst.locked ||| 1 },
                  pwr := { c4.pwr with stop := .none_, deviceStop := false, forceAll := false, drainMs := 0 },
                  ds := { c4.ds with stopped := false } }
      else c4
    let c6 := if f = 0 then c5.settleReset.hostResume else c5.settleReset
    if c6.rst.device then c6
    else (if last then List.range 64 else formeEngines f).foldl (fun (c : Chip) e => c.pumpE e) c6

/-- BED_DOMAIN_READY: the READY of a bed domain, code 0 to 20, or the end of forme reset 100 + f. -/
def domainReady (c : Chip) (code : Nat) : Chip := if code < 100 then c.bedReady code else c.formeReady (code - 100)

/-! ### RST_REQ (R415, R423) -/

/-- The reset that an accepted request starts. -/
def startRequested (c : Chip) (kind target : Nat) (clear force : Bool) : Chip :=
  match kind with
  | 1 => { c with rst := { c.rst with engines := c.rst.engines ++ [target] } }
  | 2 => c.askForme target force
  | 3 => { c with rst := { c.rst with beds := c.rst.beds ++ [{ code := target, clear := clear && decide (target < 16) }] } }
  | _ => c.askDevice force

/-- A request widens a requested reset in progress: it is of a wider kind, and that reset lies within its span (R415). -/
def widens (c : Chip) (kind target : Nat) : Bool :=
  c.rst.wants.any fun w => match kind with
    | 2 => (w.kind == 1 && w.target / 16 == target) || (w.kind == 3 && bedForme w.target == some target)
    | 4 => w.kind != 4
    | _ => false

/-- A write of RST_REQ that its control level lets through. -/
def rstReq (c : Chip) (kind target : Nat) (clear force : Bool) : Chip :=
  let range := match kind with | 1 => 64 | 2 => 4 | 3 => 21 | _ => 64
  if kind = 0 ∨ 4 < kind then c
  else
    let note (c : Chip) (result : Nat) : Chip := { c with rst := { c.rst with kind, target, result } }
    let want (c : Chip) (busy : Bool) : Chip := { c with rst := { c.rst with wants := c.rst.wants ++ [{ kind, target, busy }] } }
    if range ≤ target then
      if c.rst.busy then c else { (note c 2) with rst := { (note c 2).rst with done := true } }
    else if kind = 1 ∧ (c.engine target).retired then { (note c 1) with rst := { (note c 1).rst with done := true } }
    else if c.spanBusy kind target then
      -- absorbed: BUSY holds until the absorbing engine, forme or device reset completes
      let bedOnly := kind = 3 ∧ (c.rst.beds.any fun b => b.code == target) ∧ !c.rst.device
      want (note c 1) !bedOnly
    else if c.rst.busy ∧ !c.widens kind target then c
    else
      want ((note c 0).startRequested kind target clear force) (kind != 3)

/-! ### Loss of lock (R408) -/

/-- The forced bed-domain reset that a lost lock starts at once on the data plane (R408); for a stack it behaves as under CLEAR. A reset
of the domain that has not lost the contents yet takes the CLEAR over and goes on, a forme reset that has begun already spans the domain, and
a domain that serves again after a reset is reset anew. DEDUCED, log entry 60. -/
def lockReset (c : Chip) (code : Nat) : Chip :=
  let clear := decide (code < 16)
  let before := Tab.get 0 c.rst.pathCount code
  if c.rst.beds.any fun b => b.code == code && b.stage != .ready then
    let asked := c.rst.beds.any fun b => b.code == code && b.stage == .asked
    { c with domDown := if asked then c.domDown ++ [code] else c.domDown,
             rst := { c.rst with beds := c.rst.beds.map fun b =>
               if b.code = code ∧ b.stage = .asked then { b with clear, stage := .marked, before }
               else if b.code = code ∧ b.stage = .marked then { b with clear } else b } }
  else if c.rst.formes.any fun r => r.stage == .waiting && bedForme code == some r.forme then c
  else
    { c with domDown := c.domDown ++ [code], rst := { c.rst with beds := c.rst.beds ++ [{ code, clear, stage := .marked, before }] } }

/-- A forme whose clocks have stopped goes down by force; one that is down already loses what it has kept (R408, R421). -/
def forceForme (c : Chip) (f : Nat) : Chip :=
  if c.rst.formes.any fun r => r.forme == f && r.stage == .waiting && !r.forced then
    let c1 := c.loseForme f
    { c1 with rst := { c1.rst with formes := c1.rst.formes.map fun r => if r.forme = f then { r with forced := true } else r } }
  else c.formeStep f

/-- A PLL of domain `d` (a bit of R407) on forme `f` loses lock. The domain's own reset begins at once, and the loss is a unit error on
that forme, or on the device for CD-BASE. DEDUCED, log entry 60. -/
def clockLost (c : Chip) (d f : Nat) : Chip :=
  if d = 22 ∨ 24 < d then c
  else
    let home := if d = 0 ∨ d = 21 then 0 else if d < 17 then (d - 1) / 4 else if d < 21 then d - 17 else f
    let c1 : Chip := { c with rst := { c.rst with
      locked := c.rst.locked &&& ~~~((1 : BitVec 25) <<< d), lostLock := c.rst.lostLock ||| ((1 : BitVec 25) <<< d) } }
    let bed := d ≠ 0 ∧ d ≠ 21 ∧ d ≠ 23
    let c2 := if bed then c1.lockReset (if d = 24 then 20 else d - 1) else c1
    let c3 := if d = 0 then c2.unitError evClkLockLost .fatalDevice (74 + home) .device none [BitVec.ofNat 64 d]
      else c2.unitError evClkLockLost .fatalForme (74 + home) (.forme home) none [BitVec.ofNat 64 d]
    if d = 0 then
      let c4 := (c3.dropHandlings fun _ _ => true).askDevice true
      (List.range 4).foldl (fun (c : Chip) f => c.forceForme f) c4
    else if d = 23 then
      (List.range 4).foldl (fun (c : Chip) f => (c.askForme f true).forceForme f) c3
    else if d = 21 then c3.onHost fun h => { h with l0 := false, training := false, refclk := false }
    else c3

end Chip

end Sys2Proof.Machine
end

