-- ==== Sys2Proof/Machine/Stack.lean ====
section
/-!
DEFINITION. Vertical connections (chapter 13): the commands of the bond monitor, control-bundle errors, the registers of the stack, and the
wear of the bonds.
-/
namespace Sys2Proof.Machine

namespace Chip

/-- BOND_TEST: a pattern test of a data bundle of an engine in service. A control bundle is not tested in service (R389): its lanes are
then as measured, and its next test finds them. DEDUCED, log entry 61. -/
def bondTest (c : Chip) (e : Nat) (t : BundleTest) : Chip :=
  let i := t.bundle.toNat
  if (c.engine e).retired || decide (bundlesPerEngine ≤ i) then c
  else if (bundleKind i).isCtl then c.measure e t
  else (c.measure e t).patternTest e i

/-- 1 ms in CD-OVS cycles of 5 ns. -/
def msCycles : Nat := 200000

/-- More than 16 CRC failures of a bundle lie within 1 ms (R389). -/
def crcBurstDue (c : Chip) (e i : Nat) : Bool := decide (16 < ((c.bundle e i).crcTimes.filter fun t => decide (c.ovs.time ≤ t + msCycles)).length)

/-- CRC_BURST: the immediate test of a data bundle after more than 16 CRC failures within 1 ms (R389). -/
def crcBurst (c : Chip) (e : Nat) (t : BundleTest) : Chip :=
  let i := t.bundle.toNat
  if (bundleKind i).isCtl || !c.crcBurstDue e i then c
  else
    let b : Bundle := { c.bundle e i with crcTimes := [] }
    Chip.bondTest { c with bonds := Tab.set (bundleKey e i) b c.bonds } e t

/-- FLIT_CRC_FAIL: the flit is discarded and replayed, and counted (R385). -/
def flitCrcFail (c : Chip) (e i : Nat) : Chip :=
  let b := c.bundle e i
  if (c.engine e).retired || b.lost || (bundleKind i).isCtl || decide (bundlesPerEngine ≤ i) then c
  else
    let recent := b.crcTimes.filter fun t => decide (c.ovs.time ≤ t + msCycles)
    let b1 : Bundle := { b with crcFails := b.crcFails + 1, crcTimes := (c.ovs.time :: recent).take 17, flits := b.flits.crcFail }
    { c with bonds := Tab.set (bundleKey e i) b1 c.bonds }

/-- The bundles of a kind in the order of the flits' weighted rotation: a FULL bundle takes two turns of a round, a HALF one one, a LOST
one none (R385). -/
def rotation (c : Chip) (e : Nat) (k : BundleKind) : List Nat :=
  let group := (List.range bundlesPerEngine).filter fun i => bundleKind i == k
  (group.filter fun i => (c.bundle e i).mode != .lost) ++ group.filter fun i => (c.bundle e i).mode == .full

/-- 24 hours in CD-OVS cycles of 5 ns (R393). -/
def dayCycles : Nat := 24 * 3600 * 200000000

/-- The control bundles of an engine: eight F2F and four TSV (R383). -/
def ctlBundles : List Nat := (List.range bundlesPerEngine).filter fun i => (bundleKind i).isCtl

/-- BOND_CTRL_ERROR: a parity error on a control bundle raises a unit error at FATAL_ENGINE; the engine is reset unless the error asks
for a wider reset, its twelve control bundles are tested, and an error without a failing lane is counted as transient: the second within
24 hours maps out the lane in use with the narrowest window (R393). DEDUCED, log entry 72. -/
def bondCtrlError (c : Chip) (e i : Nat) (tests : List BundleTest) : Chip :=
  if (c.engine e).retired || (c.bundle e i).lost || !(bundleKind i).isCtl || decide (bundlesPerEngine ≤ i) then c
  else
    let c0 := (tests.filter fun t => (bundleKind t.bundle.toNat).isCtl).foldl (fun (c : Chip) t => c.measure e t) c
    let c1 := c0.unitError evBondCtrlError .fatalEngine (74 + e / 16) (.engine e) none []
    let c2 := ctlBundles.foldl (fun (c : Chip) j => c.patternTest e j) (c1.engineReset e)
    if ctlBundles.any fun j => !(c0.mapFails e j).isEmpty then c2
    else
      let b := c2.bundle e i
      let again : Bool := match b.transient with
        | some t => decide (c2.ovs.time ≤ t + dayCycles)
        | none => false
      let c3 : Chip := { c2 with bonds := Tab.set (bundleKey e i) { b with transient := some c2.ovs.time } c2.bonds }
      let c4 := c3.bondEvent e evBondCtrlTransient .note
      if again then c4.failLanes e i [narrowestLane (c4.condition e i) (b.working (bundleKind i))] else c4

/-! ### STK_BOND_ENG and STK_RATE_ENG (R399, R400) -/

/-- The bundles of an engine that the bond map lists. -/
def bundlesOf (c : Chip) (e : Nat) : List (BundleKind × Bundle) :=
  (c.bonds.filter fun p => p.1 / 256 == e).map fun p => (bundleKind (p.1 % 256), p.2)

def sat255 (n : Nat) : Nat := min n 255

def stkBond (c : Chip) (e : Nat) : W64 :=
  let x := c.engine e
  let bs := c.bundlesOf e
  let sum (p : BundleKind → Bool) (f : Bundle → Nat) : Nat := ((bs.filter fun q => p q.1).map fun q => f q.2).sum
  let half (p : BundleKind → Bool) : Nat := (bs.filter fun q => p q.1 && q.2.half).length
  BitVec.ofNat 64 ((if x.retired then 1 else 0) + x.retCause <<< 1
    + sat255 (sum (fun k => !k.isTsv) fun b => b.out.length) <<< 4 + sat255 (sum (·.isTsv) fun b => b.out.length) <<< 12
    + half (fun k => !k.isTsv) <<< 20 + half (·.isTsv) <<< 27 + sat255 (sum (fun _ => true) fun b => b.weak.length) <<< 34
    + (if c.bondChanged.contains e then 1 else 0) <<< 63)

/-- Capacities in GB/s; a HALF bundle counts half and a LOST one nothing (R383, R385, R400). -/
def stkRate (c : Chip) (e : Nat) : W64 :=
  if (c.engine e).retired then 0
  else
    let lost (k : BundleKind) (full half : Nat) : Nat :=
      ((c.bundlesOf e).map fun q => if q.1 = k then (if q.2.lost then full else if q.2.half then full - half else 0) else 0).sum
    BitVec.ofNat 64 ((68 * 30 - lost .f2fIn 30 15) / 2 + ((34 * 30 - lost .f2fOut 30 15) / 2) <<< 11 + ((66 * 62 - lost .tsvData 62 31) / 4) <<< 21)

end Chip

/-! ### Wear (R396 to R398) -/

def swing : Nat := 160

/-- `wear_track` of R396, on a reading in units of 0.125 °C. The part's first reading sets the extreme (R397). -/
def Wear.track (w : Wear) (t : Nat) : Wear :=
  let half (w : Wear) (s : Nat) : Wear := { w with wear := w.wear + s * s / 200 }
  if !w.started then { w with started := true, ext := t }
  else match w.dir with
    | .none_ =>
      if swing ≤ (if w.ext < t then t - w.ext else w.ext - t) then { w with dir := if w.ext < t then .up else .down, cand := t } else w
    | .up =>
      if w.cand < t then { w with cand := t }
      else if swing ≤ w.cand - t then { half w (w.cand - w.ext) with ext := w.cand, cand := t, dir := .down }
      else w
    | .down =>
      if t < w.cand then { w with cand := t }
      else if swing ≤ t - w.cand then { half w (w.ext - w.cand) with ext := w.cand, cand := t, dir := .up }
      else w

namespace Chip

def wearOf (c : Chip) (f : Nat) : Wear := c.wear.getD f {}

/-- The wear index in reference cycles has reached a share of STK_WEAR_RATED (R398). -/
def wearReached (c : Chip) (w : Wear) (pct : Nat) : Bool := decide (c.imp.wearRated * 1024 * pct ≤ w.wear * 100)

/-- One threshold of R398, acted on once. -/
def wearPass (c : Chip) (f pct : Nat) (passed : Wear → Bool) (mark : Wear → Wear) (code : Nat) (sev : Severity) : Chip :=
  let w := c.wearOf f
  if passed w || !c.wearReached w pct then c
  else { (c.raise code sev (74 + f) (.forme f) []) with wear := modifyAt mark c.wear f }

/-- The overseer's loop on one forme: the tracker takes the highest junction reading, and thresholds newly reached are acted on. -/
def wearTrack (c : Chip) (f t : Nat) : Chip :=
  let c1 : Chip := { c with wear := modifyAt (fun w => w.track t) c.wear f }
  let c2 := c1.wearPass f c.imp.wearWarnPct (·.warn) (fun w => { w with warn := true }) evWearWarn .note
  let c3 := c2.wearPass f c.imp.wearAlarmPct (·.alarm) (fun w => { w with alarm := true }) evWearAlarm .deferred
  c3.wearPass f 100 (·.limit) (fun w => { w with limit := true }) evWearLimit .deferred

/-- STK_WEAR (R401). -/
def stkWear (c : Chip) (f : Nat) : W64 :=
  let w := c.wearOf f
  let b (x : Bool) : Nat := if x then 1 else 0
  BitVec.ofNat 64 (w.wear % p2 48 + b w.warn <<< 48 + b w.alarm <<< 49 + b w.limit <<< 50
    + (match w.dir with | .none_ => 0 | .up => 1 | .down => 2) <<< 51)

end Chip

end Sys2Proof.Machine
end

