-- ==== Sys2Proof/Machine/Power.lean ====
section
/-!
DEFINITION. Power capping and thermal management (chapter 15), the regulator interface of R521, and the droop detectors.
-/
namespace Sys2Proof.Machine

/-! ### Readings (R442): codes of (T + 64 °C) × 8 -/

def degrees (t : Int) : Nat := ((t + 64) * 8).toNat
/-- A sensor that reads outside −40 to 150 °C is faulty. -/
def readingOk (t : Nat) : Bool := decide (degrees (-40) ≤ t ∧ t ≤ degrees 150)
/-- Index of a sensor among the 112 junction and platen sensors; stack Hm is 112 + m (R472). -/
def hbmSensor (m : Nat) : Nat := 112 + m

def clampW (w : Nat) : Nat := min 2500 (max 1000 w)

/-- The highest cap level (R436). -/
def capTop : Nat := 240

/-- CRC-4 of a PVID frame: x⁴ + x + 1 over bits [11:0], initial value 0 (R521); bit 11 goes first (PRESUMED, log entry 30). -/
def crc4 (w : Nat) : Nat :=
  (List.range 12).foldl (fun c i =>
    let b := (nbits c 3 1) ^^^ (nbits w (11 - i) 1)
    ((c <<< 1) % 16) ^^^ (if b = 1 then 3 else 0)) 0

/-- The frame of a code under a sequence number. -/
def pvidFrame (code seq : Nat) : BitVec 32 :=
  let w := code % 256 + (seq % 16) <<< 8
  BitVec.ofNat 32 (w + crc4 w <<< 12)

/-- What the units of the engines in service have counted since `old`. -/
def Slack.since (new old : Slack) : Slack :=
  { cycles := new.cycles - old.cycles, recv := new.recv - old.recv, throttle := new.throttle - old.throttle,
    array := new.array - old.array, busy := new.busy - old.busy }

/-- A fraction in 16 bits: 65,536 × n ÷ d rounded down. A field of 16 bits holds no whole, and an interval without cycles has no fraction:
a free value (R431; DESIGN CHOICE, log entry 96). -/
def frac16 (free n d : Nat) : Nat := if n < d then n * 65536 / d else free % p2 16

namespace Chip

def onPwr (c : Chip) (g : Power → Power) : Chip := { c with pwr := g c.pwr }

/-- A reading in force: in range, and of a sensor not found faulty. -/
def reading (c : Chip) (i : Nat) : Option Nat :=
  if c.pwr.badSensors.contains i then none
  else
    let t := if i < 112 then c.pwr.temps[i]? else c.pwr.hbm[i - 112]?
    match t with
    | some t => if readingOk t then some t else none
    | none => none

def highest (c : Chip) (is : List Nat) : Option Nat :=
  is.foldl (fun b i => match c.reading i, b with
    | some t, some u => some (max t u)
    | some t, none => some t
    | none, b => b) none

def junctions (f : Nat) : List Nat := (List.range 24).map (28 * f + ·)
def formeSensors (f : Nat) : List Nat := (List.range 28).map (28 * f + ·) ++ (List.range 4).map fun i => hbmSensor (4 * f + i)

/-- More than four of a forme's junction sensors are faulty: it is held at its thermal floor (R442). -/
def thermFloor (c : Chip) (f : Nat) : Bool := decide (4 < ((junctions f).filter c.pwr.badSensors.contains).length)

/-- A forme's ceiling and its thermal level (R435, R442, R443). -/
def ceiling (c : Chip) (f : Nat) : Nat :=
  let p := c.formePower f
  if c.thermFloor f then 0 else min p.therm p.ceil
def thermLevel (c : Chip) (f : Nat) : Nat := if c.thermFloor f then max 128 (c.formePower f).level else (c.formePower f).level
/-- The stroke gating level of a forme (R433). -/
def gating (c : Chip) (f : Nat) : Nat := max c.pwr.cap (c.thermLevel f)

/-! ### Sensor faults and modes (R439, R441) -/

/-- A rail or temperature sensor is found faulty. -/
def sensorFault (c : Chip) (src : Nat) (dom : Dom) : Chip :=
  let c1 := (c.raise evSensorFault .deferred src dom []).onPwr fun p => { p with sensor := true }
  match c1.pwr.mode with
  | .normal => c1.onPwr fun p => { p with kFixed := true }
  | .measuredOnly => (c1.raise evFloor .deferred srcOvs .device []).onPwr fun p => { p with mode := .floor, disagree := 0, cap := capTop }
  | .floor => c1

/-- MEASURED_ONLY: five consecutive disagreeing windows (R441). -/
def measuredOnly (c : Chip) : Chip :=
  if c.pwr.mode = .normal ∧ 5 ≤ c.pwr.disagree then
    (c.raise evMeasuredOnly .deferred srcOvs .device []).onPwr fun p => { p with mode := .measuredOnly, moEntered := true, disagree := 0 }
  else c

/-- PWR_CTL.REARM (R441). -/
def rearm (c : Chip) : Chip :=
  match c.pwr.mode with
  | .normal => c
  | .measuredOnly =>
    if 100 ≤ c.pwr.agree then (c.raise evMoRearmed .note srcOvs .device []).onPwr fun p => { p with mode := .normal, disagree := 0 }
    else c.raise evRearmRefused .note srcOvs .device []
  | .floor => c.raise evRearmRefused .note srcOvs .device []

/-! ### The controlled power and its target (R440) -/

/-- The latest device estimate E (R438). -/
def estimate (c : Chip) : Nat := (c.pwr.formes.map FormePower.est).sum + Config.powerFixed

/-- k of R440 as a fraction: M ÷ Ē of the last complete window, clamped to 1.00 to 1.15. -/
def Power.k (p : Power) : Nat × Nat :=
  if p.kFixed then (115, 100)
  else if p.est = 0 ∨ p.meas ≤ p.est then (1, 1)
  else if 115 * p.est < 100 * p.meas then (115, 100)
  else (p.meas, p.est)

/-- P and T over a common denominator. -/
def controlled (c : Chip) : Nat × Nat :=
  match c.pwr.mode with
  | .normal => let (n, d) := Power.k c.pwr; (c.estimate * n, c.pwr.eff * d)
  | _ => (100 * c.pwr.meas, 95 * c.pwr.eff)

def aboveTarget (c : Chip) : Bool := decide (c.controlled.2 < c.controlled.1)
/-- P < pct % of T. -/
def belowTarget (c : Chip) (pct : Nat) : Bool := decide (100 * c.controlled.1 < pct * c.controlled.2)

/-- The floor of R436. -/
def atFloor (c : Chip) : Bool :=
  c.pwr.formes.all (fun p => p.step == 0) && c.pwr.nRead == 32 && c.pwr.nPlt == 32 && c.pwr.nBase == 32 && decide (capTop ≤ c.pwr.cap)

/-- The fast loop's rule: how far the cap level rises, and how far it falls within the bound of 16, the manual leaves to the
hardware; both are free values (R435; DESIGN CHOICE, log entry 6). -/
def adjustCap (c : Chip) : Chip :=
  let g := c.pwr.cap
  if c.aboveTarget then
    if capTop ≤ g then c
    else
      let (n, c1) := c.fresh
      c1.onPwr fun p => { p with cap := g + 1 + (Config.freeWord n).toNat % (capTop - g) }
  else if c.belowTarget 97 ∧ 0 < g then
    let (n, c1) := c.fresh
    c1.onPwr fun p => { p with cap := g - (1 + (Config.freeWord n).toNat % min 16 g) }
  else c

/-- The coefficient and leakage tables in force: the PWR_COEFF section of the running image for this stepping, or none (R438, R466). -/
def pwrTable (c : Chip) : List Byte :=
  match (imgHeader c.ovs.image).table.find? fun s => s.kind == 3 && s.stepping == Config.stepping.toNat with
  | some s => s.data c.ovs.image
  | none => []

/-- The event counts of a forme in the order of R438: strokes in four formats, vector steps, bytes at the platen, at HBM and across the gutters, the
bytes of its ports, and what its readers do, which only the command gives. -/
def activity (c : Chip) (f : Nat) : List Nat :=
  let engines (g : EngCnt → BitVec 48) : Nat := ((formeEngines f).map fun e => (g (c.engine e).cnt).toNat).sum
  let perStack (l : List (BitVec 48)) : Nat := ((List.range 4).map fun i => (l.getD (4 * f + i) 0).toNat).sum
  [engines (·.strokes16), engines (·.strokes8), engines (·.strokesInt), engines (·.strokesSplit), engines (·.vectorSteps),
    128 * (engines (·.pltHit) + engines (·.pltMiss)), perStack c.cnts.hbmRd + perStack c.cnts.hbmWr, perStack c.cnts.gutter,
    ((List.range 4).map fun i => (c.port (4 * f + i)).txBytes.toNat + (c.port (4 * f + i)).rxBytes.toNat).sum, 0]

/-- The events of the last 100 µs: what a count has grown by, or all of one that a reset has zeroed meanwhile, and the events that the command
adds (DESIGN CHOICE, log entry 29). -/
def events (now seen extra : List Nat) : List Nat :=
  now.zipIdx.map fun ((n : Nat), i) => (if n < seen.getD i 0 then n else n - seen.getD i 0) + extra.getD i 0

/-- A forme's activity estimate in W, rounded down: each count times its coefficient, scaled by (V ÷ 0.75 V)² for V = 0.6 V + 12.5 mV × step
(R432), and the leakage term (R438). -/
def formeEst (table : List Byte) (events : List Nat) (step tj : Nat) : Nat :=
  (events.zipIdx.map fun ((n : Nat), i) => n * Config.powerCoeff table i).sum * ((6000 + 125 * step) * (6000 + 125 * step)) / (7500 * 7500 * p2 20)
    + Config.powerLeakage table step tj

/-- FAST_POWER_LOOP: each forme's estimate from its event counts, and the cap level (R435, R438, R440). -/
def fastLoop (c : Chip) (extra : List (List Nat)) : Chip :=
  let est (f : Nat) (q : FormePower) : FormePower :=
    let now := c.activity f
    { q with seen := now, est := formeEst c.pwrTable (events now q.seen (extra.getD f [])) q.step ((c.highest (junctions f)).getD 0) }
  let c1 := c.onPwr fun p => { p with formes := p.formes.zipIdx.map fun ((q : FormePower), f) => est f q }
  let c2 := c1.onPwr fun p => { p with estSum := p.estSum + c1.estimate, estCount := p.estCount + 1 }
  let c3 := match c2.pwr.mode with
    | .normal => c2.adjustCap
    | .measuredOnly => if c2.pwr.window then c2.adjustCap.onPwr fun p => { p with window := false } else c2
    | .floor => c2.onPwr fun p => { p with cap := capTop }
  c3.onPwr fun p => { p with capSum := p.capSum + p.cap, capCount := p.capCount + 1 }

/-- CAP_UNMET: five consecutive windows above the target at the floor (R436). -/
def capUnmet (c : Chip) : Chip :=
  if 5 ≤ c.pwr.unmetRun ∧ !c.pwr.unmet then (c.raise evCapUnmet .deferred srcOvs .device []).onPwr fun p => { p with unmet := true } else c

/-! ### Limits and leases (R427 to R431) -/

def liveLeases (c : Chip) : List Lease := c.pwr.leases.filter fun l => l.left != some 0

/-- The lowest LIMIT_W of the live leases. -/
def rackLimit (c : Chip) : Option Nat :=
  match c.liveLeases with
  | [] => none
  | l :: ls => some (ls.foldl (fun b x => min b x.limit) l.limit)

def newLimit (c : Chip) : Nat := min (clampW (c.rackLimit.getD c.imp.pwrDefaultW)) (clampW c.pwr.localCeil)

/-- L is recomputed; a change is recorded, and a fall raises gating at once (R427, R429, R440). -/
def recomputeLimit (c : Chip) : Chip :=
  let old := c.pwr.eff
  let new := c.newLimit
  if new = old then c
  else
    let c1 := (c.onPwr fun p => { p with eff := new }).raise evLimitApplied .note srcOvs .device []
    if new < old then
      (match c1.pwr.mode with
      | .normal => if c1.aboveTarget then c1.adjustCap else c1
      | .measuredOnly => c1.onPwr fun p => { p with cap := min 255 (256 - (256 - p.cap) * new / old) }
      | .floor => c1)
    else c1

def pwrModeCode (m : PwrMode) : Nat := match m with | .normal => 0 | .measuredOnly => 1 | .floor => 2

/-- POWER_LIMIT from an authorised sender: the payload of the acknowledgement, and the chip with the lease and the new L (R428 to R430). -/
def powerLimit (c : Chip) (sender : Nat) (payload : BitVec 512) : BitVec 512 × Chip :=
  let asked := fld payload 15 0
  let ms := fld payload 31 16
  let limit := clampW asked
  -- a renewal does not begin the interval of the reports anew: it runs from the sender's last report (R431)
  let old : Lease := (c.liveLeases.find? fun l => l.sender == sender).getD { sender, limit, left := none, slackAt := c.pwr.slack }
  let lease : Lease := { old with limit, left := if ms = 0 then none else some ms, slack := fld payload 47 32 }
  let c1 := (c.onPwr fun p => { p with leases := (p.leases.filter fun l => l.sender != sender) ++ [lease] }).recomputeLimit
  let b (x : Bool) : Nat := if x then 1 else 0
  (BitVec.ofNat 512 (limit + c1.pwr.eff <<< 16 + (c1.pwr.meas % p2 16) <<< 32 + pwrModeCode c1.pwr.mode <<< 48
    + b (limit != asked) <<< 50 + b c1.pwr.unmet <<< 51), c1)

/-- LEASE_EXPIRED: a lease has ended (R427). -/
def leaseExpired (c : Chip) (sender : Nat) : Chip :=
  if c.pwr.leases.any fun l => l.sender == sender && l.left == some 0 then
    ((c.onPwr fun p => { p with leases := p.leases.filter fun l => !(l.sender == sender && l.left == some 0) }).raise
      evLeaseExpired .note srcOvs .device []).recomputeLimit
  else c

/-- SLACK_REPORT: the report that is due to a leasing sender (R431). DEDUCED, log entry 62. -/
def slackReport (c : Chip) (sender : Nat) : Chip :=
  match c.liveLeases.find? fun l => l.sender == sender && l.slack != 0 && decide (l.slack ≤ l.since) with
  | none => c
  | some l =>
    let (k, c1) := c.fresh
    let d := Slack.since c.pwr.slack l.slackAt
    let n := (c.engines.filter fun (x : Engine) => !x.retired).length
    let w := l.seq + 1 + ((l.since * 1000) % p2 32) <<< 32 + frac16 (Config.freeBits k 0) d.recv d.cycles <<< 64
      + frac16 (Config.freeBits k 1) d.throttle d.cycles <<< 80 + frac16 (Config.freeBits k 2) d.busy d.array <<< 96 + (l.wSum / l.since % p2 16) <<< 112
      + c.pwr.eff <<< 128 + (d.array / (n * l.since * 1000) % p2 16) <<< 144
      + ((c.highest ((List.range 4).flatMap junctions)).getD 0) <<< 160 + pwrModeCode c.pwr.mode <<< 172
    let seq := c1.fab.mgmtSeq
    let c2 := (c1.onFab fun f => { f with mgmtSeq := (seq + 1) % p2 16 }).onPwr fun p => { p with
      leases := p.leases.map fun x => if x.sender = sender then { x with seq := x.seq + 1, since := 0, wSum := 0, slackAt := p.slack } else x }
    c2.sendMgmt sender 0x12 seq 0 (BitVec.ofNat 512 w)

/-- One millisecond passes for the leases. -/
def tickLeases (c : Chip) : Chip :=
  c.onPwr fun p => { p with leases := p.leases.map fun (l : Lease) => { l with left := l.left.map (· - 1), since := l.since + 1, wSum := l.wSum + p.meas } }

/-! ### The regulators (R432, R521) -/

/-- Move a forme's setpoint: a frame with the new code goes to its regulator. -/
def setStep (c : Chip) (f step : Nat) : Chip :=
  let p := c.formePower f
  if p.heldAt || p.step == step then c
  else
    let seq := p.pvidSeq + 1
    (c.onPower f fun p => { p with step, pvidSeq := seq, pvidTries := 1 }).send (.pvid f (pvidFrame step seq.toNat))

/-- A new loop finds the last frames echoed, unless resends have run out. -/
def settlePvid (c : Chip) : Chip :=
  c.onPwr fun p => { p with formes := p.formes.map fun (q : FormePower) => if q.heldAt then q else { q with echoed := q.step, pvidTries := 0 } }

/-- PVID_RESEND: a frame not echoed within 1 µs is sent again, at most three times; then the forme is held at its last echoed step
(R521). -/
def pvidResend (c : Chip) (f : Nat) : Chip :=
  let p := c.formePower f
  if p.pvidTries = 0 ∨ p.heldAt then c
  else if p.pvidTries < 4 then
    (c.onPower f fun p => { p with pvidTries := p.pvidTries + 1 }).send (.pvid f (pvidFrame p.step p.pvidSeq.toNat))
  else (c.onPower f fun p => { p with step := p.echoed, heldAt := true, pvidTries := 0 }).raise evSensorFault .deferred (74 + f) (.forme f) []

/-! ### The slow loop (R435, R439, R441) -/

/-- A window ends: M, Ē and whether they agree. -/
def endWindow (c : Chip) (measW : Nat) : Chip :=
  let p := c.pwr
  let mean := if p.estCount = 0 then p.est else p.estSum / p.estCount
  let differs : Bool := decide (15 * measW < 100 * (if mean < measW then measW - mean else mean - measW))
  c.onPwr fun p => { p with
    meas := measW, est := mean, window := true, estSum := 0, estCount := 0,
    disagree := if p.estCount = 0 then p.disagree else if differs then p.disagree + 1 else 0,
    agree := if p.estCount = 0 then p.agree else if differs then 0 else min 100 (p.agree + 1) }

/-- Raise the first frequency step that can rise, by at most 4: CD-READ, then CD-PLT, then CD-BASE. -/
def lowerClocks (c : Chip) : Chip :=
  c.onPwr fun p =>
    if p.nRead < 32 then { p with nRead := min 32 (p.nRead + 4) }
    else if p.nPlt < 32 then { p with nPlt := min 32 (p.nPlt + 4) }
    else { p with nBase := min 32 (p.nBase + 4) }
/-- The reverse. -/
def raiseClocks (c : Chip) : Chip :=
  c.onPwr fun p =>
    if 0 < p.nBase then { p with nBase := p.nBase - 4 }
    else if 0 < p.nPlt then { p with nPlt := p.nPlt - 4 }
    else { p with nRead := p.nRead - 4 }

/-- Each forme moves by at most one step. -/
def moveSteps (c : Chip) (move : Nat → Nat → Nat) : Chip :=
  (List.range 4).foldl (fun (c : Chip) f =>
    let s := (c.formePower f).step
    c.setStep f (if c.ceiling f < s then s - 1 else move f s)) c

/-- The power of a rail in µW, averaged over the samples of a window (R439). -/
def railMicroW (samples : List (BitVec 16 × BitVec 24)) : Nat := (samples.map fun s => s.1.toNat * s.2.toNat).sum / samples.length

/-- M: the rails' average powers, summed, in W (R439). -/
def measuredW (rails : List (List (BitVec 16 × BitVec 24))) : Nat := (rails.map railMicroW).sum / 1000000

/-- A rail's sensor after a window. -/
def railWindow (r : Rail) (value : Nat) (moved : Bool) : Rail :=
  if r.run = 0 ∨ r.value ≠ value then { value, run := 1, moved } else { r with run := r.run + 1, moved := r.moved || moved }

/-- The rails are sampled: a sensor that reads outside its range, or that has given one value for 100 windows while its rail's load has changed, is
faulty (R439). -/
def railCheck (c : Chip) (rails : List (List (BitVec 16 × BitVec 24))) (moved : BitVec 13) : BitVec 13 × Chip :=
  let at_ (i : Nat) : List (BitVec 16 × BitVec 24) := rails.getD i []
  let c1 := c.onPwr fun p => { p with rails := p.rails.zipIdx.map fun ((r : Rail), i) => railWindow r (railMicroW (at_ i)) (moved.getLsbD i) }
  let bad (i : Nat) : Bool := let r := c1.pwr.rails.getD i {}
    ((at_ i).any fun s => !Config.railInRange i s.1.toNat s.2.toNat) || (decide (100 ≤ r.run) && r.moved)
  (((List.range 13).filter bad).foldl (fun b i => b ||| ((1 : BitVec 13) <<< i)) 0, c1)

/-- Task 2 of the loop. -/
def slowLoop (c : Chip) (measW : Nat) (rails : BitVec 13) : Chip :=
  let c1 := ((List.range 13).filter fun i => rails.getLsbD i && !c.pwr.badRails.getLsbD i).foldl (fun (c : Chip) i =>
    (c.sensorFault srcOvs .device).onPwr fun p => { p with badRails := p.badRails ||| ((1 : BitVec 13) <<< i) }) c
  let c2 := (c1.endWindow measW).tickLeases.recomputeLimit
  let c3 := if c2.pwr.mode != .floor && c2.atFloor && c2.aboveTarget then c2.onPwr fun p => { p with unmetRun := p.unmetRun + 1 }
    else c2.onPwr fun p => { p with unmetRun := 0, unmet := false }
  let (sum, count) := if c3.pwr.capCount = 0 then (c3.pwr.cap, 1) else (c3.pwr.capSum, c3.pwr.capCount)
  let slow := c3.pwr.nRead + c3.pwr.nPlt + c3.pwr.nBase
  let keep (_ s : Nat) : Nat := s
  let down (_ s : Nat) : Nat := s - 1
  let c4 :=
    if c3.pwr.mode = .floor then c3.lowerClocks.moveSteps down
    else if 16 * count < sum then
      (if c3.pwr.formes.all fun p => p.step == 0 then (if 16 < c3.pwr.cap then c3.lowerClocks else c3) else c3.moveSteps down)
    else if sum = 0 ∧ c3.belowTarget 95 then
      (if 0 < slow then c3.raiseClocks.moveSteps keep else c3.moveSteps fun f s => min (c3.ceiling f) (s + 1))
    else c3.moveSteps keep
  c4.onPwr fun p => { p with capSum := 0, capCount := 0 }

/-! ### The orderly stop (R445) -/

/-- Step 1: admission stops on every engine, and the data service begins nothing new. -/
def beginStop (c : Chip) : Chip :=
  if c.pwr.stop != .none_ then c
  else
    let c1 : Chip := { c with engines := c.engines.map fun (x : Engine) => { x with stopAdm := true } }
    (c1.onDs fun d => { d with stopped := true }).onPwr fun p => { p with stop := .draining, drainMs := 0 }

/-- The orderly stop of R482. -/
def beginDeviceStop (c : Chip) : Chip :=
  if c.pwr.deviceStop then c.onPwr fun p => { p with forceAll := true }
  else
    let c1 := (c.raise evDeviceStop .fatalDevice srcOvs .device []).onPwr fun p => { p with deviceStop := true, stops := p.stops + 1 }
    if c1.pwr.stop = .stopped then c1.askDevice c1.pwr.forceAll else c1.beginStop

/-- Step 3 has to wait: no line can be written back while CXL requests are held back (R327, R332). -/
def stopWaits (c : Chip) : Bool := c.host.inForce && !c.hostAvail && c.host.lines.any fun p => p.2.state == .modified

/-- Steps 3 to 5; a stop that is that of R482 goes on to a device reset. -/
def finishStop (c : Chip) : Chip :=
  if c.stopWaits then c
  else
  let c1 := if c.host.inForce then c.hostFlush fun _ => true else c
  let c2 := c1.raise evThermStop .deferred srcOvs .device []
  let c3 := (List.range 64).foldl (fun (c : Chip) e => if (c.engine e).ring.isSome then c.haltRing e Status.flushed.code else c) c2
  let c4 := c3.onPwr fun p => { p with stop := .stopped }
  if c4.pwr.deviceStop then c4.askDevice c4.pwr.forceAll
  else
    { c4 with engines := c4.engines.map fun (x : Engine) => { x with parked := true, rested := true },
              pwr := { c4.pwr with selfRefresh := List.replicate 16 true } }

/-- Every admitted slug and every corrector context has ended. -/
def allDrained (c : Chip) : Bool := (List.range 4).all fun f => c.drained f && (c.cor f).ctxs.isEmpty

/-- The loop's part: the stop goes on once everything has drained. -/
def stopStep (c : Chip) : Chip :=
  if c.pwr.stop = .draining then
    (if c.allDrained then c.finishStop else c.onPwr fun p => { p with drainMs := p.drainMs + 1 })
  else c

/-- THERM_DRAIN_EXPIRY: what still runs is cut, corrector contexts are abandoned, and the stop goes on. DEDUCED, log entry 63. -/
def drainExpiry (c : Chip) : Chip :=
  if c.pwr.stop != .draining || !c.formesUp then c
  else
    let c1 := (List.range 4).foldl (fun (c : Chip) f => c.abandonContexts f) c
    let cut (c : Chip) (e : Nat) : Chip :=
      let c2 := QId.all.foldl (fun (c : Chip) q => c.discard e q fun _ => true) c
      let c3 := match (c2.engine e).core with
        | some ent => c2.clearRemote e ent.id
        | none => c2
      c3.onEngine e fun x => { x with core := none, finishing := [], strip := none, galley := [], galleyWait := false, aborts := [] }
    let c2 := (List.range 64).foldl cut c1
    ({ c2 with fab := { c2.fab with colls := [], a2as := [] } }).finishStop

/-! ### Temperature (R442 to R446) -/

/-- The hardware trip of R446, latched with its sensor and reading: the engines park, every clock but CD-OVS stops, HBM loses its
contents, the CXL link goes down, and THERMTRIP_N falls. -/
def clocksStop (c : Chip) : Chip :=
  let (n, c1) := c.fresh
  { c1 with
    formesUp := false,
    engines := c1.engines.map fun (x : Engine) => { x with parked := true },
    mem := c1.mem.fillRegion (.range 0 hbmTop) (some n), ue := c1.ue.filter fun a => decide (hbmTop ≤ a),
    host := { c1.host with l0 := false, training := false },
    fab := { c1.fab with ports := c1.fab.ports.map fun (q : Port) => if q.state = .ethernet then q else { q with state := .down, trained := false, masked := true } },
    ds := { c1.ds with ethUp := List.replicate 4 false },
    pwr := { c1.pwr with selfRefresh := List.replicate 16 false },
    rst := { c1.rst with locked := 0 } }

def trip (c : Chip) (sensor reading : Nat) : Chip :=
  if c.pwr.thermtrip || decide (reading < degrees 115) || !readingOk reading || c.pwr.badSensors.contains sensor then c
  else (c.clocksStop.onPwr fun p => { p with trip := some (sensor, reading), tripNoted := false, thermtrip := true }).send .thermtrip

/-- HBM_STACK_TEMP_READ: a stack's controller reads its sensor and doubles the refresh rate above 85 °C; a faulty reading is ignored (R442, R444). -/
def hbmTemp (c : Chip) (m t : Nat) : Chip :=
  c.onPwr fun p => { p with hbm := p.hbm.set m t,
                            refresh2 := if readingOk t && !p.badSensors.contains (hbmSensor m) then p.refresh2.set m (decide (degrees 85 < t)) else p.refresh2 }

/-- The unit and the domain of a sensor. -/
def sensorHome (i : Nat) : Nat × Dom :=
  if 112 ≤ i then (74 + (i - 112) / 4, .forme ((i - 112) / 4))
  else (if i % 28 < 24 then 74 + i / 28 else 80 + i / 28, .forme (i / 28))

/-- New readings; a sensor out of range is faulty from then on. -/
def takeReadings (c : Chip) (temps : List Nat) : Chip :=
  let c1 := c.onPwr fun p => { p with temps }
  let bad := (List.range 128).filter fun i =>
    let t := if i < 112 then temps.getD i (degrees 0) else c1.pwr.hbm.getD (i - 112) (degrees 0)
    !readingOk t && !c1.pwr.badSensors.contains i
  let c2 := bad.foldl (fun (c : Chip) i => (c.sensorFault (sensorHome i).1 (sensorHome i).2).onPwr fun p => { p with badSensors := p.badSensors ++ [i] }) c1
  c2.onPwr fun p => { p with tjMax := (c2.highest (List.range 112)).getD 0 }

/-- One forme's throttle or release (R443); a stack counts as a junction from 95 °C (R444). DEDUCED, log entry 62. -/
def throttle (c : Chip) (f : Nat) : Chip :=
  let p := c.formePower f
  match c.highest (formeSensors f) with
  | none => c
  | some t =>
    if degrees 95 ≤ t then
      let c1 := if p.hot then c else c.raise evThermThrottle .note (74 + f) (.forme f) []
      c1.onPower f fun p => if 0 < p.therm then { p with hot := true, cool := 0, therm := p.therm - 1 }
        else { p with hot := true, cool := 0, level := min 224 (p.level + 32) }
    else if t < degrees 92 then
      c.onPower f fun p =>
        if 0 < p.level then { p with level := p.level - 32, cool := 0 }
        else if p.therm < 20 then
          (if 9 ≤ p.cool then { p with therm := p.therm + 1, cool := 0, hot := decide (p.therm + 1 < 20) && p.hot } else { p with cool := p.cool + 1 })
        else { p with hot := false, cool := 0 }
    else c.onPower f fun p => { p with cool := 0 }

/-- The wear of every forme is tracked on its highest junction reading, in every loop (R396). -/
def wearChecks (c : Chip) : Chip :=
  (List.range 4).foldl (fun (c : Chip) f => match c.highest (junctions f) with
    | some t => c.wearTrack f t
    | none => c) c

/-- Task 1 of the loop. -/
def thermalChecks (c : Chip) (temps : List Nat) : Chip :=
  let c1 := c.takeReadings temps
  let c2 := (List.range 4).foldl (fun (c : Chip) f => c.throttle f) c1
  let c3 := c2.wearChecks
  let c4 := (List.range 16).foldl (fun (c : Chip) m => match c.reading (hbmSensor m) with
    | some t => if degrees 115 ≤ t then c.trip (hbmSensor m) t else c
    | none => c) c3
  match c4.highest (List.range 128) with
  | some t => if degrees 105 ≤ t then c4.beginStop else c4
  | none => c4

/-! ### The droop detectors (R437) -/

/-- The clocks of one more spine are stretched, and the episode is counted. The command names no spine: only their number is held (DESIGN
CHOICE, log entry 95). -/
def droopStretch (c : Chip) : Chip := { c with rst := { c.rst with stretched := c.rst.stretched + 1, droops := c.rst.droops + 1 } }
/-- The stretch of one spine ends (R437). -/
def droopEnd (c : Chip) : Chip := { c with rst := { c.rst with stretched := c.rst.stretched - 1 } }

/-! ### Bounds for writing (R447) -/

def folioOk (c : Chip) : Bool := decide (degrees 0 ≤ c.ovs.folioTemp ∧ c.ovs.folioTemp ≤ degrees 105)
def flashOk (c : Chip) : Bool :=
  (match c.ovs.i3c.flashAge with | some ms => decide (ms ≤ 2000) | none => false)
    && decide (degrees 0 ≤ c.ovs.i3c.flashTemp ∧ c.ovs.i3c.flashTemp ≤ degrees 85)

end Chip

end Sys2Proof.Machine
end

