-- ==== Sys2Proof/Machine/Counters.lean ====
section
/-!
DEFINITION. Counters (R498 to R502, R515, R516): the quantity sources, selectable counters, and their latching and zeroing.
-/
namespace Sys2Proof.Machine

namespace Chip

def at48 (l : List (BitVec 48)) (i : Nat) : Nat := (l.getD i 0).toNat

/-- The forme sources in code order (R501). -/
def formeSource (c : Chip) (f code arg : Nat) : Source :=
  let perStack (l : List (BitVec 48)) : Source :=
    if arg < 4 then .total (at48 l (4 * f + arg)) else if arg = 4 then .total (((List.range 4).map fun i => at48 l (4 * f + i)).sum) else .absent
  let port (g : Port → Nat) : Source := if arg < 16 ∧ arg / 4 = f then .total (g (c.port arg)) else .absent
  let k := c.cor f
  match code with
  | 0x100 => .total (at48 c.dirEvict f)
  | 0x101 => perStack c.cnts.hbmRd | 0x102 => perStack c.cnts.hbmWr
  | 0x103 => .total (at48 c.cnts.hbmCe f)
  | 0x104 => if arg < 4 then .total (at48 c.cnts.gutter (4 * f + arg)) else .absent
  | 0x105 => .total k.clip.toNat
  | 0x106 => .gauge (k.ctxs.map fun x => x.chunks.length).sum
  | 0x107 => .total k.remoteBytes.toNat
  | 0x108 => .gauge k.ctxs.length
  | 0x109 => .total (at48 c.fab.replay f) | 0x10A => .total (at48 c.fab.stomp f) | 0x10B => .total (at48 c.fab.a2aDropped f)
  | 0x10C => port fun p => p.txFrames.toNat | 0x10D => port fun p => p.rxFrames.toNat
  | 0x10E => port fun p => p.txBytes.toNat | 0x10F => port fun p => p.rxBytes.toNat
  | 0x110 => .total (at48 c.fab.fwdFrames f)
  | 0x111 => .total (c.bundle (16 * f + arg / bundlesPerEngine) (arg % bundlesPerEngine)).crcFails.toNat
  | 0x112 => if bedForme arg = some f ∨ (arg = 20 ∧ f = 3) then .total (Tab.get 0 c.rst.pathCount arg).toNat else .absent
  | 0x113 => .gauge (c.gating f) | 0x114 => .gauge (c.formePower f).step | 0x115 => .gauge (c.formePower f).est
  | _ => .absent

/-- The device sources in code order (R501). -/
def deviceSource (c : Chip) (code : Nat) : Source :=
  let h := c.host
  let d := c.ds
  match code with
  | 0x200 => .total h.wrDropped.toNat | 0x201 => .total h.linesDiscarded.toNat | 0x202 => .total h.recordsDiscarded.toNat
  | 0x203 => .total h.snoops.toNat | 0x204 => .total h.hits.toNat | 0x205 => .total h.misses.toNat
  | 0x206 => .total c.fab.mgmtDropped.toNat | 0x207 => .total c.fab.roleMoved.toNat
  | 0x208 => .total d.ethDiscard.toNat | 0x209 => .total d.rdmaRefused.toNat | 0x20A => .total d.tsDiscard.toNat
  | 0x20B => .total d.audioDropped.toNat | 0x20C => .total d.lumaSamples.toNat
  | 0x20D => .total c.ovs.late.toNat | 0x20E => .total c.rst.droops.toNat
  | 0x20F => .gauge c.pwr.meas | 0x210 => .gauge c.estimate
  | 0x211 => .total c.evr.mirrorDropped.toNat | 0x212 => .total c.evr.trcDropped.toNat | 0x213 => .total c.evr.coalesced.toNat
  | 0x214 => .total c.pwr.stops.toNat
  | _ => .absent

/-- A source within a scope: a narrower one is summed over the units in service, a wider one counts nothing (R498). -/
def sourceOf (c : Chip) (s : Scope) (code arg : Nat) : Source :=
  let engines (es : List Nat) : Source := c.engineSum es code arg
  match s with
  | .engine e => if code < 0x100 then c.engineSource e code arg else .absent
  | .forme f => if code < 0x100 then engines (formeEngines f) else if code < 0x200 then c.formeSource f code arg else .absent
  | .device =>
    if code < 0x100 then engines (List.range 64)
    else if code < 0x200 then (List.range 4).foldl (fun b f => b.add (c.formeSource f code arg)) .absent
    else c.deviceSource code

end Chip

/-- A counter at zero that counts from now on (R500). -/
def SelCnt.restart (k : SelCnt) (s : Source) : SelCnt :=
  { k with value := 0, base := (match s with | .total n => n % p2 48 | _ => 0) }

namespace Chip

/-- A quantity counter is brought up to date. -/
def refreshCnt (c : Chip) (s : Scope) (k : SelCnt) : SelCnt :=
  if 4096 ≤ k.source then k
  else match c.sourceOf s k.source k.arg with
    | .total t => k.follow t
    | _ => k

def refreshScope (c : Chip) (s : Scope) : Chip := c.setSel s ((c.selOf s).map (c.refreshCnt s))

/-- A gauge adds its present value once per sampling period: once per loop (R498; DESIGN CHOICE, log entry 32). -/
def sampleScope (c : Chip) (s : Scope) : Chip :=
  c.setSel s ((c.selOf s).map fun (k : SelCnt) =>
    if 4096 ≤ k.source then k
    else match c.sourceOf s k.source k.arg with
      | .gauge g => k.bump g
      | .total t => k.follow t
      | _ => k)

def allScopes : List Scope := (List.range 64).map Scope.engine ++ (List.range 4).map Scope.forme ++ [.device]

def sampleAll (c : Chip) : Chip := allScopes.foldl (fun (c : Chip) s => c.sampleScope s) c

/-- A recorded event is counted by the selectable counters that name its code (R500). -/
def countEvent (c : Chip) (code : Nat) (d : Dom) : Chip :=
  allScopes.foldl (fun (c : Chip) s =>
    if s.holds d && (c.selOf s).any fun k => k.source == 4096 + code then
      c.setSel s ((c.selOf s).map fun (k : SelCnt) => if k.source = 4096 + code then k.bump 1 else k)
    else c) c

/-- The shadows of a scope. -/
def shadowsOf (c : Chip) (s : Scope) : Shadows :=
  match s with
  | .engine e => c.cnts.engSh.getD e {}
  | .forme f => c.cnts.formeSh.getD f {}
  | .device => c.cnts.devSh
def setShadows (c : Chip) (s : Scope) (x : Shadows) : Chip :=
  match s with
  | .engine e => { c with cnts := { c.cnts with engSh := c.cnts.engSh.set e x } }
  | .forme f => { c with cnts := { c.cnts with formeSh := c.cnts.formeSh.set f x } }
  | .device => { c with cnts := { c.cnts with devSh := x } }

/-- One scope is latched (R499). A retired engine's pages hold the zeros of its reset (R507). -/
def latchScope (c : Chip) (s : Scope) : Chip :=
  let c1 := c.refreshScope s
  let sel := (c1.selOf s).map fun (k : SelCnt) => k.value
  match s with
  | .engine e =>
    let x := c1.engine e
    if x.retired then c1.setShadows s { sel := List.replicate 8 0, latched := true }
    else c1.setShadows s
      { fixed := [x.pacer, x.ticks, x.nan, x.infs], sel, stall := x.stalls.flatMap fun u => u.cycles ++ [u.idleTicks], latched := true }
  | _ => c1.setShadows s { sel, latched := true }

/-- LATCH of a CNT_CTL; ALL, on the device page, reaches every engine and forme (R499, R500). -/
def latch (c : Chip) (s : Scope) (all : Bool) : Chip :=
  if all && s == .device then allScopes.foldl (fun (c : Chip) s => c.latchScope s) c else c.latchScope s

/-- ZERO: the selectable counters of the scope (R500). -/
def zeroScope (c : Chip) (s : Scope) : Chip := c.setSel s ((c.selOf s).map fun (k : SelCnt) => k.restart (c.sourceOf s k.source k.arg))

/-- A write of SOURCE or ARG selects a source and zeroes the counter (R500). -/
def selectSource (c : Chip) (s : Scope) (i source arg : Nat) : Chip :=
  c.setSel s (modifyAt (fun (k : SelCnt) => { k with source := source % 8192, arg := arg % 65536 }.restart (c.sourceOf s (source % 8192) (arg % 65536))) (c.selOf s) i)

end Chip

end Sys2Proof.Machine
end

