-- ==== Sys2Proof/Machine/Records.lean ====
section
/-!
DEFINITION. Event records and the recorder ring (R483 to R487), alarms and traces (R495 to R497), and the folio store (R488 to R491,
R447, R448).
-/
namespace Sys2Proof.Machine

def ringSlots : Nat := 4096
def rollSlots : Nat := 60416

/-- DOMAIN and DOMAIN_ID of a record (R483). -/
def Dom.code : Dom → Nat
  | .engine _ => 0 | .forme _ => 1 | .device => 2 | .shared => 3
def Dom.idOf : Dom → Nat
  | .engine e => e | .forme f => f | _ => 0

/-- An event raises an alarm: FATAL_ENGINE or above, or where its home chapter says so (R495). -/
def Event.alarms (ev : Event) : Bool :=
  Severity.fatalEngine.le ev.sev ||
    [evBundleHalf, evWearAlarm, evWearLimit, evCapUnmet, evMeasuredOnly, evFloor, evThermStop].contains ev.code

/-- Fields packed at their low bits. -/
def pack (fs : List (Nat × Nat)) : Nat := (fs.map fun (lo, v) => v <<< lo).sum

/-- DETAIL as one value: 26 words of 8 bytes. -/
def detailBits (ws : List W64) : Nat := ((ws.take 26).zipIdx.map fun (w, i) => w.toNat <<< (64 * i)).sum

/-- The event record of R483. -/
def recordOfEvent (ev : Event) (seq time boot : Nat) : RecWord :=
  let b (x : Bool) : Nat := if x then 1 else 0
  BitVec.ofNat 2048 (pack [(0, seq % p2 64), (64, time % p2 64), (128, ev.code % 4096), (140, ev.sev.code), (143, b ev.nested),
    (144, b ev.escalated), (145, b ev.alarms), (152, ev.source % 256), (160, ev.dom.code), (162, ev.dom.idOf), (168, ev.episode % p2 16),
    (192, ev.ticks.toNat), (256, boot % p2 32), (288, detailBits ev.detail), (1984, seq % p2 64)])

def recSeq (w : RecWord) : Nat := fld w 63 0
def recCheck (w : RecWord) : Nat := fld w 2047 1984

namespace Chip

def onEvr (c : Chip) (g : Recorder → Recorder) : Chip := { c with evr := g c.evr }
def onOvs (c : Chip) (g : Ovs → Ovs) : Chip := { c with ovs := g c.ovs }

/-- Write a record into the ring; an unacknowledged one that it overwrites is lost (R485). -/
def ringWrite (c : Chip) (w : RecWord) : Chip :=
  c.onEvr fun r =>
    let slot := recSeq w % ringSlots
    let loses : Bool := match Tab.find? slot r.ring with
      | some o => decide (r.ack.toNat < recSeq o)
      | none => false
    { r with ring := Tab.set slot w r.ring, head := recSeq w, nextSeq := r.nextSeq + 1,
             lost := if loses then r.lost + 1 else r.lost, lostNew := r.lostNew || loses }

/-- A record waits for the folio store; beyond 4,096 it is not mirrored (R448, R489). -/
def queueMirror (c : Chip) (w : RecWord) : Chip :=
  c.onEvr fun r => if r.mirror.length < 4096 then { r with mirror := r.mirror ++ [w] } else { r with mirrorDropped := r.mirrorDropped + 1 }

/-- A trace of a record, or a dropped one (R496). -/
def trace (c : Chip) (ev : Event) (w : RecWord) : Chip :=
  c.onEvr fun r =>
    if !r.trcOn || decide (ev.sev.code < r.trcMin) then r
    else if r.traces.length < 256 then { r with traces := r.traces ++ [(r.trcSeq, r.trcGap, w)], trcSeq := (r.trcSeq + 1) % p2 32, trcGap := 0 }
    else { r with trcSeq := (r.trcSeq + 1) % p2 32, trcGap := r.trcGap + 1, trcDropped := r.trcDropped + 1 }

/-- An occurrence updates an alarm slot (R495). DEDUCED, log entry 67. -/
def AlarmSlot.occur (s : AlarmSlot) (ev : Event) (seq time : Nat) : AlarmSlot :=
  { s with count := min (s.count + 1) (p2 32 - 1), sev := if s.count = 0 then ev.sev.code else max s.sev ev.sev.code,
           first := if s.count = 0 then seq else s.first, last := seq, time, detail := ev.detail, source := ev.source }

/-- The alarm table: one slot per source, 512 of them; a source that finds it full shares one slot per EVENT (R495). DEDUCED, log entry 67. -/
def alarm (c : Chip) (ev : Event) (seq : Nat) : Chip :=
  if !ev.alarms then c
  else
    let own (s : AlarmSlot) : Bool := s.event == ev.code && s.dom == ev.dom.code && s.domId == ev.dom.idOf
    let shared (s : AlarmSlot) : Bool := s.event == ev.code && s.dom == 3
    let hit := c.evr.alarms.find? fun s => own s
    let singles := (c.evr.alarms.filter fun s => s.dom != 3).length
    let p : AlarmSlot → Bool := if hit.isSome || decide (singles < 512) then own else shared
    let fresh : AlarmSlot := { event := ev.code, dom := if hit.isSome || decide (singles < 512) then ev.dom.code else 3,
                               domId := if hit.isSome || decide (singles < 512) then ev.dom.idOf else 0, sev := ev.sev.code, source := ev.source }
    let late : Bool := c.evr.alarms.any fun s => p s && s.count != 0
    c.onEvr fun r =>
      let base := if r.alarms.any p then r.alarms else r.alarms ++ [fresh]
      { r with alarms := base.map fun s => if p s then AlarmSlot.occur s ev seq c.ovs.time else s,
               coalesced := if late then r.coalesced + 1 else r.coalesced }

/-- The overseer accepts one event: it takes the next SEQ, and goes to the ring, the counters, the folio queue, the alarms and the
traces (R484, R485, R489, R495, R496). -/
def recordEvent (c : Chip) (ev : Event) : Chip :=
  let seq := c.evr.nextSeq
  let w := recordOfEvent ev seq c.ovs.time c.ovs.boot
  let c1 := (c.ringWrite w).countEvent ev.code ev.dom
  let c2 := if Severity.deferred.le ev.sev then c1.queueMirror w else c1
  (c2.alarm ev seq).trace ev w

/-- Every event that waits is recorded; then DEFERRED episodes end (R479). -/
def recordAll (c : Chip) : Chip :=
  let evs := c.evq
  (evs.foldl (fun (c : Chip) ev => c.recordEvent ev) { c with evq := [] }).endEpisodes fun ep => ep.level == .deferred

/-! ### Delivery (R495, R496) -/

/-- The ALARM payload. -/
def alarmPayload (s : AlarmSlot) : BitVec 512 :=
  BitVec.ofNat 512 (pack [(0, s.event % 4096), (12, s.sev % 8), (16, s.source % 256), (24, s.dom % 4), (26, s.domId % 64), (32, s.count % p2 32),
    (64, s.first % p2 64), (128, s.last % p2 64), (192, s.time % p2 64), (256, detailBits (s.detail.take 4))])

/-- One message to a device, under the next sequence number. -/
def post (c : Chip) (dst mtype : Nat) (payload : BitVec 512) : Chip :=
  let seq := c.fab.mgmtSeq
  (c.onFab fun f => { f with mgmtSeq := (seq + 1) % p2 16 }).sendMgmt dst mtype seq 0 payload

/-- Deliver one slot to every manager, over I3C and by MSI-X. -/
def deliverAlarm (c : Chip) (i : Nat) (s : AlarmSlot) : Chip :=
  let w := alarmPayload s
  let c1 := c.imp.fabManagers.foldl (fun (c : Chip) m => c.post m 0x20 w) c
  let c2 := if c1.ovs.i3c.ibi && c1.ovs.i3c.dyn.isSome then c1.send (.i3cIbi (BitVec.ofNat 8 s.sev)) else c1
  let c3 := if c2.evr.irqEn && c2.host.inForce then c2.msixRaise c2.evr.irqVec else c2
  c3.onEvr fun r => { r with
    latest := BitVec.ofNat 128 (fld w 63 0 + (s.last % p2 64) <<< 64), alarms := modifyAt (fun s => { s with count := 0, wait := 100 }) r.alarms i }

/-- Slots with undelivered occurrences, each at most once per 100 ms, at most 64 messages in all. -/
def deliverAlarms (c : Chip) : Chip :=
  let each := max 1 c.imp.fabManagers.length
  let c1 := c.onEvr fun r => { r with alarms := r.alarms.map fun (s : AlarmSlot) => { s with wait := s.wait - 1 } }
  let ready := (c1.evr.alarms.zipIdx.filter fun ((s : AlarmSlot), _) => s.count != 0 && s.wait == 0).take (64 / each)
  ready.foldl (fun (c : Chip) (s, i) => c.deliverAlarm i s) c1

/-- At most 16 TRACE messages, once every alarm that is due has gone (R496). -/
def sendTraces (c : Chip) : Chip :=
  if c.evr.alarms.any fun (s : AlarmSlot) => s.count != 0 && s.wait == 0 then c
  else
  let c1 := (c.evr.traces.take 16).foldl (fun (c : Chip) (seq, gap, w) =>
    c.post c.evr.trcSink 0x21 (BitVec.ofNat 512 (seq % p2 32 + (gap % p2 32) <<< 32 + (fld w 447 0) <<< 64))) c
  c1.onEvr fun r => { r with traces := r.traces.drop 16 }

/-- What the bond map keeps of a bundle: its lane map and its mode (R388). -/
def mapEntry (b : Bundle) : Bundle := { out := b.out, half := b.half, lost := b.lost }

/-- The tracker has moved enough to be written (R397). -/
def wearMoved (c : Chip) (b : Board) : Bool :=
  (c.wear.zip b.folio.wear).any fun ((w : Wear), (o : Wear)) =>
    w.ext != o.ext || w.dir != o.dir || w.wear != o.wear || w.started != o.started || w.warn != o.warn || w.alarm != o.alarm || w.limit != o.limit ||
      decide (8 ≤ (if w.cand < o.cand then o.cand - w.cand else w.cand - o.cand))

/-- Anything waits for the folio store: records, the bond map, the tracker, this run's BOOT, a TRIPPED to clear, or a clear (R448, R452, R493). -/
def folioWaits (c : Chip) (b : Board) : Bool :=
  !c.evr.mirror.isEmpty || c.evr.mapDirty || decide (b.folio.boot ≠ c.ovs.boot) || c.ovs.clearTrip || c.ovs.clr.deferred || (c.wearMoved b && decide (1000 ≤ c.evr.wearMs))

end Chip

def ovsStateCode (s : OvsState) : Nat := match s with | .rom => 0 | .loading => 1 | .starting => 2 | .running => 3 | .recovery => 4

/-! ### The folio store (R488, R489, R391, R397, R448) -/

namespace Dev

def on (d : Dev) (f : Chip → Chip) : Dev := { d with chip := f d.chip }
def onFolio (d : Dev) (g : Folio → Folio) : Dev := { d with board := { d.board with folio := g d.board.folio } }
def onFlash (d : Dev) (g : Flash → Flash) : Dev := { d with board := { d.board with flash := g d.board.flash } }
def onFuses (d : Dev) (g : Fuses → Fuses) : Dev := { d with board := { d.board with fuses := g d.board.fuses } }

/-- Write one record: the first-fault area while it has room, else the rolling area. NEXT_SEQ goes with it (R484). -/
def mirrorOne (d : Dev) (w : RecWord) : Dev :=
  d.onFolio fun f =>
    let f1 := { f with nextSeq := d.chip.evr.nextSeq }
    if f.first.length < 1024 then { f1 with first := f.first ++ [w] }
    else { f1 with roll := Tab.set f.rollNext w f.roll, rollNext := (f.rollNext + 1) % rollSlots,
                   overwrites := if (Tab.find? f.rollNext f.roll).isSome then min (f.overwrites + 1) (p2 32 - 1) else f.overwrites }

/-- Mirror up to `n` records in SEQ order, while the bound of R447 is met. -/
def mirrorSome (d : Dev) (n : Nat) : Dev :=
  if !d.chip.folioOk then d
  else
    let ws := d.chip.evr.mirror.take n
    (ws.foldl (fun (d : Dev) w => d.mirrorOne w) d).on fun c => c.onEvr fun r => { r with mirror := r.mirror.drop n }

/-- The latest bond map is written (R391, R448). -/
def writeMap (d : Dev) : Dev :=
  let c := d.chip
  if !c.folioOk || !c.evr.mapDirty then d
  else
    let retired := (List.range 64).filterMap fun e => let x := c.engine e
      if x.retired then some (e, x.retCause) else none
    (d.onFolio fun f => { f with bonds := c.bonds.map (fun (k, b) => (k, Chip.mapEntry b)), retired }).on
      fun c => c.onEvr fun r => { r with mapDirty := false }

def writeWear (d : Dev) : Dev :=
  let c := d.chip
  if c.folioOk && c.wearMoved d.board && decide (1000 ≤ c.evr.wearMs) then
    (d.onFolio fun f => { f with wear := c.wear }).on fun c => c.onEvr fun r => { r with wearMs := 0 }
  else d

/-- LAST_RUN_WRITE: the last-run record (R490). -/
def lastRunWrite (d : Dev) : Dev :=
  let c := d.chip
  if !c.folioOk then d
  else d.onFolio fun f => { f with lastRun := { f.lastRun with
    boot := c.ovs.boot, time := c.ovs.time, tjMax := c.pwr.tjMax, mode := Chip.pwrModeCode c.pwr.mode, state := ovsStateCode c.ovs.state } }

/-- A trip is added to the last-run record at the loop that follows it, and only then, where the bound permits (R490). -/
def noteTrip (d : Dev) : Dev :=
  match d.chip.pwr.trip with
  | some t =>
    if d.chip.pwr.tripNoted then d
    else (if d.chip.folioOk then d.onFolio fun f => { f with lastRun := { f.lastRun with tripped := some t } } else d).on
      fun c => c.onPwr fun p => { p with tripNoted := true }
  | none => d

/-- BOOT of this run is written, and a TRIPPED that has been reported is cleared, once the bound is met (R447, R483, R490). -/
def writeBoot (d : Dev) : Dev :=
  let c := d.chip
  if !c.folioOk then d
  else (d.onFolio fun f => { f with boot := c.ovs.boot, lastRun := if c.ovs.clearTrip then { f.lastRun with tripped := none } else f.lastRun }).on
    fun c => c.onOvs fun o => { o with clearTrip := false }

/-- Task 7 of the loop. -/
def recordTask (d : Dev) : Dev :=
  let d1 := ((d.on fun c => c.recordAll).writeBoot.noteTrip).writeMap.on fun c => c.onEvr fun r => { r with wearMs := r.wearMs + 1 }
  (d1.writeWear.mirrorSome 64).on fun c => c.deliverAlarms.sendTraces

/-! ### The confirmation of a trial, which may wait for the flash (R448, R467) -/

/-- CONFIRM names the running slot; RAISE_SVN then blows SVN_MIN up to the image's SVN. -/
def confirmTrial (d : Dev) : Dev :=
  if d.chip.ovs.confirm && d.chip.flashOk then
    let d1 := (d.onFlash fun f => dirWrite f .confirm d.chip.ovs.slot 0 0).on fun c => c.onOvs fun o => { o with confirm := false, trial := false }
    if d1.chip.ovs.raiseSvn then d1.onFuses fun f => { f with svnMin := max f.svnMin d1.chip.ovs.svn } else d1
  else d

/-- DEFERRED_WRITE_FLUSH: what waits is written in order once the bounds are met (R448). -/
def flushDeferred (d : Dev) : Dev := (d.writeBoot.writeMap.writeWear.mirrorSome d.chip.evr.mirror.length).confirmTrial

end Dev

namespace Chip

/-! ### EVR_WINDOW, EVR and FOLIO registers (R486, R487, R491) -/

/-- A clear log entry (R493). -/
def clearBits (k : ClearEntry) : BitVec 512 :=
  BitVec.ofNat 512 (pack [(0, k.cutoff % p2 64), (64, k.boot % p2 32), (96, k.time % p2 64), (160, k.target % 16), (164, if k.complete then 1 else 0),
    (192, k.emptied % p2 32), (256, k.digest.toNat)])

/-- Byte `off` of the page that EVR_CTL selects, as an 8-byte word. -/
def windowWord (c : Chip) (b : Board) (off : Nat) : W64 :=
  let i := c.evr.page * 16 + off / 256
  let f := b.folio
  let word (w : Option RecWord) : W64 := match w with
    | some w => BitVec.ofNat 64 (w.toNat >>> (8 * (off % 256)))
    | none => 0
  match c.evr.area with
  | 0 => if i < ringSlots then word (Tab.find? i c.evr.ring) else 0
  | 1 => word f.first[i]?
  | 2 => if i < rollSlots then word (Tab.find? i f.roll) else 0
  | _ =>
    match f.clears[c.evr.page * 64 + off / 64]? with
    | some k => BitVec.ofNat 64 ((clearBits k).toNat >>> (8 * (off % 64)))
    | none => 0

/-- SEQ of the newest record in the ring; 0 while it holds none. -/
def evrHead (c : Chip) : Nat := if c.evr.ring.isEmpty then 0 else c.evr.head

def folioStatus (b : Board) : W64 :=
  let f := b.folio
  BitVec.ofNat 64 (f.overwrites % p2 32 + f.first.length <<< 32 + f.clears.length <<< 43)

end Chip

end Sys2Proof.Machine
end

