-- ==== Sys2Proof/Machine/Stalls.lean ====
section
/-!
DEFINITION. Pacer cycles, stall causes and idle ticks of the counted units (R211 to R216, R405, R418, R433, R516). The model's commands take no
time: an interval passes at the overseer loop, and is charged by what the units then do and wait for.
-/
namespace Sys2Proof.Machine

/-- The queues of the counted units: ARRAY, VECTOR, MOVE and SPIKE. -/
def countedQueues : List QId := [.matrix, .vector, .move, .spike]

/-- The first block or slot that a slug reaches next and that an earlier slug of its engine holds, with the class of the holder (R95). -/
def blockHeld (x : Engine) (e : Nat) (q : QEntry) : Option (Nat × Nat) :=
  let u := x.needs e q
  x.entries.findSome? fun p =>
    if q.id ≤ p.id ∨ p.mute then none
    else
      let spike := slugClass p.slug == 7 || slugClass q.slug == 7
      let h := p.holds e
      ((u.reads.map fun n => (n, false)) ++ u.writes.map fun n => (n, true)).findSome? fun (n, w) =>
        if (spike || !scratchCode n) && (h.writes.contains n || (w && h.reads.contains n)) then some (n, slugClass p.slug) else none

/-- The counter of a wait on a block: VECTOR_BUSY for MOVE and SPIKE behind a vector or fused slug, and else the side of the block; accumulator
slots, staging and scratch count as OPERAND_A (R95, R212). -/
def blockCause (q : QId) (code cls : Nat) : Nat :=
  if (q == .move || q == .spike) && (cls == 2 || cls == 3) then 5 else if decide (128 ≤ code ∧ code < 256) then 4 else 3

namespace Chip

/-- What a unit with an empty queue waits for: an earlier slug that a QUOIN waits for, a QUOIN or WAIT, a full completion ring, a full VECTOR queue
in front of admission, or nothing (R212). -/
def emptyCause (c : Chip) (e : Nat) : Nat :=
  let x := c.engine e
  let full : Bool := match x.stream with
    | it :: _ => classQueue (slugClass it.slug) == some .vector && Nat.ble QId.vector.depth x.qVector.length
    | [] => false
  match x.core with
  | some k =>
    if slugClass k.slug ≠ 4 then 14
    else
      let earlier (q : QId) : Bool := slugOp k.slug == 0 && (x.queue q).any fun p => decide (p.id < k.id)
      if earlier .fabric then 9 else if earlier .host then 10
      else if earlier .spike && (x.spike.frame.any fun f => f.2.recs.any fun r => !r.acked) then 12 else 13
  | none => if x.recordWaits then 13 else if full then 5 else 14

/-- The counter of the oldest thing that the slug in hand of a counted unit waits for; 0 when nothing holds it back (R212, R213). -/
def headCause (c : Chip) (e : Nat) (q : QId) (ent : QEntry) : Nat :=
  let x := c.engine e
  match ent.held, blockHeld x e ent with
  | some _, _ => ent.why
  | none, some (code, cls) => blockCause q code cls
  | none, none =>
    if q == .matrix && (x.galleyWait || x.aborts.any fun p => decide (p.1 < ent.id)) then 11
    else if isConsumer ent.slug && ent.prog.drain.isNone && x.galley.isEmpty then 1
    else match c.fab.reqs.find? fun r => r.engine == e && r.entry == ent.id && r.answer.isNone && !r.orphan with
      | some r => if r.queued then 8 else 9
      | none =>
        if c.host.reqs.any fun r => r.engine == e && r.entry == ent.id && r.answer.isNone then 10
        else if q == .spike && slugOp ent.slug == 0 && (x.spike.frame.any fun f => f.2.recs.any fun r => !r.acked) then 12
        else if ent.usesSlots e && c.slotRoom e == 0 then (if x.banks.any fun b => b.2.held != 0 then 7 else 8)
        else if x.halting && !ent.began then 13
        else 0

/-- What a counted unit does or waits for now. DEDUCED, log entry 97. -/
def unitCause (c : Chip) (e : Nat) (q : QId) : Nat :=
  match (c.engine e).queue q with
  | [] => c.emptyCause e
  | ent :: _ => c.headCause e q ent

/-- What a counted unit is seen at: the slugs admitted so far, how far the slug in hand has come, and what it waits for. -/
def unitSeen (c : Chip) (e : Nat) (q : QId) : UnitSeen :=
  let x := c.engine e
  { adm := x.adm, cause := c.unitCause e q,
    head := match x.queue q with
      | [] => []
      | ent :: _ => [ent.id, ent.prog.phase, ent.prog.done0, ent.prog.done1] }

end Chip

/-- Causes that a unit can have met in an interval in which it has not stood still: what belongs to an empty queue only if the queue was empty,
THROTTLE if the engine was parked, GALLEY_WAIT for the vector engine, GALLEY_FULL for the array; BUSY only for the units whose work is not
counted in strokes and steps (R212, R516). DEDUCED, log entry 97. -/
def mayMeet (q : QId) (empty rested : Bool) : Nat → Bool
  | 0 => q == .move || q == .spike
  | 1 => q == .vector
  | 2 => rested
  | 5 => q == .move || q == .spike || (empty && q != .vector)
  | 9 | 10 => q == .move || empty
  | 11 => q == .matrix
  | 12 => q == .spike || empty
  | 13 | 14 => empty
  | _ => true

/-- `n` cycles divided among the counters 0 to `i`, in shares that nothing fixes; what is left goes to counter `rest`. -/
def freeShares (ok : Nat → Bool) (k rest : Nat) : Nat → Nat → List Nat
  | 0, n => if rest = 0 then [n] else if ok 0 then [Nat.min n (Config.freeBits k 0 % p2 48)] else [0]
  | i + 1, n =>
    let x := if i + 1 = rest ∨ ¬ ok (i + 1) then 0 else Nat.min n (Config.freeBits k (i + 1) % p2 48)
    freeShares ok k rest i (n - x) ++ [x]

/-- The work that a unit has begun since cycles were last counted: strokes of the array, steps of the vector engine. -/
def unitWork (x : Engine) (q : QId) : Nat :=
  let grown (now seen : Nat) : Nat := (now % p2 48 + p2 48 - seen) % p2 48
  match q with
  | .matrix => grown (x.cnt.strokes16.toNat + x.cnt.strokes8.toNat + x.cnt.strokesInt.toNat + x.cnt.strokesSplit.toNat) x.workSeen.1
  | .vector => grown x.cnt.vectorSteps.toNat x.workSeen.2
  | _ => 0

/-- The counters 0 to 14 of a unit over an interval of `n` pacer cycles. BUSY takes the strokes or steps begun; THROTTLE takes the cycles that the
gating level withholds from strokes and steps, or all others of a parked engine; the rest goes to what the unit waits for, where it has stood
still, and else to the causes that it can have met, in shares that nothing fixes (R211, R212, R405, R433; DESIGN CHOICE, log entry 94). -/
def unitShares (x : Engine) (q : QId) (old new : UnitSeen) (level k n : Nat) : List Nat :=
  let busy := unitWork x q
  let gated := if x.parked then n - busy else if q == .matrix || q == .vector then min (n - busy) (level * n / 256) else 0
  let rest := n - busy - gated
  let plain : List Nat := (List.range 15).map fun i => if i = new.cause then rest else 0
  let others := if old == new && !x.rested then plain
    else
      let l := freeShares (mayMeet q (x.emptied.contains q) x.rested) k new.cause 14 rest
      -- what the shares leave is the present cause's
      l.zipIdx.map fun (v, i) => if i = new.cause then v + (rest - l.sum) else v
  others.zipIdx.map fun (v, i) => v + (if i = 0 then busy else 0) + if i = 2 then gated else 0

/-- The ticks that a unit idles out of `t`: all where its queue stayed empty, none where it never was, and else some of them (R216). -/
def idleTicks (x : Engine) (q : QId) (old new : UnitSeen) (k t : Nat) : Nat :=
  if !x.emptied.contains q then 0
  else if new.head.isEmpty && old.head.isEmpty && old.adm == new.adm then t
  else Config.freeBits k 15 % (t + 1)

/-- The pacer cycles of an interval of one engine: how many they are is free, since the rate of the pacer is, but for the work that they must have
held (R211, R433; DESIGN CHOICE, log entry 94). -/
def pacerOf (x : Engine) (level k : Nat) : Nat :=
  let work := max (unitWork x .matrix) (unitWork x .vector)
  let room := 256 - min 255 level
  Config.freeBits k 0 % p2 48 + (work * 256 + (room - 1)) / room

/-- One engine over an interval: its pacer cycles, and the counters of each counted unit with its idle ticks. -/
structure Interval where
  pacer : Nat
  units : List (List Nat × Nat)
  seen  : List UnitSeen

namespace Chip

/-- The interval of an engine that ends now, `t` ticks long. -/
def interval (c : Chip) (e k t : Nat) : Interval :=
  let x := c.engine e
  let level := c.gating (e / 16)
  let n := pacerOf x level k
  let seen := countedQueues.map (c.unitSeen e)
  { pacer := n, seen,
    units := ((countedQueues.zip (x.seen.zip seen)).zipIdx).map fun ((q, old, new), u) =>
      (unitShares x q old new level (k + 1 + u) n, idleTicks x q old new (k + 1 + u) t) }

/-- What an interval adds to the totals of the slack reports (R431). -/
def slackOf (i : Interval) : Slack :=
  let sum (j : Nat) : Nat := (i.units.map fun u => u.1.getD j 0).sum
  { cycles := 4 * i.pacer, recv := sum 9, throttle := sum 2, array := i.pacer, busy := ((i.units.map (·.1)).headD []).headD 0 }

/-- An engine takes in the interval that has passed (R211, R214, R216). -/
def countInterval (x : Engine) (i : Interval) (t : Nat) : Engine :=
  { x with
    ticker := x.ticker + BitVec.ofNat 64 t, ticks := bump48 x.ticks t, pacer := bump48 x.pacer i.pacer, seen := i.seen, rested := x.parked,
    emptied := QId.all.filter fun q => (x.queue q).isEmpty,
    workSeen := ((x.cnt.strokes16.toNat + x.cnt.strokes8.toNat + x.cnt.strokesInt.toNat + x.cnt.strokesSplit.toNat) % p2 48, x.cnt.vectorSteps.toNat),
    stalls := (x.stalls.zip i.units).map fun (s, l, idle) =>
      { cycles := (s.cycles.zip l).map fun (v, d) => bump48 v d, idleTicks := bump48 s.idleTicks idle } }

/-- An interval passes in every engine in service: its ticker, its pacer, and its units' counters (R211, R214, R216). -/
def passTicks (c : Chip) (ticks : Nat → Nat) : Chip :=
  let k := c.free
  let at_ (e : Nat) : Interval := c.interval e (k + 5 * e) (ticks e)
  let grown := ((List.range c.engines.length).filter fun e => !(c.engine e).retired).map fun e => slackOf (at_ e)
  let add (f : Slack → Nat) (old : Nat) : Nat := old + (grown.map f).sum
  { c with
    free := k + 5 * 64,
    pwr := { c.pwr with slack :=
      { cycles := add Slack.cycles c.pwr.slack.cycles, recv := add Slack.recv c.pwr.slack.recv, throttle := add Slack.throttle c.pwr.slack.throttle,
        array := add Slack.array c.pwr.slack.array, busy := add Slack.busy c.pwr.slack.busy } },
    engines := c.engines.zipIdx.map fun ((x : Engine), e) => if x.retired then x else countInterval x (at_ e) (ticks e) }

end Chip

end Sys2Proof.Machine
end

