-- ==== Sys2Proof/Machine/Boot.lean ====
section
/-!
DEFINITION. The cold reset, the cold start and the warm restart (R413, R456, R466 to R468, R526 to R528), the updates of the
imposition (R469, R470) and the clears (R492 to R494).
-/
namespace Sys2Proof.Machine

/-- What a part keeps through a cold reset besides its board: what the world outside holds, and the model's own counters. -/
def coldHost (h : HostPort) : HostPort := { mem := h.mem, poison := h.poison, refclk := h.refclk }

/-- The union of two bond map entries (R388). -/
def Bundle.union (a b : Bundle) : Bundle := { a with out := addLanes a.out b.out, half := a.half || b.half, lost := a.lost || b.lost }

/-- The bond map in force at start-up: the test fuses' map and the folio store's (R388). -/
def startMap (b : Board) : Tab Bundle :=
  b.folio.bonds.foldl (fun m (k, v) => Tab.set k ((Tab.get {} m k).union v) m) b.fuses.lanes

/-- What R467 chooses: the slot to try, whether as a trial, whether a trial was reverted, and the flash after the record written. -/
structure SlotChoice where
  slot     : Option Nat
  trial    : Bool := false
  reverted : Bool := false
  flash    : Flash
  deriving DecidableEq, Repr

/-- The table of R467; `ok` says that the flash is within the bounds of R447. -/
def chooseSlot (f : Flash) (ok : Bool) : SlotChoice :=
  let confirmed : Option Nat := (latest f fun r => r.kind == .confirm).map (·.2.slot)
  match latest f fun _ => true with
  | none => { slot := none, flash := f }
  | some (_, r) =>
    match r.kind with
    | .commitTrial => if ok then { slot := some r.slot, trial := true, flash := dirWrite f .attempt r.slot 0 0 } else { slot := confirmed, flash := f }
    | .attempt => { slot := confirmed, reverted := true, flash := if ok then dirWrite f .revert r.slot 0 0 else f }
    | .confirm => { slot := some r.slot, flash := f }
    | .revert => { slot := confirmed, flash := f }

/-- The slot that starts and its image: the chosen one; the confirmed one after a trial that does not verify, which counts as
reverted; the other one when the confirmed one does not verify (R467). -/
def bootSlot (fuses : Fuses) (f : Flash) (ok : Bool) : SlotChoice × Option (Nat × Image) :=
  let try_ (f : Flash) (s : Nat) : Option (Nat × Image) := (verifyImage fuses (slotImage f s)).map fun i => (s, i)
  let either (f : Flash) (s : Nat) : Option (Nat × Image) := match try_ f s with
    | some x => some x
    | none => try_ f (1 - s)
  let k := chooseSlot f ok
  match k.slot with
  | none => (k, none)
  | some s =>
    if !k.trial then (k, either k.flash s)
    else match try_ k.flash s with
      | some x => (k, some x)
      | none =>
        let k1 : SlotChoice := { k with trial := false, reverted := true, flash := if ok then dirWrite k.flash .revert s 0 0 else k.flash }
        match (latest f fun r => r.kind == .confirm).map (·.2.slot) with
        | none => (k1, none)
        | some q => (k1, either k1.flash q)

namespace Chip

/-! ### The cold reset (R413, R526, R527) -/

/-- Everything is at its reset value but the board; what memory held is undefined. THERMTRIP_N stays low until the next cold start
begins (R529), and the temperature of the folio store is what it was. DEDUCED, log entry 68. -/
def coldState (c : Chip) : Chip :=
  let (n, c1) := c.fresh
  { mem := ({} : Mem).fillRegion (.range 0 (bufferBase + 0x20000000)) (some n),
    host := coldHost c1.host, pwr := { thermtrip := c1.pwr.thermtrip }, ovs := { folioTemp := c1.ovs.folioTemp },
    lanes := c1.lanes, standby := c1.standby, waitCold := true, free := c1.free, sent := c1.sent }

/-- RESET_N_ASSERT. -/
def resetN (c : Chip) : Chip := if c.standby then c.coldState else c

/-- STANDBY_POWER_ON: the overseer's oscillator starts (R526). -/
def standbyOn (c : Chip) : Chip := if c.standby then c else { c.coldState with standby := true }

/-- A record whose writing power loss has cut short: SEQ is written, and SEQ_CHECK is not (R485, R489). What lies between is
undefined (DESIGN CHOICE, log entry 6). -/
def tornRecord (w : RecWord) (n : Nat) : RecWord :=
  let seq := recSeq w % p2 64
  let check := Config.freeBits n 1 % p2 64
  BitVec.ofNat 2048 (seq + (Config.freeBits n 0 % p2 1920) <<< 64 + (if check = seq then (seq + 1) % p2 64 else check) <<< 1984)

end Chip

namespace Dev

/-- STANDBY_POWER_OFF: everything stops; a folio write in progress is left torn (R528). -/
def standbyOff (d : Dev) (torn : Bool) : Dev :=
  if !d.chip.standby then d
  else
    let d1 := match d.chip.evr.mirror with
      | w :: _ => if torn && d.chip.folioOk then (d.on fun c => c.fresh.2).mirrorOne (Chip.tornRecord w d.chip.fresh.1) else d
      | [] => d
    d1.on fun c => { c.coldState with standby := false, pwr := {} }

end Dev

namespace Chip

/-- PWRGD_FALL: as a trip, without THERMTRIP_N; HBM, platen and buffer contents are lost, and the overseer runs on (R527).
DEDUCED, log entry 68. -/
def pwrgdFall (c : Chip) : Chip :=
  if !c.standby || c.waitCold then c
  else
    let c1 := c.clocksStop
    let (n, c2) := c1.fresh
    { c2 with mem := c2.mem.fillRegion (.range 0 (bufferBase + 0x20000000)) (some n), ue := [], waitCold := true }

/-! ### The cold start (R466) -/

/-- RECOVERY (R467): the formes stay in reset and the ports down. -/
def enterRecovery (c : Chip) : Chip :=
  (c.onOvs fun o => { o with state := .recovery }).raise evImpInvalid .fatalDevice srcOvs .device []

/-- Step 1: BOOT, NEXT_SEQ and a new nonce; CD-CXL starts where its reference clock is present. -/
def startOverseer (c : Chip) (b : Board) : Chip :=
  let f := b.folio
  let c1 := if c.ovs.state = .rom then c else { c.coldState with ovs := { c.coldState.ovs with i3c := c.ovs.i3c } }
  let (n, c2) := c1.fresh
  let clr : Clearing := { c2.ovs.clr with nonce := BitVec.ofNat 256 (Config.freeBits n 0) }
  { c2 with
    waitCold := false,
    pwr := { c2.pwr with thermtrip := false },
    host := { c2.host with training := c2.host.refclk },
    -- the tracker resumes from the stored state; in RECOVERY too it goes on (R397)
    wear := f.wear,
    evr := { c2.evr with nextSeq := f.nextSeq },
    -- CD-CXL runs where its reference clock is present, whatever the start comes to (R524); OSPI_RESET_N has risen (R523)
    rst := { c2.rst with locked := if c2.host.refclk then (1 : BitVec 25) <<< 21 else 0 },
    ovs := { c2.ovs with state := .loading, ospiLow := false, boot := f.boot + 1, clr } }

/-- Records that power loss has torn are counted (R489). -/
def countTorn (c : Chip) (b : Board) : Chip :=
  let f := b.folio
  let torn := ((f.first ++ f.roll.map (·.2)).filter fun w => recSeq w != recCheck w).length
  if torn = 0 then c else c.raise evFolioTorn .note srcOvs .device [BitVec.ofNat 64 torn]

/-- The identity chain's check (R464). -/
def checkCert (c : Chip) (b : Board) : Chip :=
  if Config.certChainOk (certChain b.flash) then c.onOvs fun o => { o with certOk := true }
  else c.raise evCertInvalid .deferred srcOvs .device []

/-- A clear that was cut short goes on from step 5 (R493). -/
def resumeClear (c : Chip) (b : Board) : Chip :=
  match b.folio.clears.find? fun k => !k.complete with
  | none => c
  | some k => c.onOvs fun o => { o with clr := { o.clr with stage := .clearing, cutoff := k.cutoff, target := k.target, logged := true } }

/-- The last run as POWER_ON or THERM_TRIP reports it (R490). -/
def reportLastRun (c : Chip) (b : Board) : Chip :=
  let r := b.folio.lastRun
  match r.tripped with
  | some (sensor, t) =>
    (c.raise evThermTrip .fatalDevice srcOvs .device [BitVec.ofNat 64 sensor, BitVec.ofNat 64 t]).onOvs fun o => { o with clearTrip := true }
  | none => c.raise evPowerOn .note srcOvs .device [BitVec.ofNat 64 r.boot, BitVec.ofNat 64 r.time, BitVec.ofNat 64 r.tjMax]

/-- Step 4: the bond map and the wear tracker are loaded, and the fields applied. -/
def applyFields (c : Chip) (b : Board) (img : Image) : Chip :=
  let m := img.imp
  let f := b.folio
  let engine (x : Engine) (e : Nat) : Engine :=
    let cause := (f.retired.find? fun p => p.1 == e).map (·.2)
    { x with
      retired := cause.isSome, retCause := cause.getD 0,
      cring := { base := m.cringBase + e * 0x100000 + 0x40, log2 := m.cringLog2 },
      split := { reqScratch := m.pltScratch, reqSpike := m.pltSpike, scratch := m.pltScratch, spike := m.pltSpike } }
  { c with
    imp := m, bonds := startMap b,
    engines := c.engines.zipIdx.map fun ((x : Engine), e) => engine x e,
    prf := { c.prf with action := m.prfAction, nfAsSpike := m.prfNfAsSpike },
    fab := { c.fab with
      domainId := m.fabDomainId, deviceId := if m.fabAssigned then 0 else m.fabDeviceId, idValid := !m.fabAssigned, assigned := m.fabAssigned,
      routes := img.routes, ownRoute := img.ownRoute, roles := img.roles.map fun (k, w) => (k, roleEntry w) },
    pwr := { c.pwr with eff := clampW m.pwrDefaultW },
    rst := { c.rst with locked := if c.host.refclk then BitVec.allOnes 25 else BitVec.allOnes 25 &&& ~~~((1 : BitVec 25) <<< 21) } }

/-- Step 5: every bundle is tested before its engine takes slugs (R389); a lane that was lost with the power is found again (R392). -/
def startTests (c : Chip) : Chip := (List.range 64).foldl (fun (c : Chip) e => c.testEngine e) c

/-- Step 6: buffers are cleared, the default completion rings' consumed-count words are zero (R182), and the formes start. -/
def startFormes (c : Chip) : Chip :=
  let words : List (Nat × Byte) := (List.range 64).flatMap fun e =>
    if (c.engine e).retired then [] else cellsAt ((c.engine e).cring.base - 8) (List.replicate 8 0)
  let mem := c.mem.fillRegion (.range bufferBase (bufferBase + 0x20000000)) none
  { c with mem := words.foldl (fun m (a, b) => m.put a b) mem, formesUp := true }

/-- Step 7: every ADEANE port trains, and Ethernet starts. -/
def startPorts (c : Chip) : Chip :=
  (((List.range 16).foldl (fun (c : Chip) p =>
    if 12 ≤ p ∧ c.imp.fabEth.getD (p - 12) false then c.onPort p fun q => { q with state := .ethernet } else c.portRetrain p) c)).ethUpAll

end Chip

namespace Dev

/-- Step 8: RUNNING; a trial is confirmed, or its CONFIRM waits (R448, R467), and heartbeats start. -/
def startRunning (d : Dev) (trial : Bool) : Dev :=
  (d.on fun c => c.onOvs fun o => { o with state := .running, trial, confirm := trial }).confirmTrial.on fun c => c.heartbeatSend

/-- The rest of a start whose image verifies: OWNER_KEY_HASH is fused where it is blank (R463), and steps 4 to 8 follow. -/
def startImage (d : Dev) (k : SlotChoice) (slot : Nat) (img : Image) : Dev :=
  let d1 := (d.onFuses fun f => { f with ownerHash := some (f.ownerHash.getD (BitVec.ofNat 512 (ofBytes img.owner))) }).on fun c =>
    c.onOvs fun o => { o with slot, svn := img.svn, raiseSvn := img.raiseSvn, image := (slotImage d.board.flash slot).take (max 4096 img.bytes) }
  let d2 := d1.on fun c => img.unknown.foldl (fun (c : Chip) id => c.raise evFieldUnknown .note srcOvs .device [BitVec.ofNat 64 id]) c
  (d2.on fun c => (((((c.onOvs fun o => { o with state := .starting }).applyFields d2.board img).reportLastRun d2.board).startTests).startFormes).startPorts).startRunning
    k.trial

/-- COLD_START. `flashGood` says that the flash answers with an SFDP table for 8D-8D-8D and holds 64 MiB (R457, R523). -/
def coldStart (d : Dev) (flashGood : Bool) : Dev :=
  if !(d.chip.standby && d.chip.waitCold) then d
  else
    let b := d.board
    let d1 := d.on fun c => (((c.startOverseer b).countTorn b).checkCert b).resumeClear b
    if !flashGood then d1.on fun c => c.enterRecovery
    else
      let (k, found) := bootSlot b.fuses b.flash d1.chip.flashOk
      let d2 := (d1.onFlash fun _ => k.flash).on fun c => c.onOvs fun o => { o with reverted := k.reverted }
      match found with
      | none => d2.on fun c => c.enterRecovery
      | some (slot, img) => d2.startImage k slot img

end Dev

namespace Chip

/-! ### The warm restart (R456) -/

/-- One second of CD-OVS. -/
def second : Nat := 200000000

/-- The SHA-512 of every section that the imposition store holds matches its DIGEST, and no word of the store is bad (R454, R456). -/
def storeOk (c : Chip) : Bool :=
  let img := c.ovs.image
  ((imgHeader img).table.all fun s => sha512 (s.data img) == s.digest) && !c.ovs.badWords.any fun w => w.1 == .imposition

/-- OVS_RESTART: no loop has begun for 5 ms. The digests of the held image are computed again; `intact` says that its words could be read. DESIGN
CHOICE, log entry 36. -/
def ovsRestart (c : Chip) (intact : Bool) : Chip :=
  if c.ovs.state = .rom ∨ !c.standby then c
  else
    let now := c.ovs.time + 1000000
    let again : Bool := match c.ovs.lastWarm with
      | some t => decide (now ≤ t + second)
      | none => false
    if again || !intact || !c.storeOk then c.coldState
    else
      let (k, c0) := c.fresh
      let c0 := if c.formesUp then c0.passTicks fun e => 4500000 + Config.freeBits k e % 1000001 else c0
      let c1 := (List.range 5).foldl (fun (c : Chip) _ => c.tickLeases) c0
      let c2 := c1.onOvs fun o => { o with time := now, lastWarm := some now, i3c := { o.i3c with flashAge := o.i3c.flashAge.map (· + 5) } }
      let c3 := c2.raise evOvsRestart .deferred srcOvs .device []
      if c3.formesUp then c3.heartbeatSend else c3

/-! ### What the overseer reads for an update or a clear -/

/-- A bad unit met by a read is recorded (R535). -/
def noteUe (c : Chip) (as : List Nat) : Chip := match c.ueAt as with
  | some a => c.ueEvent a
  | none => c

/-- Bytes that the overseer reads from HOST with RdCurr, or from BROADSHEET by a fabric get (R470, R493): none while they are on their
way. `who` is 0 for an update and 1 for a clear. -/
def ovsFetch (c : Chip) (who space addr n : Nat) : Option (Option (List Byte)) × Chip :=
  if space = 0 then
    match c.hostRead addr n with
    | (none, c) => (none, c)
    | (some (.ok bs), c) => (some (some bs), c)
    | (some (.error _), c) => (some none, c)
  else if addr >>> 48 = c.fab.deviceId ∧ c.fab.idValid then
    let as := addrRange (addr % p2 48) n
    if as.all c.broadsheetOk then
      match c.readLocal outside as with
      | .ok bs => (some (some bs), c)
      | .error st => (some none, if st = .memUe then c.noteUe as else c)
    else (some none, c)
  else
    let mine := c.fab.reqs.filter fun r => r.engine == ovsUnit && r.entry == who && !r.orphan
    if mine.isEmpty then
      (none, (splitRun 256 n addr n).foldl (fun (c : Chip) (b, k) =>
        c.request ovsUnit who b (b >>> 48) { opcode := opRead, dst := b >>> 48, addr := b % p2 48, unit := srcOvs, lenW := (k + 3) / 4 } []) c)
    else if mine.any fun r => r.answer.isNone then (none, c)
    else
      let c1 := c.onFab fun f => { f with reqs := f.reqs.filter fun r => r.engine != ovsUnit || r.entry != who || r.orphan }
      let parts := (splitRun 256 n addr n).map fun (b, k) => match mine.find? fun r => r.key == b with
        | some r => (match r.answer with
          | some (.success, bs) => some (bs.take k)
          | _ => none)
        | none => none
      if parts.all Option.isSome then (some (some (parts.flatMap fun p => p.getD [])), c1) else (some none, c1)

/-! ### Updates (R469, R470) -/

def onUpd (c : Chip) (g : Update → Update) : Chip := c.onOvs fun o => { o with upd := g o.upd }

/-- IMP_UPDATE_CTL.START: a START while an update is in progress is ignored (R469). -/
def updStart (c : Chip) (space : Nat) (cert : Bool) (len : Nat) : Chip :=
  if c.ovs.upd.stage != .idle then c else c.onUpd fun u => { u with asked := true, space, cert, len }

/-- An update ends. -/
def updEnd (c : Chip) (result : Nat) : Chip :=
  (c.dropFetch 0).onUpd fun u => { u with asked := false, stage := .idle, done := true, result, deferred := false, buf := [], certStep := 0 }

/-- IMP_UPDATE_CTL.ABORT: ignored during COMMITTING (R469). -/
def updAbort (c : Chip) : Chip :=
  if c.ovs.upd.stage = .committing ∨ (c.ovs.upd.stage = .idle ∧ !c.ovs.upd.asked) then c else c.updEnd 4

/-- The inactive slot. DEDUCED, log entry 65. -/
def idleSlot (c : Chip) : Nat := 1 - c.ovs.slot

/-- The longest update: 31 MiB, or the certificate area less its length word (R469, R470). -/
def updLimit (cert : Bool) : Nat := if cert then 1048572 else slotSize

/-- A START begins at the loop. DEDUCED, log entry 64. -/
def updBegin (c : Chip) : Chip :=
  let u := c.ovs.upd
  if updLimit u.cert < u.len then c.updEnd 3
  else if u.cert && u.len == 0 then c.updEnd 2
  else if u.space = 1 ∧ c.ovs.state = .recovery then c.updEnd 1
  else (c.dropFetch 0).onUpd fun u => { u with asked := false, stage := .copying, progress := 0, result := 0, deferred := false, buf := [] }

end Chip

namespace Dev

/-- A flash access that fails ends the update with FLASH_ERROR; what it has left of the bytes from `a` is undefined (R469; DESIGN CHOICE, log entry 117). -/
def flashError (d : Dev) (a n : Nat) : Dev :=
  let k := d.chip.fresh.1
  (d.onFlash fun f => flashWrite (flashErase f a n) a ((List.range n).map fun i => BitVec.ofNat 8 (Config.freeBits k i))).on fun c => c.fresh.2.updEnd 5

/-- COPYING: one 64 KiB sector of an image is read, erased and programmed; the chain of a certificate update is read whole. -/
def updCopy (d : Dev) (fails : Bool) : Dev :=
  let c := d.chip
  let u := c.ovs.upd
  let done := u.progress * sectorSize
  if u.len ≤ done then d.on fun c => c.onUpd fun u => { u with stage := .verifying }
  else if !u.cert && !c.flashOk then d.on fun c => c.onUpd fun u => { u with deferred := true }
  else
    let n := min sectorSize (u.len - done)
    let (got, c1) := c.ovsFetch 0 u.space (u.addr.toNat + done) n
    let d1 : Dev := { d with chip := c1 }
    match got with
    | none => d1.on fun c => c.onUpd fun u => { u with deferred := false }
    | some none => d1.on fun c => c.updEnd 1
    | some (some bs) =>
      if u.cert then d1.on fun c => c.onUpd fun u => { u with buf := u.buf ++ bs, progress := u.progress + 1, deferred := false }
      else
        let at_ := slotBase c1.idleSlot + done
        if fails then d1.flashError at_ sectorSize
        else (d1.onFlash fun f => flashWrite (flashErase f at_ sectorSize) at_ bs).on fun c =>
          c.onUpd fun u => { u with progress := u.progress + 1, deferred := false }

/-- VERIFYING: the slot is read back under R462, or the chain is checked under R464. -/
def updVerify (d : Dev) (fails : Bool) : Dev :=
  let c := d.chip
  if fails && !c.ovs.upd.cert then d.on fun c => c.updEnd 5
  else
  let ok : Bool := if c.ovs.upd.cert then Config.certChainOk c.ovs.upd.buf
    else (verifyImage d.board.fuses (slotImage d.board.flash c.idleSlot)).isSome
  d.on fun c => if ok then c.onUpd fun u => { u with stage := .committing } else c.updEnd 2

/-- COMMITTING: COMMIT_TRIAL names the slot; or the certificate area is erased, programmed and read back, a loop each, and the chain is then in
use. Until it is read back, slot 0 is empty (R464, R470). -/
def updCommit (d : Dev) (fails : Bool) : Dev :=
  let c := d.chip
  if !c.flashOk then d.on fun c => c.onUpd fun u => { u with deferred := true }
  else if c.ovs.upd.cert then
    let bs := c.ovs.upd.buf
    let next (d : Dev) : Dev := d.on fun c => (c.onOvs fun o => { o with certOk := false }).onUpd fun u => { u with certStep := u.certStep + 1, deferred := false }
    if fails then (d.on fun c => c.onOvs fun o => { o with certOk := false }).flashError certBase certSize
    else match c.ovs.upd.certStep with
      | 0 => next (d.onFlash fun f => flashErase f certBase certSize)
      | 1 => next (d.onFlash fun f => flashWrite f certBase (toBytes 4 bs.length ++ bs))
      | _ => d.on fun c => if certChain d.board.flash = bs then (c.onOvs fun o => { o with certOk := true }).updEnd 0 else c.updEnd 5
  else if fails then d.on fun c => c.updEnd 5
  else
    let img := slotImage d.board.flash c.idleSlot
    let head := ofBytes ((sha512 (img.take 2960)).take 32)
    (d.onFlash fun f => dirWrite f .commitTrial c.idleSlot (imgHeader img).bytes head).on fun c => c.updEnd 0

/-- The loop's part of an update: one step of it (R455, R470). -/
def updStep (d : Dev) (fails : Bool) : Dev :=
  match d.chip.ovs.upd.stage with
  | .idle => if d.chip.ovs.upd.asked then d.on fun c => c.updBegin else d
  | .copying => d.updCopy fails
  | .verifying => d.updVerify fails
  | .committing => d.updCommit fails

end Dev

namespace Chip

/-! ### Clears (R492 to R494) -/

/-- CLR_CTL.START: ignored unless STATE is IDLE. -/
def clrStart (c : Chip) (space : Nat) : Chip :=
  if c.ovs.clr.stage != .idle then c else c.onClr fun k => { k with asked := true, space }

/-- The owner key: the OWNER_KEY section of the running image (R460, R463). DEDUCED, log entry 66. -/
def ownerKey (c : Chip) : List Byte :=
  match (imgHeader c.ovs.image).find 0x0020 with
  | some s => s.data c.ovs.image
  | none => []

/-- Step 3: what is wrong with a token, as RESULT codes it. -/
def tokenFault (c : Chip) (b : Board) (bs : List Byte) : Option Nat :=
  let w := BitVec.ofNat 896 (ofBytes (bs.take 112))
  if fld w 31 0 ≠ 0x4B53434C ∨ fld w 35 32 = 0 ∨ 3 < fld w 35 32 ∨ fld w 63 36 ≠ 0 ∨ fld w 895 576 ≠ 0 then some 2
  else if fld w 319 64 ≠ c.ovs.clr.nonce.toNat then some 3
  else if fld w 575 320 ≠ ofBytes ((sha512 Config.identityKey).take 32) then some 4
  else match b.fuses.ownerHash with
    | none => some 6
    | some _ =>
      if !ecdsaOk c.ownerKey (bs.take 112) ((bs.drop 112).take 144) then some 5
      else if 256 ≤ b.folio.clears.length then some 7
      else none
/-- Steps 2 and 3. -/
def clrCheck (c : Chip) (b : Board) : Chip :=
  match c.ovsFetch 1 c.ovs.clr.space c.ovs.clr.addr.toNat 256 with
  | (none, c1) => c1
  | (some none, c1) => c1.clrEnd 1
  | (some (some bs), c1) =>
    match c1.tokenFault b bs with
    | some r => c1.clrEnd r
    | none => c1.onClr fun k => { k with stage := .clearing, token := bs, target := (ofBytes (bs.take 8)) >>> 32 % 16, cutoff := c1.evr.nextSeq - 1, logged := false }

end Chip

namespace Dev

/-- Step 4: the clear log entry, with COMPLETE = 0. -/
def clrLog (d : Dev) : Dev :=
  let c := d.chip
  let k := c.ovs.clr
  (d.onFolio fun f => { f with clears := f.clears ++
    [{ cutoff := k.cutoff, boot := c.ovs.boot, time := c.ovs.time, target := k.target, complete := false, emptied := 0,
       digest := BitVec.ofNat 256 (ofBytes ((sha512 k.token).take 32)) }] }).on fun c => c.onClr fun k => { k with logged := true }

/-- Steps 5 and 6: the records of the target up to CUTOFF are emptied, and COMPLETE is set. DEDUCED, log entry 66. -/
def clrEmpty (d : Dev) : Dev :=
  let k := d.chip.ovs.clr
  let keep (w : RecWord) : Bool := decide (k.cutoff < recSeq w)
  let ring : Bool := k.target % 2 == 1
  let folio : Bool := 2 ≤ k.target
  let f0 := d.board.folio
  let ring1 := d.chip.evr.ring.filter fun p => keep p.2
  let first1 := f0.first.filter keep
  let roll1 := f0.roll.filter fun p => keep p.2
  let emptied := (if ring then d.chip.evr.ring.length - ring1.length else 0) +
    (if folio then f0.first.length - first1.length + (f0.roll.length - roll1.length) else 0)
  let d1 := if ring then d.on fun c => c.onEvr fun r => { r with ring := ring1, lost := 0 } else d
  let d2 := if folio then (d1.onFolio fun f => { f with first := first1, roll := roll1, overwrites := 0 }).on fun c => c.onEvr fun r =>
      { r with mirror := r.mirror.filter keep } else d1
  (d2.onFolio fun f => { f with clears := f.clears.map fun e => if e.complete then e else { e with complete := true, emptied := e.emptied + emptied } }).on
    fun c => (c.raise evCleared .note srcOvs .device [BitVec.ofNat 64 k.cutoff, BitVec.ofNat 64 k.target]).clrEnd 0

/-- The loop's part of a clear: one step of it; folio writes wait for the bound of R447. -/
def clrStep (d : Dev) : Dev :=
  let b := d.board
  match d.chip.ovs.clr.stage with
  | .idle => if d.chip.ovs.clr.asked then d.on fun c => (c.onClr fun k => { k with asked := false, stage := .checking }).clrCheck b else d
  | .checking => d.on fun c => c.clrCheck b
  | .clearing =>
    if !d.chip.folioOk then d.on fun c => c.onClr fun k => { k with deferred := true }
    else
      let d1 := d.on fun c => c.onClr fun k => { k with deferred := false }
      if d1.chip.ovs.clr.logged then d1.clrEmpty else d1.clrLog

/-- A key that the running OVS_FW, whose signature has verified, tells the device to revoke; at least one key stays (R463). The firmware's instruction is the
loop's operand. DESIGN CHOICE, log entry 119. -/
def revokeKey (d : Dev) (k : Option (BitVec 2)) : Dev :=
  match k with
  | none => d
  | some i =>
    let r := d.board.fuses.revoke ||| ((1 : BitVec 4) <<< i.toNat)
    if d.chip.ovs.state = .running ∧ r ≠ 0xF then d.onFuses fun f => { f with revoke := r } else d

/-- Task 8 of the loop. -/
def updateTask (d : Dev) (i : LoopIn) : Dev := (((d.updStep i.flashFails).clrStep).confirmTrial).revokeKey i.revokeKey

end Dev

end Sys2Proof.Machine
end

