-- ==== Sys2Proof/Machine/Registers.lean ====
section
/-!
DEFINITION. The register window (chapter 18): the map of R510, access rules (R503 to R509), and what a read of a register returns and a
write to it does.
-/
namespace Sys2Proof.Machine

/-- The registers of R510. -/
inductive Reg
  | idPart (i : Nat) | idInfo | idSerial | idKey (i : Nat) | idEngines
  | attachAddr | attach | hctlStatus | hctlRings | hctlHalted
  | ovsStatus | updAddr | updCtl | updStatus
  | rstReq | rstStatus | clkStatus
  | pwrLimit | pwrStatus | pwrCtl | thermStatus
  | prfCtl | prfStatus | prfRelease | prfMean | prfVar | prfLayerSel | prfLayerCnt | rngSeed
  | evrHead | evrAck | evrCtl | evrStatus | folioStatus | trcCtl | clrAddr | clrCtl | clrNonce (i : Nat)
  | fabId | rtSel | rtData | roleSel | roleData (i : Nat) | fabTbl | portStatus (p : Nat) | portCtl (p : Nat)
  | jrBase (n : Nat) | jrCq (n : Nat) | jrCtl (n : Nat)
  | stkWear (f : Nat) | pltSplit (e : Nat) | tickRate (e : Nat) | stkRate (e : Nat) | stkBond (e : Nat)
  | cntCtl (s : Scope) | cntSel (s : Scope) (i : Nat) | cntVal (s : Scope) (i : Nat) | cntFixed (e i : Nat) | stall (e i : Nat)
  | msixAddr (v : Nat) | msixData (v : Nat) | msixPba | window (off : Nat)
  deriving DecidableEq, Repr

/-- A counter page of R515, by the offset within it. -/
def pageReg (s : Scope) (o : Nat) : Option Reg :=
  match s with
  | .device =>
    if o = 0 then some (.cntCtl s)
    else if 0x80 ≤ o ∧ o < 0x100 then some (.cntSel s ((o - 0x80) / 8))
    else if 0x100 ≤ o ∧ o < 0x180 then some (.cntVal s ((o - 0x100) / 8))
    else none
  | _ =>
    if o = 0 then some (.cntCtl s)
    else if 0x40 ≤ o ∧ o < 0x80 then some (.cntSel s ((o - 0x40) / 8))
    else if 0x80 ≤ o ∧ o < 0xC0 then some (.cntVal s ((o - 0x80) / 8))
    else match s with
      | .engine e => if 0x20 ≤ o ∧ o < 0x40 then some (.cntFixed e ((o - 0x20) / 8)) else none
      | _ => none

/-- Offsets below 0x0800. -/
def lowReg (o : Nat) : Option Reg :=
  match o with
  | 0x000 => some (.idPart 0) | 0x008 => some (.idPart 1) | 0x010 => some .idInfo | 0x018 => some .idSerial
  | 0x020 => some (.idKey 0) | 0x028 => some (.idKey 1) | 0x030 => some (.idKey 2) | 0x038 => some (.idKey 3) | 0x040 => some .idEngines
  | 0x100 => some .attachAddr | 0x108 => some .attach | 0x110 => some .hctlStatus | 0x118 => some .hctlRings | 0x120 => some .hctlHalted
  | 0x200 => some .ovsStatus | 0x208 => some .updAddr | 0x210 => some .updCtl | 0x218 => some .updStatus
  | 0x300 => some .rstReq | 0x308 => some .rstStatus | 0x310 => some .clkStatus
  | 0x400 => some .pwrLimit | 0x408 => some .pwrStatus | 0x410 => some .pwrCtl | 0x418 => some .thermStatus
  | 0x500 => some .prfCtl | 0x508 => some .prfStatus | 0x510 => some .prfRelease | 0x518 => some .prfMean | 0x520 => some .prfVar
  | 0x528 => some .prfLayerSel | 0x530 => some .prfLayerCnt | 0x580 => some .rngSeed
  | 0x600 => some .evrHead | 0x608 => some .evrAck | 0x610 => some .evrCtl | 0x618 => some .evrStatus | 0x620 => some .folioStatus
  | 0x628 => some .trcCtl | 0x640 => some .clrAddr | 0x648 => some .clrCtl
  | 0x650 => some (.clrNonce 0) | 0x658 => some (.clrNonce 1) | 0x660 => some (.clrNonce 2) | 0x668 => some (.clrNonce 3)
  | 0x700 => some .fabId | 0x710 => some .rtSel | 0x718 => some .rtData | 0x720 => some .roleSel
  | 0x728 => some (.roleData 0) | 0x730 => some (.roleData 1) | 0x738 => some .fabTbl
  | _ => none

/-- The register whose 8-byte slot begins at an offset (R510); none where the map lists none. -/
def regAt (o : Nat) : Option Reg :=
  if o % 8 ≠ 0 then none
  else if o < 0x800 then lowReg o
  else if o < 0x900 then some (if o % 16 = 0 then .portStatus ((o - 0x800) / 16) else .portCtl ((o - 0x800) / 16))
  else if o < 0x980 then
    (match o % 32 with
    | 0 => some (.jrBase ((o - 0x900) / 32))
    | 8 => some (.jrCq ((o - 0x900) / 32))
    | 16 => some (.jrCtl ((o - 0x900) / 32))
    | _ => none)
  else if 0xA00 ≤ o ∧ o < 0xA20 then some (.stkWear ((o - 0xA00) / 8))
  else if o < 0x1000 then none
  else if o < 0x1200 then some (.pltSplit ((o - 0x1000) / 8))
  else if o < 0x1400 then some (.tickRate ((o - 0x1200) / 8))
  else if o < 0x1600 then some (.stkRate ((o - 0x1400) / 8))
  else if o < 0x1800 then some (.stkBond ((o - 0x1600) / 8))
  else if o < 0x1C00 then pageReg (.forme ((o - 0x1800) / 256)) (o % 256)
  else if o < 0x1E00 then pageReg .device (o - 0x1C00)
  else if o < 0x1F00 then some (if o % 16 = 0 then .msixAddr ((o - 0x1E00) / 16) else .msixData ((o - 0x1E00) / 16))
  else if o = 0x1F00 then some .msixPba
  else if 0x2000 ≤ o ∧ o < 0x3000 then some (.window (o - 0x2000))
  else if 0x4000 ≤ o ∧ o < 0x8000 then pageReg (.engine ((o - 0x4000) / 256)) (o % 256)
  else if 0x8000 ≤ o ∧ o < 0x10000 then some (.stall ((o - 0x8000) / 512) (o % 512 / 8))
  else none

/-- Registers of units in the formes (R507). -/
def Reg.inFormes : Reg → Bool
  | .portStatus _ | .portCtl _ | .jrBase _ | .jrCq _ | .jrCtl _ | .pltSplit _ | .tickRate _ | .stkRate _ | .stkBond _ => true
  | .cntCtl _ | .cntSel _ _ | .cntVal _ _ | .cntFixed _ _ | .stall _ _ => true
  | _ => false

/-- Registers that hold a WO field: only one access of the full width writes them (R504). True of a 64-bit one. -/
def Reg.wo : Reg → Option Bool
  | .attach | .rstReq | .pwrCtl | .prfCtl | .prfRelease | .clrCtl | .fabTbl | .portCtl _ | .jrCtl _ | .pltSplit _ | .cntCtl _ => some false
  | .updCtl => some true
  | _ => none

/-- The host-coupling block and the MSI-X structures: written by the host alone (R503). -/
def hostOnly (o : Nat) : Bool := decide ((0x100 ≤ o ∧ o < 0x200) ∨ (0x1E00 ≤ o ∧ o < 0x2000))

/-- The half or the whole of a slot that a write covers (R504). -/
inductive Half
  | full | low | high
  deriving DecidableEq, Repr

def Half.lo (h : Half) : Bool := h != .high
def Half.hi (h : Half) : Bool := h != .low

/-- What a write leaves of the bits of a slot: its half takes the value written. -/
def Half.merge (h : Half) (old v : W64) : W64 :=
  match h with
  | .full => v
  | .low => (old &&& 0xFFFFFFFF00000000#64) ||| (v &&& 0xFFFFFFFF#64)
  | .high => (old &&& 0xFFFFFFFF#64) ||| (v &&& 0xFFFFFFFF00000000#64)

/-- Bits that a write of ones clears: those of the value within the half written. -/
def Half.ones (h : Half) (v : W64) : W64 := h.merge 0 v

/-- How a write ended (R474, R504, R538). -/
inductive WriteRes
  | done | ignored | locked
  deriving DecidableEq, Repr

def b1 (x : Bool) : Nat := if x then 1 else 0

namespace Chip

/-! ### Reading -/

def word (fs : List (Nat × Nat)) : W64 := BitVec.ofNat 64 (pack fs)

/-- Bit e is set for every engine in service (R465, R511). -/
def inService (c : Chip) : W64 := BitVec.ofNat 64 (ofBits ((List.range 64).map fun e => !(c.engine e).retired))
where
  ofBits : List Bool → Nat
    | [] => 0
    | b :: bs => b1 b + 2 * ofBits bs

def idInfo (c : Chip) : W64 :=
  word [(0, Config.stepping.toNat), (8, 1), (16, (c.engines.filter fun x => !x.retired).length)]

/-- Eight bytes of a byte string. -/
def eight (bs : List Byte) (i : Nat) : W64 := BitVec.ofNat 64 (ofBytes ((bs.drop (8 * i)).take 8))

def partNumber : List Byte := [0x54, 0x4B, 0x53, 0x34, 0x2D, 0x32, 0x35, 0x36, 0x30, 0x2D, 0x4C, 0x43, 0, 0, 0, 0]

def hctlCode (s : HctlState) : Nat := match s with | .detached => 0 | .attaching => 1 | .attached => 2 | .detaching => 3

def hctlStatus (c : Chip) : W64 :=
  word [(0, hctlCode c.host.state), (2, b1 c.host.busy), (3, b1 c.host.lost), (4, c.host.result % 16), (16, c.host.session % p2 16)]

/-- A bit for every engine whose ring of the session in force meets a condition (R512). -/
def ringBits (c : Chip) (p : HostRing → Bool) : W64 :=
  if c.host.inForce then BitVec.ofNat 64 (inService.ofBits ((List.range 64).map fun e => (c.engine e).ring.any p)) else 0

def ovsStatus (c : Chip) (b : Board) : W64 :=
  let m := c.imp
  word [(0, ovsStateCode c.ovs.state), (3, c.ovs.slot % 2), (4, b1 c.ovs.trial), (5, b1 c.ovs.reverted), (6, b1 b.fuses.ownerHash.isSome),
    (16, c.ovs.svn % p2 16), (32, b.fuses.svnMin % p2 16), (48, b1 m.engExpert), (49, b1 m.prfExpert), (50, b1 m.pwrExpert),
    (51, b1 m.rstExpert), (52, b1 m.fabExpert)]

def updCode (s : UpdStage) : Nat := match s with | .idle => 0 | .copying => 1 | .verifying => 2 | .committing => 3

def updStatus (c : Chip) : W64 :=
  let u := c.ovs.upd
  word [(0, updCode u.stage), (2, b1 u.deferred), (3, b1 u.done), (4, u.result % 16), (16, u.progress % p2 16)]

def rstStatus (c : Chip) : W64 :=
  let r := c.rst
  word [(0, b1 r.busy), (1, r.kind % 8), (4, r.target % 64), (10, b1 r.forced), (11, b1 r.done), (12, r.result % 16),
    (32, inService.ofBits ((List.range 21).map fun d => r.beds.any fun b => b.code == d && b.stage != .asked))]

/-- LOCKED of CD-OVS is always 1 (R407). -/
def clkStatus (c : Chip) : W64 := word [(0, (c.rst.locked ||| ((1 : BitVec 25) <<< 22)).toNat), (32, c.rst.lostLock.toNat)]

def pwrLimitReg (c : Chip) : W64 :=
  word [(0, c.pwr.localCeil % p2 16), (16, c.pwr.eff % p2 16), (32, (c.rackLimit.getD 0) % p2 16), (48, min 15 c.liveLeases.length)]

def pwrStatus (c : Chip) : W64 :=
  let p := c.pwr
  word [(0, pwrModeCode p.mode), (2, b1 p.unmet), (3, b1 p.moEntered), (4, b1 p.sensor), (16, p.meas % p2 16), (32, p.est % p2 16), (48, p.cap % 256)]

def pwrCtl (c : Chip) : W64 := word ((List.range 4).map fun f => (8 * f, (c.formePower f).ceil))

def thermStatus (c : Chip) (b : Board) : W64 :=
  let p := c.pwr
  word [(0, p.tjMax % 4096), (16, inService.ofBits (p.formes.map FormePower.hot)), (20, b1 (p.stop != .none_)),
    (21, b1 ((List.range 16).any fun m => match c.reading (hbmSensor m) with | some t => decide (degrees 85 < t) | none => false)), (22, b1 (c.folioWaits b)), (23, b1 (c.ovs.upd.deferred || c.ovs.confirm)),
    (24, min 255 (p.badSensors.length + ((List.range 13).filter fun i => p.badRails.getLsbD i).length))]

/-- UPDATE slugs that wait under HOLD (R241). DEDUCED, log entry 53. -/
def heldUpdates (c : Chip) : Nat :=
  if c.prf.hold then (c.engines.map fun x => (x.qUpdate.filter fun q => !q.began).length).sum else 0

def prfStatus (c : Chip) : W64 := word [(0, b1 c.prf.hold), (1, b1 c.prf.spiked), (16, c.heldUpdates % p2 16), (32, c.prf.n.toNat)]

def evrCtl (c : Chip) : W64 := word [(0, c.evr.page), (12, c.evr.area), (14, b1 c.evr.irqEn), (15, c.evr.irqVec)]
def trcCtl (c : Chip) : W64 := word [(0, b1 c.evr.trcOn), (1, c.evr.trcMin), (4, c.evr.trcSink)]

def clrCode (s : ClrStage) : Nat := match s with | .idle => 0 | .checking => 1 | .clearing => 2

def clrCtl (c : Chip) : W64 :=
  let k := c.ovs.clr
  word [(3, clrCode k.stage), (5, b1 k.deferred), (6, b1 k.done), (7, k.result)]

def fabIdReg (c : Chip) : W64 :=
  word [(0, c.fab.deviceId % p2 16), (16, c.fab.domainId % p2 16), (32, b1 c.fab.idValid), (33, b1 c.fab.assigned)]

def portCode (s : PortState) : Nat := match s with | .down => 0 | .training => 1 | .up => 2 | .ethernet => 3

/-- FAB_PORT_STATUS (R299). Before the formes start it reads its Reset value (R507). -/
def portStatusReg (c : Chip) (p : Nat) : W64 :=
  let q := c.port p
  if !c.formesUp then 0
  else word [(0, portCode q.state), (2, if q.state = .down then 0 else codeOfLanes q.width), (4, q.peerId % p2 16), (20, q.peerPort % 16),
    (24, b1 q.domainErr), (25, b1 q.wentDown), (32, q.replays.toNat)]

/-- The selectors and the snapshot of an access path (R513). -/
def pathRegs (c : Chip) (path : Path) : PathRegs :=
  match path with
  | .host => c.fab.hostPath
  | .mgmt => c.fab.mgmtPath
  | .core => c.fab.corePath
def onPath (c : Chip) (path : Path) (g : PathRegs → PathRegs) : Chip :=
  c.onFab fun f => match path with
    | .host => { f with hostPath := g f.hostPath }
    | .mgmt => { f with mgmtPath := g f.mgmtPath }
    | .core => { f with corePath := g f.corePath }

def jrCtl (q : JobRing) : W64 := word [(0, q.log2), (4, q.space), (6, b1 q.enable), (8, b1 q.halted)]

def pltSplitReg (x : Engine) : W64 :=
  let p := x.split
  word [(0, p.reqScratch), (8, p.reqSpike), (16, p.cache), (25, b1 p.busy), (26, b1 p.err)]

/-- What a register of a unit in the formes reads before they start (R507). -/
def resetRead (r : Reg) : W64 :=
  match r with
  | .pltSplit _ => word [(0, 8), (8, 8), (16, 16)]
  | .stkRate _ => word [(0, 0x3FC), (11, 0x1FE), (21, 0x3FF)]
  | _ => 0

def selWord (k : SelCnt) : W64 := word [(0, k.source % 8192), (16, k.arg % p2 16), (32, b1 k.wrapped)]

def msixAt (c : Chip) (v : Nat) : Msix := c.host.msix.getD v {}

/-- The 8-byte slot of a register as it reads on a path, for the registers that the chip alone holds. -/
def chipReg (c : Chip) (path : Path) (r : Reg) : W64 :=
  if r.inFormes && !c.formesUp then resetRead r
  else match r with
  | .idPart i => eight partNumber i
  | .idInfo => c.idInfo
  | .idSerial => Config.serial
  | .idKey i => eight (sha512 Config.identityKey) i
  | .idEngines => c.inService
  | .attachAddr => c.host.attachAddr
  | .attach => 0
  | .hctlStatus => c.hctlStatus
  | .hctlRings => c.ringBits fun _ => true
  | .hctlHalted => c.ringBits HostRing.halted
  | .updAddr => c.ovs.upd.addr
  | .updCtl => 0
  | .updStatus => c.updStatus
  | .rstReq => 0
  | .rstStatus => c.rstStatus
  | .clkStatus => c.clkStatus
  | .pwrLimit => c.pwrLimitReg
  | .pwrStatus => c.pwrStatus
  | .pwrCtl => c.pwrCtl
  | .prfCtl => word [(0, b1 c.prf.action), (1, b1 c.prf.nfAsSpike)]
  | .prfStatus => c.prfStatus
  | .prfRelease => 0
  | .prfMean => c.prf.mean.setWidth 64
  | .prfVar => c.prf.var.setWidth 64
  | .prfLayerSel => BitVec.ofNat 64 c.prf.layerSel
  | .prfLayerCnt => word [(0, Tab.get 0 c.prf.layerNan c.prf.layerSel), (32, Tab.get 0 c.prf.layerInf c.prf.layerSel)]
  | .rngSeed => c.seed
  | .evrHead => BitVec.ofNat 64 c.evrHead
  | .evrAck => c.evr.ack
  | .evrCtl => c.evrCtl
  | .evrStatus => word [(0, c.evr.lost.toNat), (48, b1 c.evr.lostNew)]
  | .trcCtl => c.trcCtl
  | .clrAddr => c.ovs.clr.addr
  | .clrCtl => c.clrCtl
  | .clrNonce i => BitVec.ofNat 64 (c.ovs.clr.nonce.toNat >>> (64 * i))
  | .fabId => c.fabIdReg
  | .rtSel => BitVec.ofNat 64 (c.pathRegs path).rtSel
  | .rtData => (Tab.get 0 c.fab.routes (c.pathRegs path).rtSel).setWidth 64
  | .roleSel => BitVec.ofNat 64 (c.pathRegs path).roleSel
  | .roleData i => BitVec.ofNat 64 ((roleEntry (c.pathRegs path).roleSnap).toNat >>> (64 * i))
  | .fabTbl => word [(8, b1 (c.pathRegs path).roleBusy)]
  | .portStatus p => c.portStatusReg p
  | .portCtl p => BitVec.ofNat 64 (b1 (c.port p).disable)
  | .jrBase n => BitVec.ofNat 64 (c.ring n).base
  | .jrCq n => BitVec.ofNat 64 (c.ring n).cq
  | .jrCtl n => jrCtl (c.ring n)
  | .stkWear f => c.stkWear f
  | .pltSplit e => pltSplitReg (c.engine e)
  | .tickRate e => BitVec.ofNat 64 ((c.engine e).tickRate % p2 32)
  | .stkRate e => c.stkRate e
  | .stkBond e => c.stkBond e
  | .cntCtl s => word [(1, b1 (c.shadowsOf s).latched)]
  | .cntSel s i => match (c.selOf s)[i]? with
    | some k => selWord k
    | none => 0
  | .cntVal s i => ((c.shadowsOf s).sel.getD i 0).setWidth 64
  | .cntFixed e i => ((c.shadowsOf (.engine e)).fixed.getD i 0).setWidth 64
  | .stall e i => ((c.shadowsOf (.engine e)).stall.getD i 0).setWidth 64
  | .msixAddr v => (c.msixAt v).addr
  | .msixData v => word [(0, (c.msixAt v).data.toNat), (32, (c.msixAt v).control.toNat)]
  | .msixPba => BitVec.ofNat 64 (inService.ofBits (c.host.msix.map Msix.pending))
  | .ovsStatus | .thermStatus | .folioStatus | .window _ => 0   -- these read the board too: `readReg`

/-- The 8-byte slot of a register as it reads on a path. -/
def readReg (c : Chip) (b : Board) (path : Path) (r : Reg) : W64 :=
  match r with
  | .ovsStatus => c.ovsStatus b
  | .thermStatus => c.thermStatus b
  | .folioStatus => folioStatus b
  | .window off => c.windowWord b off
  | r => c.chipReg path r

/-- The 8-byte slot at an offset; one that the map does not list reads as zero (R505). -/
def readSlot (c : Chip) (b : Board) (path : Path) (o : Nat) : W64 :=
  match regAt o with
  | some r => c.readReg b path r
  | none => 0

/-- A read access of `size` bytes at an offset: an aligned 8-byte one takes its slot whole, an aligned 4-byte one its half; any other reads zero (R504). -/
def regRead (c : Chip) (b : Board) (path : Path) (o size : Nat) : W64 :=
  if size = 8 ∧ o % 8 = 0 then c.readSlot b path o
  else if size = 4 ∧ o % 4 = 0 then (c.readSlot b path (o / 8 * 8) >>> (8 * (o % 8))) &&& 0xFFFFFFFF
  else 0

/-! ### Writing -/

/-- The host's window decodes from step 1 of the cold start on (R466, R507). -/
def windowUp (c : Chip) : Bool := c.standby && c.ovs.state != .rom

def onPrf (c : Chip) (g : Proofreader → Proofreader) : Chip := { c with prf := g c.prf }
def onRst (c : Chip) (g : Resets → Resets) : Chip := { c with rst := g c.rst }

/-- PRF_RELEASE.APPLY: HOLD is cleared, and the held slugs run (R238). -/
def releaseApply (c : Chip) : Chip := if c.prf.hold then c.onPrf fun p => { p with hold := false } else c

/-- PRF_RELEASE.SKIP: every held UPDATE slug completes with UPDATE_SKIPPED, then HOLD is cleared (R238). -/
def releaseSkip (c : Chip) : Chip :=
  if !c.prf.hold then c
  else
    let skip (c : Chip) (e : Nat) : Chip :=
      (((c.engine e).qUpdate.filter fun q => !q.began).foldl (fun (c : Chip) q => c.endSlug e .update q .updateSkipped 0) c)
    ((List.range 64).foldl skip c).onPrf fun p => { p with hold := false }

/-- PRF_CTL.RESET_STATS (R240). -/
def resetStats (c : Chip) : Chip := c.onPrf fun p => { p with mean := 0, var := 0, n := 0 }

def writePrfCtl (c : Chip) (v : Nat) : Chip :=
  let c1 := c.onPrf fun p => { p with action := nbits v 0 1 == 1, nfAsSpike := nbits v 1 1 == 1 }
  if nbits v 2 1 = 1 then c1.resetStats else c1

def writePrfRelease (c : Chip) (v : Nat) : Chip :=
  match v % 4 with
  | 1 => c.releaseApply
  | 2 => c.releaseSkip
  | _ => c

/-- PWR_CTL: the ceilings, and REARM (R451). -/
def writePwrCtl (c : Chip) (v : Nat) : Chip :=
  let c1 := c.onPwr fun p => { p with formes := p.formes.zipIdx.map fun ((q : FormePower), f) => { q with ceil := min 20 (nbits v (8 * f) 5) } }
  if nbits v 29 1 = 1 then c1.rearm else c1

/-- PLT_SPLIT: the requested sizes, and APPLY, which sets ERR or BUSY at once (R194). -/
def writeSplit (c : Chip) (e v : Nat) : Chip :=
  if (c.engine e).retired then c
  else c.onEngine e fun x =>
    let p0 := x.split
    let p1 := if nbits v 26 1 = 1 then { p0 with err := false } else p0
    let split : PltSplit :=
      if p1.busy then p1
      else
        let p2 := { p1 with reqScratch := nbits v 0 6, reqSpike := nbits v 8 6 }
        if nbits v 24 1 = 0 then p2
        else if 32 < p2.reqScratch + p2.reqSpike then { p2 with err := true } else { p2 with busy := true }
    { x with split }

/-- FAB_PORT_CTL: DISABLE, and RETRAIN_FULL (R299). -/
def writePortCtl (c : Chip) (p v : Nat) : Chip :=
  let on : Bool := nbits v 0 1 == 1
  let c1 := let c0 := c.setDisable p on
    if on && (c.port p).state == .ethernet then c0.ethPortDown p else c0
  if nbits v 1 1 = 1 ∧ (c.port p).state ≠ .ethernet then c1.retrainFull p else c1

/-- FAB_RT_DATA: the selected routing entry is replaced in every forme's copy at once (R291, R513). -/
def setRoute (c : Chip) (i : Nat) (w : BitVec 32) : Chip :=
  (c.onFab fun f => { f with routes := Tab.set i (w &&& 0x01FFFFFF) f.routes }).loseRoutes

/-- A write of FAB_ROLE_SEL loads the snapshot (R513). -/
def loadRole (c : Chip) (path : Path) (i : Nat) : Chip :=
  c.onPath path fun r => { r with roleSel := i, roleSnap := Tab.get 0 c.fab.roles i }

/-- The number of an access path in acknowledgements. -/
def pathNo (path : Path) : Nat := match path with | .host => 0 | .mgmt => 1 | .core => 2

/-- FAB_TBL.COMMIT_ROLE: the snapshot becomes the selected entry under R303; ROLE_BUSY holds until it completes. -/
def commitRole (c : Chip) (path : Path) : Chip :=
  let r := c.pathRegs path
  (c.onPath path fun r => { r with roleBusy := true }).writeRole r.roleSel r.roleSnap (.path (pathNo path))

/-- CNT_CTL: ZERO, then LATCH (R500). -/
def writeCntCtl (c : Chip) (s : Scope) (v : Nat) : Chip :=
  let c1 := if nbits v 2 1 = 1 then c.zeroScope s else c
  if nbits v 0 1 = 1 then c1.latch s (nbits v 3 1 == 1) else c1

/-- CNT_SEL: a write of SOURCE or ARG zeroes the counter; WRAPPED is W1C (R500). -/
def writeCntSel (c : Chip) (s : Scope) (i : Nat) (h : Half) (v : W64) : Chip :=
  let c1 := if h.lo then c.selectSource s i (nbits v.toNat 0 13) (nbits v.toNat 16 16) else c
  if h.hi && v.getLsbD 32 then c1.setSel s (modifyAt (fun (k : SelCnt) => { k with wrapped := false }) (c1.selOf s) i) else c1

/-- An entry of the MSI-X table; a pending message goes out when its vector is unmasked (R517). -/
def writeMsix (c : Chip) (v : Nat) (data control : BitVec 32) : Chip :=
  let c1 := c.onHost fun h => { h with msix := modifyAt (fun m => { m with data, control := control &&& 1 }) h.msix v }
  if (c1.msixAt v).pending && !control.getLsbD 0 then c1.msixRaise v else c1

/-- The write of a register that its level lets through. -/
def putReg (c : Chip) (path : Path) (r : Reg) (h : Half) (v : W64) : Chip :=
  let m := h.merge (c.chipReg path r) v
  let one (i : Nat) : Bool := (h.ones v).getLsbD i
  let n := v.toNat
  let lo := h.lo
  match r with
  | .attachAddr => c.onHost fun x => { x with attachAddr := m &&& ~~~(0x3F#64) }
  | .attach => if lo then c.writeAttach n else c
  | .hctlStatus => if one 3 then c.onHost fun x => { x with lost := false } else c
  | .ovsStatus => if one 5 then c.onOvs fun x => { x with reverted := false } else c
  | .updAddr => c.onUpd fun u => { u with addr := m &&& ~~~(0xFFF#64) }
  | .updCtl => match n % 4 with
    | 1 => c.updStart (nbits n 2 1) (nbits n 3 1 == 1) (nbits n 32 32)
    | 2 => c.updAbort
    | _ => c
  | .updStatus => if one 3 then c.onUpd fun u => { u with done := false } else c
  | .rstReq => if lo then c.rstReq (nbits n 0 3) (nbits n 3 6) (nbits n 9 1 == 1) (nbits n 10 1 == 1) else c
  | .rstStatus => if one 11 then c.onRst fun x => { x with done := false } else c
  | .clkStatus => c.onRst fun x => { x with lostLock := x.lostLock &&& ~~~(BitVec.ofNat 25 ((h.ones v).toNat >>> 32)) }
  | .pwrLimit => c.onPwr fun p => { p with localCeil := nbits m.toNat 0 16 }
  | .pwrStatus => c.onPwr fun p => { p with moEntered := p.moEntered && !one 3, sensor := p.sensor && !one 4 }
  | .pwrCtl => if lo then c.writePwrCtl n else c
  | .prfCtl => if lo then c.writePrfCtl n else c
  | .prfStatus => if one 1 then c.onPrf fun p => { p with spiked := false } else c
  | .prfRelease => if lo then c.writePrfRelease n else c
  | .prfLayerSel => c.onPrf fun p => { p with layerSel := nbits m.toNat 0 10 }
  | .prfLayerCnt =>
    let clear (on : Bool) (i : Nat) (t : Tab Nat) : Tab Nat :=
      let left := Tab.get 0 t c.prf.layerSel &&& (p2 32 - 1 - nbits n i 32)
      if !on then t else if left = 0 then Tab.erase c.prf.layerSel t else Tab.set c.prf.layerSel left t
    c.onPrf fun p => { p with layerNan := clear lo 0 p.layerNan, layerInf := clear h.hi 32 p.layerInf }
  | .rngSeed => { c with seed := m }
  | .evrAck => c.onEvr fun x => { x with ack := m }
  | .evrCtl => c.onEvr fun x => { x with page := nbits m.toNat 0 12, area := nbits m.toNat 12 2, irqEn := m.getLsbD 14, irqVec := nbits m.toNat 15 4 }
  | .evrStatus => if one 48 then c.onEvr fun x => { x with lostNew := false } else c
  | .trcCtl => c.onEvr fun x => { x with trcOn := m.getLsbD 0, trcMin := nbits m.toNat 1 3, trcSink := nbits m.toNat 4 16 }
  | .clrAddr => c.onClr fun k => { k with addr := m &&& ~~~(0x3F#64) }
  | .clrCtl =>
    let c1 := if one 6 then c.onClr fun k => { k with done := false } else c
    if lo ∧ n % 4 = 1 then c1.clrStart (nbits n 2 1) else c1
  | .rtSel => c.onPath path fun x => { x with rtSel := nbits m.toNat 0 16 }
  | .rtData => if lo then c.setRoute (c.pathRegs path).rtSel (BitVec.ofNat 32 n) else c
  | .roleSel => if lo && !(c.pathRegs path).roleBusy then c.loadRole path (nbits n 0 16) else c
  | .roleData i => if (c.pathRegs path).roleBusy then c
    else c.onPath path fun x =>
      let old := x.roleSnap.toNat
      { x with roleSnap := if i = 0 then BitVec.ofNat 128 (m.toNat + (old >>> 64) <<< 64) else BitVec.ofNat 128 (old % p2 64 + m.toNat <<< 64) }
  | .fabTbl =>
    if !lo || (c.pathRegs path).roleBusy then c
    else
      let c1 := if nbits n 0 1 = 1 then c.commitRole path else c
      if nbits n 1 1 = 1 then c1.loadRole path (c1.pathRegs path).roleSel else c1
  | .portStatus p => c.onPort p fun q => { q with domainErr := q.domainErr && !one 24, wentDown := q.wentDown && !one 25 }
  | .portCtl p => if lo then c.writePortCtl p n else c
  | .jrBase k => if (c.ring k).enable then c else c.onJRing k fun q => { q with base := m.toNat / 4096 * 4096 }
  | .jrCq k => if (c.ring k).enable then c else c.onJRing k fun q => { q with cq := m.toNat / 4096 * 4096 }
  | .jrCtl k => if lo then c.writeJobCtl k n else c
  | .pltSplit e => if lo then c.writeSplit e n else c
  | .stkBond e => if one 63 then { c with bondChanged := c.bondChanged.filter (· != e) } else c
  | .cntCtl s => if lo then c.writeCntCtl s n else c
  | .cntSel s i => c.writeCntSel s i h v
  | .msixAddr k => c.onHost fun x => { x with msix := modifyAt (fun e => { e with addr := m &&& ~~~(3#64) }) x.msix k }
  | .msixData k => c.writeMsix k (BitVec.ofNat 32 m.toNat) (BitVec.ofNat 32 (m.toNat >>> 32))
  | _ => c

/-- What a write from the host window or by REG_WRITE may not touch at the device's control level (R473, R509); control cores are not
subject to the levels (R25). DEDUCED, log entry 58. -/
def lockedReg (c : Chip) (path : Path) (r : Reg) (v : W64) : Bool :=
  if path = .core then false
  else match r with
    | .rstReq => !c.imp.rstExpert
    | .pwrCtl => !c.imp.pwrExpert
    | .prfCtl => !c.imp.prfExpert
    | .pltSplit _ => !c.imp.engExpert
    | .rtData | .portCtl _ => !c.imp.fabExpert
    | .fabTbl => !c.imp.fabExpert && v.getLsbD 0 && !(c.pathRegs path).roleBusy
    | _ => false

/-- A write of all or half of the slot at an offset, on a path (R503 to R507, R509, R474). DEDUCED, log entry 57. -/
def writeAt (c : Chip) (path : Path) (o : Nat) (h : Half) (v : W64) : WriteRes × Chip :=
  if path ≠ .host ∧ hostOnly o ∨ path = .host ∧ !c.windowUp then (.ignored, c)
  else match regAt o with
    | none => (.done, c)
    | some r =>
      let narrow : Bool := match r.wo with
        | none => false
        | some true => h != .full
        | some false => h == .high
      if narrow then (.ignored, c)
      else if r.inFormes && !c.formesUp then (.done, c)
      else if c.lockedReg path r v then
        (.locked, if path = .host then c.raise evLevelLocked .note srcHost .device [BitVec.ofNat 64 o] else c)
      else (.done, c.putReg path r h v)

/-- A write access of `size` bytes at an offset: only aligned 4-byte and 8-byte ones write (R504). The value's low bytes are written.
DEDUCED, log entry 57. -/
def regWrite (c : Chip) (path : Path) (o size : Nat) (v : W64) : Chip :=
  if size = 8 ∧ o % 8 = 0 then (c.writeAt path o .full v).2
  else if size = 4 ∧ o % 8 = 0 then (c.writeAt path o .low v).2
  else if size = 4 ∧ o % 8 = 4 then (c.writeAt path (o - 4) .high (v <<< 32)).2
  else c

end Chip

end Sys2Proof.Machine
end

