-- ==== Sys2Proof/Machine/Mgmt.lean ====
section
/-!
DEFINITION. The management plane of the overseer: the messages of chapter 10 (R319 to R321, R538), the I3C target (R472) and the SPDM
responder (R349, R465).
-/
namespace Sys2Proof.Machine

def mtRegRead : Nat := 0x01
def mtRegWrite : Nat := 0x02
def mtRegResp : Nat := 0x03
def mtPowerLimit : Nat := 0x10
def mtIdAssign : Nat := 0x30
def mtRoleSet : Nat := 0x31
def mtRtSet : Nat := 0x32
def mtDiscover : Nat := 0x33
def mtDiscoverResp : Nat := 0x34

/-- The types that only the senders of FAB_MANAGERS may send (R319). -/
def authorisedType (t : Nat) : Bool := [mtRegWrite, mtPowerLimit, mtIdAssign, mtRoleSet, mtRtSet].contains t

namespace Chip

/-! ### Management messages -/

/-- An answer goes back the way its message came: over the same link when that was LINK_LOCAL (R320). -/
def mgmtReply (c : Chip) (m : MgmtMsg) (mtype part : Nat) (payload : BitVec 512) : Chip :=
  if m.linkLocal then c.sendMgmtLink m.port m.src mtype m.seq part payload else c.sendMgmt m.src mtype m.seq part payload

/-- REG_RESP (R538). -/
def regResp (c : Chip) (m : MgmtMsg) (st : Status) (v : W64) : Chip :=
  c.mgmtReply m mtRegResp 0 (BitVec.ofNat 512 (v.toNat + st.code <<< 64))

/-- The sender may send messages of this type (R320). -/
def mayManage (c : Chip) (m : MgmtMsg) : Bool := !authorisedType m.mtype || c.imp.fabManagers.contains m.src

/-- A message of an authorised type from another sender (R320, R538). -/
def refuseMgmt (c : Chip) (m : MgmtMsg) : Chip :=
  (c.raise Status.mgmtRefused.code .note srcOvs .device []).regResp m .mgmtRefused 0

def regReadMsg (c : Chip) (b : Board) (m : MgmtMsg) : Chip :=
  let o := fld m.payload 31 0
  if o % 8 ≠ 0 then c.regResp m .placeIllegal 0 else c.regResp m .success (c.regRead b .mgmt o 8)

/-- The access that a byte mask asks for (R538). -/
def maskHalf (mask : Nat) : Option Half :=
  match mask with
  | 0xFF => some .full
  | 0x0F => some .low
  | 0xF0 => some .high
  | _ => none

def regWriteMsg (c : Chip) (m : MgmtMsg) : Chip :=
  let o := fld m.payload 31 0
  match maskHalf (fld m.payload 103 96) with
  | none => c.regResp m .placeIllegal 0
  | some h =>
    if o % 8 ≠ 0 then c.regResp m .placeIllegal 0
    else match c.writeAt .mgmt o h (BitVec.ofNat 64 (fld m.payload 95 32)) with
      | (.done, c1) => c1.regResp m .success 0
      | (.ignored, c1) => c1.regResp m .placeIllegal 0
      | (.locked, c1) => c1.regResp m .levelLocked 0

/-- ID_ASSIGN acts over a link, while the device awaits its id in ASSIGNED mode (R289, R320); without FAB_ROUTES, the own entry of the routing table is
valid from then on (R460). -/
def idAssign (c : Chip) (m : MgmtMsg) : Chip :=
  if m.linkLocal && !c.fab.idValid && c.fab.assigned then
    (c.onFab fun f => { f with
      deviceId := fld m.payload 15 0, idValid := true,
      routes := if f.ownRoute then Tab.set (fld m.payload 15 0) (BitVec.ofNat 32 (p2 24)) f.routes else f.routes }).regResp m .success 0
  else c.regResp m .mgmtRefused 0

def roleSetMsg (c : Chip) (m : MgmtMsg) : Chip :=
  c.writeRole (fld m.payload 15 0) (BitVec.ofNat 128 (fld m.payload 143 16)) (.msg m.src m.seq m.port m.linkLocal)

def rtSetMsg (c : Chip) (m : MgmtMsg) : Chip :=
  (c.setRoute (fld m.payload 15 0) (BitVec.ofNat 32 (fld m.payload 47 16))).regResp m .success 0

/-- FAB_PORT_STATUS of ports `p` onward, one after the other. -/
def portStatuses (c : Chip) (p n : Nat) : Nat := pack ((List.range n).map fun i => (64 * i, (c.portStatusReg (p + i)).toNat))

/-- The three parts of DISCOVER_RESP (R538). -/
def discover (c : Chip) (m : MgmtMsg) : Chip :=
  let part (k v : Nat) (c : Chip) : Chip := c.mgmtReply m mtDiscoverResp k (BitVec.ofNat 512 v)
  part 2 (c.portStatusReg 15).toNat (part 1 (c.portStatuses 7 8) (part 0 (c.fabIdReg.toNat + (c.portStatuses 0 7) <<< 64) c))

/-- The overseer acts on one message (R319, R320, R538); a type that the table does not list has no effect. -/
def actMgmt (c : Chip) (b : Board) (m : MgmtMsg) : Chip :=
  if !c.mayManage m then c.refuseMgmt m
  else if m.mtype = mtRegRead then c.regReadMsg b m
  else if m.mtype = mtRegWrite then c.regWriteMsg m
  else if m.mtype = mtPowerLimit then
    let (ack, c1) := c.powerLimit m.src m.payload
    c1.mgmtReply m 0x11 0 ack
  else if m.mtype = mtIdAssign then c.idAssign m
  else if m.mtype = mtRoleSet then c.roleSetMsg m
  else if m.mtype = mtRtSet then c.rtSetMsg m
  else if m.mtype = mtDiscover then c.discover m
  else if m.mtype = mtRegResp ∨ m.mtype = mtDiscoverResp then c.mgmtResponse m
  else c

/-- The message that the overseer takes next: the messages of a source with a POWER_LIMIT waiting come first, oldest first, so that those of
one source are acted on in arrival order (R321, R455). -/
def nextMgmt (c : Chip) : Option MgmtMsg :=
  match c.fab.mgmt.find? fun m => m.mtype == mtPowerLimit with
  | some m => c.fab.mgmt.find? fun x => x.src == m.src
  | none => c.fab.mgmt.head?

/-- Take and act on messages in that order; `fuel` bounds them. -/
def mgmtTask (b : Board) : Nat → Chip → Chip
  | 0, c => c
  | fuel + 1, c =>
    match c.nextMgmt with
    | none => c
    | some m => mgmtTask b fuel ((c.onFab fun f => { f with mgmt := f.mgmt.erase m }).actMgmt b m)

/-- A management message of a type can be taken: the fabric runs, and a device without an id takes LINK_LOCAL ones only (R289). -/
def mgmtOpen (c : Chip) (linkLocal : Bool) : Bool := c.formesUp && (linkLocal || c.fab.idValid)

/-- A row of management messages: one of its types arrives and joins the queue, or the next in the queue is acted on if it is one. -/
def mgmtRow (c : Chip) (b : Board) (mtype part : Nat) (src : MsgSrc) : Chip :=
  match src with
  | .arrives from_ port linkLocal seq payload =>
    if c.mgmtOpen linkLocal then
      c.enqueueMgmt { src := from_.toNat, port := port.toNat, linkLocal, mtype, seq := seq.toNat, part, payload }
    else c
  | .queued =>
    match c.nextMgmt with
    | some m => if m.mtype = mtype ∧ c.formesUp then (c.onFab fun f => { f with mgmt := f.mgmt.erase m }).actMgmt b m else c
    | none => c

/-! ### I3C (R472) -/

def onI3c (c : Chip) (g : I3c → I3c) : Chip := c.onOvs fun o => { o with i3c := g o.i3c }

/-- The target has an address, and power. -/
def i3cLive (c : Chip) : Bool := c.standby && c.ovs.i3c.dyn.isSome

/-- TRIP, at index 0x1A. -/
def i3cTrip (c : Chip) : Nat :=
  match c.pwr.trip with
  | none => 0
  | some (sensor, t) => pack [(0, t % 4096), (12, sensor % 128), (19, 1)]

/-- The byte at an index; a write-only or unlisted one reads as zero (PRESUMED, log entry 34). -/
def i3cByte (c : Chip) (b : Board) (i : Nat) : Byte :=
  let at_ (v lo : Nat) : Byte := BitVec.ofNat 8 (v >>> (8 * (i - lo)))
  if i < 0x08 then at_ (c.ovsStatus b).toNat 0
  else if i < 0x10 then at_ (c.thermStatus b).toNat 0x08
  else if i < 0x18 then at_ c.pwrStatus.toNat 0x10
  else if i < 0x1A then 0
  else if i < 0x1E then at_ c.i3cTrip 0x1A
  else if i < 0x20 then 0
  else if i < 0x30 then at_ c.evr.latest.toNat 0x20
  else if i < 0x38 then at_ c.fabIdReg.toNat 0x30
  else 0

/-- A private read of `n` bytes from the index. -/
def i3cRead (c : Chip) (b : Board) (n : Nat) : Chip :=
  if !c.i3cLive then c
  else
    let i := c.ovs.i3c.index.toNat
    let bs := (List.range n).map fun k => c.i3cByte b ((i + k) % 256)
    (c.onI3c fun x => { x with index := x.index + BitVec.ofNat 8 n }).send (.i3c bs)

/-- A private write: the first byte is the index, and the others are written from there. A write of both bytes of FLASH_TEMP is a fresh
report; no other place is writable. -/
def i3cWrite (c : Chip) (bs : List Byte) : Chip :=
  if !c.i3cLive then c
  else match bs with
    | [] => c
    | b :: data =>
      let at_ (i : Nat) : Option Byte := data[(i + 256 - b.toNat) % 256]?
      let c1 := c.onI3c fun x => { x with index := b + BitVec.ofNat 8 data.length }
      match at_ 0x18, at_ 0x19 with
      | some lo, some hi => c1.onI3c fun x => { x with flashTemp := (lo.toNat + 256 * hi.toNat) % 4096, flashAge := some 0 }
      | _, _ => c1

/-- ENTDAA: a target without an address takes the one it is given. -/
def entdaa (c : Chip) (a : BitVec 7) : Chip :=
  if c.standby && c.ovs.i3c.dyn.isNone then c.onI3c fun x => { x with dyn := some a } else c
/-- SETDASA: the static address 0x4C becomes its address. -/
def setdasa (c : Chip) : Chip := c.entdaa 0x4C
def rstdaa (c : Chip) : Chip := if c.standby then c.onI3c fun x => { x with dyn := none } else c
def i3cEvents (c : Chip) (on : Bool) : Chip := if c.standby then c.onI3c fun x => { x with ibi := on } else c
/-- What a direct CCC reads. -/
def i3cAnswer (c : Chip) (bs : List Byte) : Chip := if c.i3cLive then c.send (.i3c bs) else c
/-- GETSTATUS: the manual gives the target's status no contents (DESIGN CHOICE, log entry 7). -/
def getStatus (c : Chip) : Chip :=
  if !c.i3cLive then c
  else
    let (n, c1) := c.fresh
    c1.send (.i3c (toBytes 2 (Config.freeBits n 0)))

/-! ### SPDM (R349, R465) -/

/-- The responder answers: the link carries DOE, and the overseer's firmware or the mask ROM has started it. -/
def spdmUp (c : Chip) : Bool := c.standby && c.host.l0 && c.ovs.state != .rom

def onSpdm (c : Chip) (g : Spdm → Spdm) : Chip := c.onOvs fun o => { o with spdm := g o.spdm }
def spdmSay (c : Chip) (r : SpdmResp) : Chip := c.send (.spdm r)

/-- A request that comes in its order; the order is the outside standard's (PRESUMED, log entry 33). -/
def spdmIn (c : Chip) (ready : Spdm → Bool) (act : Chip → Chip) : Chip :=
  if !c.spdmUp then c else if ready c.ovs.spdm then act c else c.spdmSay .unexpectedRequest

def getVersion (c : Chip) : Chip :=
  c.spdmIn (fun _ => true) fun c => (c.onSpdm fun _ => { version := true }).spdmSay .version
def getCapabilities (c : Chip) : Chip :=
  c.spdmIn (fun s => s.version) fun c => (c.onSpdm fun s => { s with caps := true }).spdmSay (.capabilities 17)
def negotiate (c : Chip) : Chip :=
  c.spdmIn (fun s => s.caps) fun c => (c.onSpdm fun s => { s with algs := true }).spdmSay .algorithms

def getDigests (c : Chip) (b : Board) : Chip :=
  c.spdmIn (fun s => s.algs) fun c => c.spdmSay (.digests (if c.ovs.certOk then some (sha512 (certChain b.flash)) else none))

/-- GET_CERTIFICATE: a portion of slot 0's chain; no other slot exists, and slot 0 is empty while its chain is invalid (R464). -/
def getCertificate (c : Chip) (b : Board) (slot offset length : Nat) : Chip :=
  c.spdmIn (fun s => s.algs) fun c =>
    let chain := certChain b.flash
    if slot ≠ 0 ∨ !c.ovs.certOk ∨ chain.length ≤ offset then c.spdmSay .invalidRequest
    else
      let part := (chain.drop offset).take length
      c.spdmSay (.certificate part (chain.length - offset - part.length))

/-- CHALLENGE: the answer is signed with the identity key; nonce and signature are free values (DESIGN CHOICE, log entry 7). -/
def challenge (c : Chip) (b : Board) (slot : Nat) : Chip :=
  c.spdmIn (fun s => s.algs) fun c =>
    if slot ≠ 0 ∨ !c.ovs.certOk then c.spdmSay .invalidRequest
    else
      let (n, c1) := c.fresh
      c1.spdmSay (.challengeAuth (sha512 (certChain b.flash)) (Config.freeBits n 0 % p2 256) (Config.freeBits n 1 % p2 1056))

/-- The value of one measurement (R465). A digest of a section is the one in the running image's table; without a running image the
manual gives measurements 2 to 4 no value, and `n` numbers a free one (DESIGN CHOICE, log entry 7). -/
def measurement (c : Chip) (n i : Nat) : List Byte :=
  let open_ : List Byte := toBytes 64 (Config.freeBits n (2 + i))
  let digest (kind : Nat) : List Byte := match (imgHeader c.ovs.image).find kind with | some s => s.digest | none => open_
  match i with
  | 1 => Config.romHash
  | 2 => digest 1
  | 3 => digest 2
  | 4 => if c.ovs.image.isEmpty then open_ else sha512 (c.ovs.image.take 2960)
  | 5 => [Config.stepping, 0, 0, 0]
  | _ => toBytes 8 c.inService.toNat

/-- The block of an index (R465). -/
def measBlock (c : Chip) (n i : Nat) : MeasBlock :=
  { index := i, raw := decide (5 ≤ i), value := c.measurement n i,
    kind := match i with | 1 => .rom | 2 => .firmware | 3 => .firmware | 4 => .firmwareConfig | _ => .hardwareConfig }

/-- GET_MEASUREMENTS of one index, of all (0xFF), or of their number (0). -/
def getMeasurements (c : Chip) (index : Nat) (signed : Bool) : Chip :=
  c.spdmIn (fun s => s.algs) fun c =>
    if 6 < index ∧ index ≠ 0xFF then c.spdmSay .invalidRequest
    else
      let is := if index = 0 then [] else if index = 0xFF then [1, 2, 3, 4, 5, 6] else [index]
      let (n, c1) := c.fresh
      c1.spdmSay (.measurements 6 (is.map (c1.measBlock n)) (Config.freeBits n 0 % p2 256)
        (if signed then some (Config.freeBits n 1 % p2 1056) else none))

def spdmUnsupported (c : Chip) : Chip := if c.spdmUp then c.spdmSay .unsupportedRequest else c

end Chip

end Sys2Proof.Machine
end

