-- ==== Sys2Proof/Machine/Loop.lean ====
section
/-!
DEFINITION. The overseer's 1 ms loop (R455) with the steps it takes of resets, stops, changes of the platen's division, attaches and
updates; and the errors that units report (R477 to R482).
-/
namespace Sys2Proof.Machine

/-- The severity of the unit errors of R502 by code, where it lists them. -/
def unitSeverity (code : Nat) : Option Severity :=
  if code = evUeBuffer ∨ code = evUePlaten ∨ code = evUeHbm ∨ code = evUeHlc ∨ code = evBundleHalf then some .deferred
  else if code = evGalleyStuck ∨ code = evBondCtrlError then some .fatalEngine
  else if code = evClkLockLost then some .fatalForme
  else none

def errDom : ErrDom → Dom
  | .engine e => .engine e.toNat
  | .forme f => .forme f.toNat
  | .device => .device

namespace Chip

/-! ### Errors (R118, R193, R200, R208, R328, R481, R535) -/

/-- SOURCE and domain of the memory that holds an address (R478, R483). -/
def memHome (a : Nat) : Option (Nat × Dom) :=
  match placeOf a with
  | .hbm m => some (74 + m / 4, .forme (m / 4))
  | .platen e _ => some (80 + e / 16, .engine e)
  | .buffer e _ => some (e, .engine e)
  | .nowhere => none

/-- A corrected error is recorded at CORRECTED; one of a stack is counted (R118, R193, R208, R501). -/
def eccCorrected (c : Chip) (a : Nat) : Chip :=
  match memHome a with
  | none => c
  | some (src, dom) =>
    let c1 := c.raise evEccCorrected .corrected src dom [BitVec.ofNat 64 (unitOf a)]
    match placeOf a with
    | .hbm m => { c1 with cnts := { c1.cnts with hbmCe := modifyAt (fun n => bump48 n 1) c1.cnts.hbmCe (m / 4) } }
    | _ => c1

/-- A corrected error of a word with no address is recorded at CORRECTED, which counts it (R118, R153, R500). -/
def wordCorrected (c : Chip) (e : Nat) : Chip := c.raise evEccCorrected .corrected e (.engine e) []

/-- A double-bit error in a cache line: the line is dropped, and the next access is served as a miss (R200). -/
def cacheLineBad (c : Chip) (e space a : Nat) : Chip :=
  let base := a / 128 * 128
  match (c.engine e).findLine space base with
  | none => c
  | some o =>
    let c1 := c.onEngine e fun x => x.mapCache fun l => if l.space.toNat = space ∧ l.addr = base then none else some l
    (c1.lineLeft e o).raise evPlatenLineDropped .corrected (80 + e / 16) (.engine e) [BitVec.ofNat 64 base]

/-- An upset in the overseer's SRAM: one bit is corrected and recorded at CORRECTED. A word with two bad bits stays bad until the next cold reset; a warm
restart that finds one in the imposition store does not resume (R454, R456). DESIGN CHOICE, log entry 116. -/
def ovsUpset (c : Chip) (m : OvsMem) (w : Nat) (double : Bool) : Chip :=
  if !double then c.raise evEccCorrected .corrected srcOvs .device []
  else if c.ovs.badWords.contains (m, w) then c
  else c.onOvs fun o => { o with badWords := o.badWords ++ [(m, w)] }

/-- UNIT_ERROR: a unit reports an error, or a protected word is upset. An uncorrectable word is reported when it is read (R535).
DEDUCED, log entry 50. -/
def unitErr (c : Chip) (x : UnitErr) : Chip :=
  if !(c.formesUp || (c.standby && c.ovs.state != .rom && match x with | .ovsWord _ _ _ => true | _ => false)) then c
  else match x with
    | .ovsWord m w double => c.ovsUpset m w.toNat double
    | .reported code source dom addr =>
      (match unitSeverity code.toNat with
      | some sev => c.unitError code.toNat (if code.toNat = evClkLockLost ∧ dom = .device then .fatalDevice else sev) source.toNat (errDom dom)
          (addr.map BitVec.toNat) ((addr.map fun a => a.setWidth 64).toList)
      | none => c)
    | .corrected a => c.eccCorrected a.toNat
    | .correctedWord e => c.wordCorrected e.toNat
    | .uncorrectable a =>
      if (memHome a.toNat).isSome && !c.ue.contains (unitOf a.toNat) then { c with ue := c.ue ++ [unitOf a.toNat] } else c
    | .cacheLine e space a => c.cacheLineBad e.toNat space.toNat a.toNat
    | .spikeRecord e f i => c.onFrame e.toNat f.toNat fun fr => { fr with recs := modifyAt (fun r => { r with ue := true }) fr.recs i.toNat }
    | .galley e i w => c.onEngine e.toNat fun x =>
      { x with galley := modifyAt (fun g => if g.ue.contains w.toNat then g else { g with ue := g.ue ++ [w.toNat] }) x.galley i.toNat }
    | .register e w => c.onEngine e.toNat fun x => if x.vregUe.contains w.toNat then x else { x with vregUe := x.vregUe ++ [w.toNat] }
    | .hostLine l => c.onHost fun h => match Tab.find? l.toNat h.lines with
      | some k => if k.state = .modified then { h with lines := Tab.set l.toNat { k with ue := true } h.lines } else h
      | none => h

/-! ### Handling that unit errors have asked for (R477, R481, R482) -/

/-- An orderly device stop begins, or the one in progress becomes forced. -/
def askStop (c : Chip) : Chip := if c.rst.device then c.askDevice true else c.beginDeviceStop

/-- Forme resets and device stops that handling asks for begin; engine resets begin at the engines' fault controllers. -/
def takeHandlings (c : Chip) : Chip :=
  let engineOnly (h : Handling) : Bool := match h with
    | .handle .fatalEngine _ => true
    | _ => false
  let c1 : Chip := { c with handlings := c.handlings.filter engineOnly }
  let c2 := c.handlings.foldl (fun (c : Chip) h => match h with
    | .stop => c.askStop
    | .handle .fatalDevice _ => c.askStop
    | .handle .fatalForme (.forme f) => c.askForme f false
    | _ => c) c1
  if c2.rst.device && c2.pwr.forceAll then c2.askDevice true else c2

/-! ### A change of the platen's division (R195) -/

/-- Spills begin until what stays fits a spike part of `size` bytes; a frame whose share is full spills no further. `fuel` bounds the
records. -/
def spillExcess : Nat → Nat → Nat → Chip → Chip
  | 0, _, _, c => c
  | fuel + 1, e, size, c =>
    if c.partUsed e - c.freeing e ≤ size then c
    else match c.spillFrame e with
      | none => c
      | some f => match c.startSpill e f with
        | none => c
        | some c1 => spillExcess fuel e size c1

/-- The engine has completed every admitted slug. -/
def engineDrained (c : Chip) (e : Nat) : Bool :=
  let x := c.engine e
  x.entries.isEmpty && x.core.isNone && x.finishing.isEmpty

/-- Admission may resume: nothing else has stopped it. -/
def mayAdmit (c : Chip) (e : Nat) : Bool :=
  c.pwr.stop == .none_ && !c.rst.device && !c.formeDown.contains (e / 16) && !c.rst.formes.any fun r => r.forme == e / 16

/-- Step 6: the scratch keeps what lies below the smaller of its old and new sizes; what it gains is undefined (DESIGN CHOICE, log entry 5).
DEDUCED, log entry 51. -/
def applySplit (c : Chip) (e : Nat) : Chip :=
  let p := (c.engine e).split
  let old := sliceOf e + p.scratch * 0x100000
  let new := sliceOf e + p.reqScratch * 0x100000
  let (n, c1) := c.fresh
  let c2 : Chip := if old < new then
      { c1 with mem := c1.mem.fillRegion (.range old new) (some n), ue := c1.ue.filter fun a => !(decide (old ≤ a ∧ a < new)) }
    else c1
  c2.onEngine e fun x => { x with split := { x.split with scratch := p.reqScratch, spike := p.reqSpike, busy := false } }

/-- Steps 2 to 7 on one engine, as far as they go in this loop. DEDUCED, log entry 51. -/
def splitStep (c : Chip) (e : Nat) : Chip :=
  let x := c.engine e
  if !x.split.busy || x.retired then c
  else
    let c1 := c.onEngine e fun x => { x with stopAdm := true }
    if !c1.engineDrained e || x.parked then c1
    else
      let size := x.split.reqSpike * 0x100000
      let c2 := spillExcess (c1.recCount e + 1) e size (c1.emptyCache e)
      if size < c2.partUsed e then c2
      else
        let c3 := c2.applySplit e
        if c3.mayAdmit e then (c3.onEngine e fun x => { x with stopAdm := false }).pumpE e else c3

/-! ### The tasks of the loop (R455) -/

/-- One millisecond passes in what counts it: OVS_TIME, the leases, the tickers and counters of the engines (R211, R214 to R216), the age
of the flash report, and the pauses of the Ethernet ports, which have ended (DEDUCED, log entry 93). DESIGN CHOICE, log entry 8. -/
def passTime (c : Chip) (i : LoopIn) : Chip :=
  let c1 := c.onOvs fun o => { o with
    time := o.time + 200000, loops := o.loops + 1, late := if i.late then bump48 o.late 1 else o.late,
    folioTemp := i.folioTemp.toNat, i3c := { o.i3c with flashAge := o.i3c.flashAge.map (· + 1) } }
  if !c1.formesUp then c1
  else
    let rate (e : Nat) : Nat := (i.tickKhz.getD e 0).toNat
    let c2 := c1.settlePvid.passTicks rate
    let c3 : Chip := { c2 with engines := c2.engines.zipIdx.map fun ((x : Engine), e) => { x with tickRate := rate e } }
    (c3.onDs fun d => { d with paused := List.replicate 4 false }).drainCmds

/-- Task 3. -/
def resetTask (c : Chip) : Chip :=
  let c1 := c.takeHandlings.markBeds.endBeds
  let c2 := ((List.range 4).foldl (fun (c : Chip) f => c.formeStep f) c1).stopStep
  (List.range 64).foldl (fun (c : Chip) e => c.splitStep e) c2

/-- Task 5: an attach or a detach goes on; a session that begins brings the HOST job rings in. -/
def attachTask (c : Chip) : Chip :=
  let c1 := c.hostTask
  if c1.host.inForce && (!c.host.inForce || c1.host.session != c.host.session) then c1.jobAttachAll else c1

/-- Task 5 in RECOVERY: an attach stays held in ATTACHING (R468). -/
def holdAttach (c : Chip) : Chip :=
  if c.host.attachOp = 1 ∨ c.host.attachOp = 3 then c.onHost fun h => { h with state := .attaching, busy := true, attachOp := 0 }
  else if c.host.attachOp = 2 ∧ !c.host.inForce then c.onHost fun h => { h with attachOp := 0, result := 0 }
  else c.onHost fun h => { h with attachOp := 0 }

/-- Task 6, on every fifth loop (R295). -/
def beatTask (c : Chip) : Chip := if c.ovs.loops % 5 = 0 then c.heartbeatSend else c

/-- Tasks 1 to 6. Without the formes, only readings are taken and the wear is tracked. -/
def planeTasks (c : Chip) (b : Board) (i : LoopIn) : Chip :=
  let temps := i.temps.map BitVec.toNat
  if c.formesUp then
    let (bad, c0) := (c.thermalChecks temps).railCheck i.rails i.loadMoved
    let c1 := c0.slowLoop (measuredW i.rails) bad
    (mgmtTask b (c1.fab.mgmt.length) c1.resetTask).attachTask.beatTask
  else (c.takeReadings temps).wearChecks

end Chip

namespace Dev

/-- OVERSEER_LOOP. DEDUCED, log entry 64. -/
def overseerLoop (d : Dev) (i : LoopIn) : Dev :=
  if !d.chip.standby || !(d.chip.ovs.state == .running || d.chip.ovs.state == .recovery) then d
  else
    let d1 := d.on fun c =>
      let c1 := (c.passTime i).planeTasks d.board i
      (if c1.ovs.state = .recovery then c1.holdAttach else c1).sampleAll
    d1.recordTask.updateTask i

end Dev

end Sys2Proof.Machine
end

