-- ==== Sys2Proof/Machine/Shapes.lean ====
section
/-!
DEFINITION. What the meanings of the commands share beside the operations: the form of a meaning, the running of a slug by its class
(R95), the counter blocks a command names (R499), and the job rings that the host's master enable holds back (R327).
-/
namespace Sys2Proof.Machine

/-- A meaning that acts on the chip; no command touches the queue. -/
def onChip (s : State) (f : Chip → Chip) : Host.Outcome State Fault Refusal := .next { s with chip := f s.chip }

/-- A meaning that acts on the chip and on the non-volatile storage. -/
def onDev (s : State) (f : Dev → Dev) : Host.Outcome State Fault Refusal :=
  let d := f { chip := s.chip, board := s.board }
  .next { s with chip := d.chip, board := d.board }

/-- A meaning whose unit runs only once the formes have started (step 6 of R466, R507). -/
def onFormes (s : State) (f : Chip → Chip) : Host.Outcome State Fault Refusal := onChip s fun c => if c.formesUp then f c else c

/-- Offset of the counter block of a scope (R499, R514). -/
def scopeBase : CntScope → Nat
  | .engine e => 0x4000 + 256 * e.toNat
  | .forme f => 0x1800 + 256 * f.toNat
  | .device => 0x1C00

/-- Offset of CNT_SEL0 of a scope (R500). -/
def selBase : CntScope → Nat
  | .device => 0x1C80
  | s => scopeBase s + 0x40

namespace Chip

/-- The control core of an engine holds a CONTROL slug of an operation. -/
def coreHolds (c : Chip) (e op : Nat) : Bool :=
  match (c.engine e).core with
  | some ent => slugClass ent.slug == 9 && slugOp ent.slug == op
  | none => false

/-- A MOVE slug, by its operation. -/
def moveAny (c : Chip) (e : Nat) (ent : QEntry) : Chip :=
  match slugOp ent.slug with
  | 1 => c.moveCopyT e ent
  | 2 => c.movePrefetch e ent
  | 3 => c.moveSet e ent
  | _ => c.moveCopy e ent

/-- A VECTOR queue's slug, by its class. -/
def vectorAny (c : Chip) (e : Nat) (ent : QEntry) : Chip := if slugClass ent.slug = 3 then c.fusedRun e ent else c.vectorRun e ent

/-- A FABRIC slug, by its operation. -/
def fabricAny (c : Chip) (e : Nat) (ent : QEntry) : Chip :=
  match slugOp ent.slug with
  | 1 => c.fabGet e ent
  | 2 => c.fabAtom e ent
  | 3 => c.fabA2A e ent
  | 4 | 5 | 6 => c.fabColl e ent
  | 7 => c.fabMgmt e ent
  | _ => c.fabPut e ent

/-- A SPIKE slug, by its operation. -/
def spikeAny (c : Chip) (e : Nat) (ent : QEntry) : Chip :=
  match slugOp ent.slug with
  | 1 => c.spikePop e ent
  | 2 => c.spikeDrop e ent
  | 3 => c.spillSet e ent
  | 4 => c.layerSet e ent
  | 5 => c.lossTestSlug e ent
  | 6 => c.lossClear e ent
  | 7 => c.spikeClear e ent
  | _ => c.spikePush e ent

/-- An UPDATE slug, by its operation. -/
def updateAny (c : Chip) (e : Nat) (x : CorCtx) : Chip :=
  match slugOp x.entry.slug with
  | 1 => c.upApplyDelta e x
  | 2 => c.upExchange e x
  | 3 => c.upRepair e x
  | 4 => c.upExport e x
  | 5 => c.upImport e x
  | _ => c.upApply e x

/-- OPERAND_BLOCK_READY: the slug at the head of a queue, which waited for a block or slot, goes on if it may (R95). -/
def runQueue (c : Chip) (e : Nat) (q : QId) : Chip :=
  match q with
  | .move => c.runHead e .move none (fun _ => true) fun c ent => c.moveAny e ent
  | .matrix => c.runHead e .matrix none (fun _ => true) fun c ent => c.matrixRun e ent
  | .vector => c.runHead e .vector none (fun _ => true) fun c ent => c.vectorAny e ent
  | .fabric => c.runHead e .fabric none (fun _ => true) fun c ent => c.fabricAny e ent
  | .host => c.runHead e .host none (fun _ => true) fun c ent => c.hostSlug e ent
  | .spike => c.runHead e .spike none (fun _ => true) fun c ent => c.spikeAny e ent
  | .update =>
    match (c.engine e).qUpdate with
    | [] => c
    | ent :: _ => c.runUpdate e (slugOp ent.slug) none fun c e x => c.updateAny e x

/-- A snoop of a pinned line during a write to it is answered after the merge: the slugs that own the line go on first (R328). -/
def mergeFirst (c : Chip) (line : Nat) : Chip :=
  if !((Tab.find? line c.host.lines).any (·.pinned)) then c
  else (c.host.reqs.filter fun r => r.line == line && r.kind != .rdShared && r.answer.isSome).foldl (fun c r =>
    match QId.all.find? fun q => ((c.engine r.engine).queue q).any fun ent => ent.id == r.entry with
    | some q => if r.engine < 64 then c.runQueue r.engine q else c
    | none => c) c

/-- Writes of line 1 that waited for the ownership of a line go on (R335, R354). -/
def line1Owned (c : Chip) (line : Nat) : Chip :=
  if !(c.host.reqs.any fun r => r.engine == ctlUnit && r.line == line && r.answer.isSome) then c
  else (List.range 4).foldl (fun (c : Chip) r => if (c.ring r).due then c.writeJobLine1 r else c) c.line1Goes

/-- What HOST job rings could not do while requests were held back: line 1 is written where it is due, and pinned lines that could not be re-read
are read again (R327, R354). -/
def jobRepin (c : Chip) : Chip :=
  if c.hostAvail then
    let c := (List.range 4).foldl (fun (c : Chip) r => if (c.ring r).due then c.writeJobLine1 r else c) c
    let stale := (List.range 4).filterMap fun r =>
      let q := c.ring r
      if q.enable && q.space == 2 && (Tab.find? ((q.base - 128) / 64) c.host.lines).isNone then some ((q.base - 128) / 64) else none
    stale.eraseDups.foldl (fun c l => c.jobDoorbell l) c
  else c

end Chip

end Sys2Proof.Machine
end

