-- ==== Sys2Proof/Machine/ExecArray.lean ====
section
/-!
DEFINITION. The meanings of the matrix array, one for each row of the opcode table.
-/
namespace Sys2Proof.Machine

/-- MATMUL (R103). -/
def execMatmul (e : EngineNo) (src : SlugSrc) (s : State) : Host.Outcome State Fault Refusal :=
  onFormes s fun (c : Chip) => c.runHead e.toNat .matrix src.word (isMatrix 0) fun c ent => c.matrixRun e.toNat ent

/-- MATMUL_BWD_PAIR (R105, R107). -/
def execMatmulBwdPair (e : EngineNo) (src : SlugSrc) (s : State) : Host.Outcome State Fault Refusal :=
  onFormes s fun (c : Chip) => c.runHead e.toNat .matrix src.word (isMatrix 1) fun c ent => c.matrixRun e.toNat ent

/-- GALLEY_ENTRY_FREED: an array that waits for the galley goes on (R111). -/
def execGalleyEntryFreed (e : EngineNo) (s : State) : Host.Outcome State Fault Refusal :=
  onFormes s fun (c : Chip) => c.galleyFreed e.toNat

/-- GALLEY_STUCK: 2^24 ticks without a freed entry (R114). -/
def execGalleyStuck (e : EngineNo) (s : State) : Host.Outcome State Fault Refusal :=
  onFormes s fun (c : Chip) => c.galleyStuck e.toNat

end Sys2Proof.Machine
end

