-- ==== Sys2Proof/Machine/ExecBlocks.lean ====
section
/-!
DEFINITION. The meanings of operand blocks and HBM banks, one for each row of the opcode table.
-/
namespace Sys2Proof.Machine

/-- OPERAND_BLOCK_READY: the slug that waited for a block or slot goes on (R95). -/
def execOperandBlockReady (e : EngineNo) (q : QId) (s : State) : Host.Outcome State Fault Refusal :=
  onFormes s fun (c : Chip) => c.runQueue e.toNat q

/-- HBM_REQUEST_DONE: a held request takes the place of one that completes, and a slot is free (R209, R210, R253). -/
def execHbmRequestDone (who : BitVec 7) (stack : BitVec 4) (channel : BitVec 6) (bank : BitVec 6) (s : State) : Host.Outcome State Fault Refusal :=
  onFormes s fun (c : Chip) => (c.bankDone who.toNat (stack.toNat * 4096 + channel.toNat * 64 + bank.toNat)).releaseReqs

end Sys2Proof.Machine
end

