-- ==== Sys2Proof/Machine/ExecBonds.lean ====
section
/-!
DEFINITION. The meanings of the bond tests and the inter-die links, one for each row of the opcode table.
-/
namespace Sys2Proof.Machine

/-- BOND_TEST: a pattern test's result (R389, R390). -/
def execBondTest (e : EngineNo) (t : BundleTest) (s : State) : Host.Outcome State Fault Refusal :=
  onFormes s fun (c : Chip) => c.bondTest e.toNat t

/-- CRC_BURST: the immediate test after a burst of CRC failures (R389). -/
def execCrcBurst (e : EngineNo) (t : BundleTest) (s : State) : Host.Outcome State Fault Refusal :=
  onFormes s fun (c : Chip) => c.crcBurst e.toNat t

/-- FLIT_CRC_FAIL: a flit is discarded and replayed (R385). -/
def execFlitCrcFail (e : EngineNo) (bundle : Byte) (s : State) : Host.Outcome State Fault Refusal :=
  onFormes s fun (c : Chip) => c.flitCrcFail e.toNat bundle.toNat

/-- BOND_CTRL_ERROR: a parity error on a control bundle, and the tests that follow (R393). -/
def execBondCtrlError (e : EngineNo) (bundle : Byte) (tests : List BundleTest) (s : State) : Host.Outcome State Fault Refusal :=
  onFormes s fun (c : Chip) => c.bondCtrlError e.toNat bundle.toNat tests

end Sys2Proof.Machine
end

