-- ==== Sys2Proof/Machine/ExecControl.lean ====
section
/-!
DEFINITION. The meanings of the control core, one for each row of the opcode table.
-/
namespace Sys2Proof.Machine

/-- QUOIN: later slugs are held (R174). -/
def execQuoin (e : EngineNo) (src : SlugSrc) (s : State) : Host.Outcome State Fault Refusal :=
  onFormes s fun (c : Chip) => c.runCore e.toNat src.word (isQuoin 0) fun c it ent => c.beginQuoin e.toNat it ent

/-- QUOIN_COMPLETE: earlier slugs have completed, and the flag is written (R174, R175). -/
def execQuoinComplete (e : EngineNo) (s : State) : Host.Outcome State Fault Refusal :=
  onFormes s fun (c : Chip) => c.moving e.toNat fun c => c.quoinComplete e.toNat

/-- WAIT: later slugs are held until the flag word meets its condition (R176). -/
def execWait (e : EngineNo) (src : SlugSrc) (s : State) : Host.Outcome State Fault Refusal :=
  onFormes s fun (c : Chip) => c.runCore e.toNat src.word (isQuoin 1) fun c it ent => c.beginQuoin e.toNat it ent

/-- WAIT_SATISFIED: the flag word meets the condition (R176). -/
def execWaitSatisfied (e : EngineNo) (s : State) : Host.Outcome State Fault Refusal :=
  onFormes s fun (c : Chip) => c.moving e.toNat fun c => c.waitSatisfied e.toNat

/-- WAIT_TIMEOUT: the TIMEOUT expires first (R176). -/
def execWaitTimeout (e : EngineNo) (s : State) : Host.Outcome State Fault Refusal :=
  onFormes s fun (c : Chip) => c.moving e.toNat fun c => c.waitTimeout e.toNat

/-- NOP (R177). The row takes CONTROL slugs of a reserved operation too, which it rejects. -/
def execNop (e : EngineNo) (src : SlugSrc) (s : State) : Host.Outcome State Fault Refusal :=
  onFormes s fun (c : Chip) => c.runCore e.toNat src.word (isControl 0) fun c it ent => c.controlNop e.toNat it ent

/-- TD_LOAD: TDs are copied into the engine's table (R178); one that waits for its source goes on. -/
def execTdLoad (e : EngineNo) (src : SlugSrc) (s : State) : Host.Outcome State Fault Refusal :=
  onFormes s fun (c : Chip) =>
    if src == .queued && c.coreHolds e.toNat 1 then c.moving e.toNat fun c => c.coreResume e.toNat 1 fun c ent => c.tdLoadRead e.toNat ent
      else c.runCore e.toNat src.word (isControl 1) fun c it ent => c.tdLoad e.toNat it ent

/-- LIST: slugs read from memory are admitted in order (R179); one that waits for its source goes on. -/
def execList (e : EngineNo) (src : SlugSrc) (s : State) : Host.Outcome State Fault Refusal :=
  onFormes s fun (c : Chip) =>
    if src == .queued && c.coreHolds e.toNat 3 then c.moving e.toNat fun c => c.coreResume e.toNat 3 fun c ent => c.listRead e.toNat ent
      else c.runCore e.toNat src.word (isControl 3) fun c it ent => c.listSlug e.toNat it ent

/-- CRING_SET: the completion ring is placed (R181); one that waits for its word's block goes on. -/
def execCringSet (e : EngineNo) (src : SlugSrc) (s : State) : Host.Outcome State Fault Refusal :=
  onFormes s fun (c : Chip) =>
    if src == .queued && c.coreHolds e.toNat 4 then c.moving e.toNat fun c => c.coreResume e.toNat 4 fun c ent => c.cringPlace e.toNat ent
      else c.runCore e.toNat src.word (isControl 4) fun c it ent => c.cringSet e.toNat it ent

/-- LINEAR_FWD: The LINEAR_FWD operator (R190). The row takes CALLs of no known operator too, which it ends with OPERATOR_ABSENT. -/
def execLinearFwd (e : EngineNo) (src : SlugSrc) (s : State) : Host.Outcome State Fault Refusal :=
  onFormes s fun (c : Chip) =>
    c.runCore e.toNat src.word (fun s => isCall .linearFwd s || isUnknownCall s) fun c it ent => if isUnknownCall it.slug then c.callAbsent e.toNat it ent else Chip.callSlug .linearFwd c e.toNat it ent

/-- LINEAR_BWD: The LINEAR_BWD operator (R190). -/
def execLinearBwd (e : EngineNo) (src : SlugSrc) (s : State) : Host.Outcome State Fault Refusal :=
  onFormes s fun (c : Chip) => c.runCore e.toNat src.word (isCall .linearBwd) fun c it ent => Chip.callSlug .linearBwd c e.toNat it ent

/-- ATTENTION_FWD: The ATTENTION_FWD operator (R190). -/
def execAttentionFwd (e : EngineNo) (src : SlugSrc) (s : State) : Host.Outcome State Fault Refusal :=
  onFormes s fun (c : Chip) =>
    c.runCore e.toNat src.word (isCall .attentionFwd) fun c it ent => Chip.callSlug .attentionFwd c e.toNat it ent

/-- ATTENTION_BWD: The ATTENTION_BWD operator (R190). -/
def execAttentionBwd (e : EngineNo) (src : SlugSrc) (s : State) : Host.Outcome State Fault Refusal :=
  onFormes s fun (c : Chip) =>
    c.runCore e.toNat src.word (isCall .attentionBwd) fun c it ent => Chip.callSlug .attentionBwd c e.toNat it ent

/-- NORM_FWD: The NORM_FWD operator (R190). -/
def execNormFwd (e : EngineNo) (src : SlugSrc) (s : State) : Host.Outcome State Fault Refusal :=
  onFormes s fun (c : Chip) => c.runCore e.toNat src.word (isCall .normFwd) fun c it ent => Chip.callSlug .normFwd c e.toNat it ent

/-- NORM_BWD: The NORM_BWD operator (R190). -/
def execNormBwd (e : EngineNo) (src : SlugSrc) (s : State) : Host.Outcome State Fault Refusal :=
  onFormes s fun (c : Chip) => c.runCore e.toNat src.word (isCall .normBwd) fun c it ent => Chip.callSlug .normBwd c e.toNat it ent

/-- XENT_CALL: The XENT_CALL operator (R190). -/
def execXentCall (e : EngineNo) (src : SlugSrc) (s : State) : Host.Outcome State Fault Refusal :=
  onFormes s fun (c : Chip) => c.runCore e.toNat src.word (isCall .xent) fun c it ent => Chip.callSlug .xent c e.toNat it ent

/-- CALL_PART: a member runs its part of a CALL (R188). -/
def execCallPart (e : EngineNo) (s : State) : Host.Outcome State Fault Refusal :=
  onFormes s fun (c : Chip) => c.callPart e.toNat

/-- SLUG_COMPLETE: the oldest ended slug completes (R180, R184, R185). -/
def execSlugComplete (e : EngineNo) (s : State) : Host.Outcome State Fault Refusal :=
  onFormes s fun (c : Chip) => c.moving e.toNat fun c => c.slugComplete e.toNat

/-- CRING_SPACE: entries of a full completion ring have been returned (R181). -/
def execCringSpace (e : EngineNo) (s : State) : Host.Outcome State Fault Refusal :=
  onFormes s fun (c : Chip) => c.moving e.toNat fun c => Chip.cringSpace ((c.engine e.toNat).finishing.length) e.toNat c

end Sys2Proof.Machine
end

