-- ==== Sys2Proof/Machine/ExecData.lean ====
section
/-!
DEFINITION. The meanings of the data service, one for each row of the opcode table.
-/
namespace Sys2Proof.Machine

/-- JOB_RING_POLL: SQ_TAIL of a LOCAL ring is read again (R354). -/
def execJobRingPoll (n : BitVec 2) (s : State) : Host.Outcome State Fault Refusal :=
  onFormes s fun (c : Chip) => c.jobPoll n.toNat

/-- JOB_NOP (R356). The row takes jobs of a reserved operation too, which it rejects. -/
def execJobNop (ring : BitVec 2) (src : JobSrc) (s : State) : Host.Outcome State Fault Refusal :=
  onFormes s fun (c : Chip) => c.runJob ring.toNat src.word (jobRowMatches 0) fun c s j => c.jobNop s j

/-- CONNECT (R361). -/
def execConnect (ring : BitVec 2) (src : JobSrc) (s : State) : Host.Outcome State Fault Refusal :=
  onFormes s fun (c : Chip) => c.runJob ring.toNat src.word (jobRowMatches 1) fun c s j => c.jobConnect s j

/-- DISCONNECT (R361). -/
def execDisconnect (ring : BitVec 2) (src : JobSrc) (s : State) : Host.Outcome State Fault Refusal :=
  onFormes s fun (c : Chip) => c.runJob ring.toNat src.word (jobRowMatches 2) fun c s j => c.jobDisconnect s j

/-- READ (R362). -/
def execRead (ring : BitVec 2) (src : JobSrc) (s : State) : Host.Outcome State Fault Refusal :=
  onFormes s fun (c : Chip) => c.runJob ring.toNat src.word (jobRowMatches 3) fun c s j => c.jobRead s j

/-- ADMIN_IDENTIFY: ADMIN of IDENTIFY (R364). The row takes reserved subcommands too, which it rejects. -/
def execAdminIdentify (ring : BitVec 2) (src : JobSrc) (s : State) : Host.Outcome State Fault Refusal :=
  onFormes s fun (c : Chip) => c.runJob ring.toNat src.word (jobAdminRow false) fun c s j => c.jobAdmin s j

/-- ADMIN_GET_LOG_PAGE: ADMIN of GET_LOG_PAGE (R364). -/
def execAdminGetLogPage (ring : BitVec 2) (src : JobSrc) (s : State) : Host.Outcome State Fault Refusal :=
  onFormes s fun (c : Chip) => c.runJob ring.toNat src.word (jobAdminRow true) fun c s j => c.jobAdmin s j

/-- LOAD_SAMPLES (R367). -/
def execLoadSamples (ring : BitVec 2) (src : JobSrc) (s : State) : Host.Outcome State Fault Refusal :=
  onFormes s fun (c : Chip) => c.runJob ring.toNat src.word (jobRowMatches 5) fun c s j => c.jobLoad s j

/-- CHANNEL_OPEN (R369). -/
def execChannelOpen (ring : BitVec 2) (src : JobSrc) (s : State) : Host.Outcome State Fault Refusal :=
  onFormes s fun (c : Chip) => c.runJob ring.toNat src.word (jobRowMatches 6) fun c s j => c.jobOpen s j

/-- CHANNEL_CLOSE (R369). -/
def execChannelClose (ring : BitVec 2) (src : JobSrc) (s : State) : Host.Outcome State Fault Refusal :=
  onFormes s fun (c : Chip) => c.runJob ring.toNat src.word (jobRowMatches 7) fun c s j => c.jobClose s j

/-- JOB_COMPLETE: the job's record, then its flag (R358). -/
def execJobComplete (slot : BitVec 6) (s : State) : Host.Outcome State Fault Refusal :=
  onFormes s fun (c : Chip) => c.jobComplete slot.toNat

/-- SAMPLE_QUEUED: a sample whose bytes have landed joins its channel's queue (R367). -/
def execSampleQueued (slot : BitVec 6) (s : State) : Host.Outcome State Fault Refusal :=
  onFormes s fun (c : Chip) => c.sampleQueued slot.toNat

/-- NVME_COMPLETION: a target answers a command (R363). -/
def execNvmeCompletion (ctrl : BitVec 4) (cid : BitVec 16) (status : BitVec 15) (result : BitVec 64) (s : State) : Host.Outcome State Fault Refusal :=
  onFormes s fun (c : Chip) => c.nvmeCompletion ctrl.toNat cid.toNat status.toNat result.toNat

/-- CONNECTION_LOST: the association is torn down (R363). -/
def execConnectionLost (ctrl : BitVec 4) (s : State) : Host.Outcome State Fault Refusal :=
  onFormes s fun (c : Chip) => c.connectionLost ctrl.toNat

/-- RECONNECT_ATTEMPT: an attempt and its outcome (R363). -/
def execReconnectAttempt (ctrl : BitVec 4) (ok : Bool) (s : State) : Host.Outcome State Fault Refusal :=
  onFormes s fun (c : Chip) => c.reconnect ctrl.toNat ok

/-- TARGET_LOST: the reconnect deadline has passed (R363). -/
def execTargetLost (ctrl : BitVec 4) (s : State) : Host.Outcome State Fault Refusal :=
  onFormes s fun (c : Chip) => c.targetLost ctrl.toNat

/-- RDMA_WRITE: data under a live key lands, or is refused (R362). -/
def execRdmaWrite (ctrl : BitVec 4) (qp : BitVec 7) (key : BitVec 32) (offset : BitVec 32) (data : List Byte) (s : State) : Host.Outcome State Fault Refusal :=
  onFormes s fun (c : Chip) => c.rdmaWrite ctrl.toNat qp.toNat key.toNat offset.toNat data

/-- ETH_FRAME: an Ethernet frame is taken or discarded (R352). -/
def execEthFrame (p : PortNo) (bytes : List Byte) (s : State) : Host.Outcome State Fault Refusal :=
  onFormes s fun (c : Chip) => c.ethFrame p.toNat bytes

/-- DEMUX_PACKET: the next transport stream packet of a channel (R370). -/
def execDemuxPacket (ch : BitVec 9) (s : State) : Host.Outcome State Fault Refusal :=
  onFormes s fun (c : Chip) => c.demuxPacket ch.toNat

/-- READER_TURN: a reader serves its next eligible channel (R373). -/
def execReaderTurn (reader : BitVec 3) (units : List DecUnit) (s : State) : Host.Outcome State Fault Refusal :=
  onFormes s fun (c : Chip) => c.readerTurn reader.toNat units

/-- FRAME_RING_SPACE: a consumer has freed slots of a frame ring (R374). -/
def execFrameRingSpace (ch : BitVec 9) (s : State) : Host.Outcome State Fault Refusal :=
  onFormes s fun (c : Chip) => (c.frameSpace ch.toNat).settleClose ch.toNat

/-- KEEP_ALIVE: to every connected controller (R361). -/
def execKeepAlive (s : State) : Host.Outcome State Fault Refusal :=
  onFormes s fun (c : Chip) => c.keepAlive

end Sys2Proof.Machine
end

