-- ==== Sys2Proof/Machine/ExecFabric.lean ====
section
/-!
DEFINITION. The meanings of frames and the fabric's timers, one for each row of the opcode table.
-/
namespace Sys2Proof.Machine

/-- DATA_FRAME: accepted in LSEQ order with a valid CRC, then delivered or forwarded (R287). -/
def execDataFrame (p : PortNo) (link : BitVec 64) (thdr : BitVec 256) (payload : List Byte) (trailer : BitVec 64) (s : State) : Host.Outcome State Fault Refusal :=
  onFormes s fun (c : Chip) => c.dataFrame p.toNat link thdr payload trailer

/-- CONTROL_FRAME: acknowledgements and credits come back (R283). -/
def execControlFrame (p : PortNo) (link : BitVec 64) (trailer : BitVec 64) (s : State) : Host.Outcome State Fault Refusal :=
  onFormes s fun (c : Chip) => c.controlFrame p.toNat link trailer

/-- NAK: the transmitter replays (R287). -/
def execNak (p : PortNo) (link : BitVec 64) (trailer : BitVec 64) (s : State) : Host.Outcome State Fault Refusal :=
  onFormes s fun (c : Chip) => c.nakFrame p.toNat link trailer

/-- HEARTBEAT: the peer is recorded and the port kept up (R295, R296). -/
def execHeartbeat (p : PortNo) (link : BitVec 64) (payload : BitVec 256) (trailer : BitVec 64) (s : State) : Host.Outcome State Fault Refusal :=
  onFormes s fun (c : Chip) => c.heartbeatFrame p.toNat link payload trailer

/-- TRAIN: both ends agree on the width (R282). -/
def execTrain (p : PortNo) (link : BitVec 64) (payload : BitVec 256) (trailer : BitVec 64) (s : State) : Host.Outcome State Fault Refusal :=
  onFormes s fun (c : Chip) => c.trainFrame p.toNat link payload trailer

/-- LANE_DROPOUT: a lane drops out, and the link retrains narrower (R282). -/
def execLaneDropout (p : PortNo) (lane : BitVec 2) (s : State) : Host.Outcome State Fault Refusal :=
  onFormes s fun (c : Chip) => c.laneDropout p.toNat lane.toNat

/-- PORT_DOWN: the port's paths are masked and its frames discarded (R296, R297). -/
def execPortDown (p : PortNo) (s : State) : Host.Outcome State Fault Refusal :=
  onFormes s fun (c : Chip) => c.portDown p.toNat

/-- PORT_RETRAIN: a down port begins to train (R296). -/
def execPortRetrain (p : PortNo) (s : State) : Host.Outcome State Fault Refusal :=
  onFormes s fun (c : Chip) => c.portRetrain p.toNat

/-- FAB_READ: a READ frame is served (R304). -/
def execFabRead (src : FrameSrc) (s : State) : Host.Outcome State Fault Refusal :=
  onFormes s fun (c : Chip) =>
    match c.takeFrame src opRead with
      | (some (h, _), c1) => c1.fabRead h
      | (none, c1) => c1

/-- FAB_WRITE: a WRITE frame is performed (R304). -/
def execFabWrite (src : FrameSrc) (s : State) : Host.Outcome State Fault Refusal :=
  onFormes s fun (c : Chip) =>
    match c.takeFrame src opWrite with
      | (some (h, bytes), c1) => c1.fabWrite h bytes
      | (none, c1) => c1

/-- FAB_ATOMIC: an ATOMIC frame is performed indivisibly (R307). -/
def execFabAtomic (src : FrameSrc) (s : State) : Host.Outcome State Fault Refusal :=
  onFormes s fun (c : Chip) =>
    match c.takeFrame src opAtomic with
      | (some (h, bytes), c1) => c1.fabAtomic h bytes
      | (none, c1) => c1

/-- COLL_DATA: a leader takes a contribution, or a member gathered elements (R309, R312). -/
def execCollData (src : FrameSrc) (s : State) : Host.Outcome State Fault Refusal :=
  onFormes s fun (c : Chip) =>
    match c.takeFrame src opCollData with
      | (some (h, bytes), c1) => c1.collFrame h bytes
      | (none, c1) => c1

/-- COLL_GSUM: an owner adds group sums in order (R309). -/
def execCollGsum (src : FrameSrc) (s : State) : Host.Outcome State Fault Refusal :=
  onFormes s fun (c : Chip) =>
    match c.takeFrame src opCollGsum with
      | (some (h, bytes), c1) => c1.collFrame h bytes
      | (none, c1) => c1

/-- A2A_ROWS: a row and its tag are stored in the addressed slot (R314). -/
def execA2aRows (src : FrameSrc) (s : State) : Host.Outcome State Fault Refusal :=
  onFormes s fun (c : Chip) =>
    match c.takeFrame src opA2aRows with
      | (some (h, bytes), c1) => c1.a2aRows h bytes
      | (none, c1) => c1

/-- A2A_MARK: an end marker writes its header entry (R315). -/
def execA2aMark (src : FrameSrc) (s : State) : Host.Outcome State Fault Refusal :=
  onFormes s fun (c : Chip) =>
    match c.takeFrame src opA2aMark with
      | (some (h, bytes), c1) => c1.a2aMark h bytes
      | (none, c1) => c1

/-- WATCH: a watch is registered or withdrawn (R203). -/
def execWatch (src : FrameSrc) (s : State) : Host.Outcome State Fault Refusal :=
  onFormes s fun (c : Chip) =>
    match c.takeFrame src opWatch with
      | (some (h, _), c1) => c1.fabWatch h
      | (none, c1) => c1

/-- INVAL: a TRACKED line becomes TRACKED_INVALID (R203). -/
def execInval (src : FrameSrc) (s : State) : Host.Outcome State Fault Refusal :=
  onFormes s fun (c : Chip) =>
    match c.takeFrame src opInval with
      | (some (h, _), c1) => c1.fabInval h
      | (none, c1) => c1

/-- RESPONSE: the source's request is answered (R302, R306). -/
def execResponse (src : FrameSrc) (s : State) : Host.Outcome State Fault Refusal :=
  onFormes s fun (c : Chip) =>
    match c.takeFrame src opResponse with
      | (some (h, bytes), c1) => c1.fabResponse h bytes
      | (none, c1) => c1

/-- ROLE_RETRY: the backoff delay of a request has passed (R302). -/
def execRoleRetry (txn : BitVec 16) (s : State) : Host.Outcome State Fault Refusal :=
  onFormes s fun (c : Chip) => c.roleRetry txn.toNat

/-- REQUEST_TIMEOUT: a request without a RESPONSE completes with LINK_LOST (R298). -/
def execRequestTimeout (txn : BitVec 16) (s : State) : Host.Outcome State Fault Refusal :=
  onFormes s fun (c : Chip) => c.requestTimeout txn.toNat

/-- COLL_TIMEOUT: a collective that waits too long completes with COLL_TIMEOUT (R311). -/
def execCollTimeout (e : EngineNo) (s : State) : Host.Outcome State Fault Refusal :=
  onFormes s fun (c : Chip) => c.collTimeout e.toNat

/-- HEARTBEAT_SEND: a HEARTBEAT on every ADEANE port (R295). -/
def execHeartbeatSend (s : State) : Host.Outcome State Fault Refusal :=
  onFormes s fun (c : Chip) => c.heartbeatSend

end Sys2Proof.Machine
end

