-- ==== Sys2Proof/Machine/ExecFabricSlugs.lean ====
section
/-!
DEFINITION. The meanings of FABRIC slugs, one for each row of the opcode table.
-/
namespace Sys2Proof.Machine

/-- PUT (R306). The row takes FABRIC slugs of a reserved operation too, which it rejects. -/
def execPut (e : EngineNo) (src : SlugSrc) (s : State) : Host.Outcome State Fault Refusal :=
  onFormes s fun (c : Chip) => c.runHead e.toNat .fabric src.word (isFabric 0) fun c ent => c.fabPut e.toNat ent

/-- GET (R306). -/
def execGet (e : EngineNo) (src : SlugSrc) (s : State) : Host.Outcome State Fault Refusal :=
  onFormes s fun (c : Chip) => c.runHead e.toNat .fabric src.word (isFabric 1) fun c ent => c.fabGet e.toNat ent

/-- ATOMIC (R307). -/
def execAtomic (e : EngineNo) (src : SlugSrc) (s : State) : Host.Outcome State Fault Refusal :=
  onFormes s fun (c : Chip) => c.runHead e.toNat .fabric src.word (isFabric 2) fun c ent => c.fabAtom e.toNat ent

/-- DISPATCH (R313, R314). -/
def execDispatch (e : EngineNo) (src : SlugSrc) (s : State) : Host.Outcome State Fault Refusal :=
  onFormes s fun (c : Chip) => c.runHead e.toNat .fabric src.word (isA2A false) fun c ent => c.fabA2A e.toNat ent

/-- COMBINE (R316). -/
def execCombine (e : EngineNo) (src : SlugSrc) (s : State) : Host.Outcome State Fault Refusal :=
  onFormes s fun (c : Chip) => c.runHead e.toNat .fabric src.word (isA2A true) fun c ent => c.fabA2A e.toNat ent

/-- REDUCE_SCATTER (R309). -/
def execReduceScatter (e : EngineNo) (src : SlugSrc) (s : State) : Host.Outcome State Fault Refusal :=
  onFormes s fun (c : Chip) => c.runHead e.toNat .fabric src.word (isFabric 4) fun c ent => c.fabColl e.toNat ent

/-- ALL_GATHER (R312). -/
def execAllGather (e : EngineNo) (src : SlugSrc) (s : State) : Host.Outcome State Fault Refusal :=
  onFormes s fun (c : Chip) => c.runHead e.toNat .fabric src.word (isFabric 5) fun c ent => c.fabColl e.toNat ent

/-- ALL_REDUCE (R312). -/
def execAllReduce (e : EngineNo) (src : SlugSrc) (s : State) : Host.Outcome State Fault Refusal :=
  onFormes s fun (c : Chip) => c.runHead e.toNat .fabric src.word (isFabric 6) fun c ent => c.fabColl e.toNat ent

/-- MGMT_SEND (R306). -/
def execMgmtSend (e : EngineNo) (src : SlugSrc) (s : State) : Host.Outcome State Fault Refusal :=
  onFormes s fun (c : Chip) => c.runHead e.toNat .fabric src.word (isFabric 7) fun c ent => c.fabMgmt e.toNat ent

end Sys2Proof.Machine
end

