-- ==== Sys2Proof/Machine/ExecFused.lean ====
section
/-!
DEFINITION. The meanings of the fused kernels, one for each row of the opcode table.
-/
namespace Sys2Proof.Machine

/-- LAYERNORM_FWD (R145). -/
def execLayernormFwd (e : EngineNo) (src : SlugSrc) (s : State) : Host.Outcome State Fault Refusal :=
  onFormes s fun (c : Chip) => c.runHead e.toNat .vector src.word (isFused .layernormFwd) fun c ent => c.fusedRun e.toNat ent

/-- LAYERNORM_BWD (R145). -/
def execLayernormBwd (e : EngineNo) (src : SlugSrc) (s : State) : Host.Outcome State Fault Refusal :=
  onFormes s fun (c : Chip) => c.runHead e.toNat .vector src.word (isFused .layernormBwd) fun c ent => c.fusedRun e.toNat ent

/-- RMSNORM_FWD (R145). -/
def execRmsnormFwd (e : EngineNo) (src : SlugSrc) (s : State) : Host.Outcome State Fault Refusal :=
  onFormes s fun (c : Chip) => c.runHead e.toNat .vector src.word (isFused .rmsnormFwd) fun c ent => c.fusedRun e.toNat ent

/-- RMSNORM_BWD (R145). -/
def execRmsnormBwd (e : EngineNo) (src : SlugSrc) (s : State) : Host.Outcome State Fault Refusal :=
  onFormes s fun (c : Chip) => c.runHead e.toNat .vector src.word (isFused .rmsnormBwd) fun c ent => c.fusedRun e.toNat ent

/-- SOFTMAX_FWD (R147). -/
def execSoftmaxFwd (e : EngineNo) (src : SlugSrc) (s : State) : Host.Outcome State Fault Refusal :=
  onFormes s fun (c : Chip) => c.runHead e.toNat .vector src.word (isFused .softmaxFwd) fun c ent => c.fusedRun e.toNat ent

/-- SOFTMAX_BWD (R147). -/
def execSoftmaxBwd (e : EngineNo) (src : SlugSrc) (s : State) : Host.Outcome State Fault Refusal :=
  onFormes s fun (c : Chip) => c.runHead e.toNat .vector src.word (isFused .softmaxBwd) fun c ent => c.fusedRun e.toNat ent

/-- SOFTMAX_FWD_MM (R150). -/
def execSoftmaxFwdMm (e : EngineNo) (src : SlugSrc) (s : State) : Host.Outcome State Fault Refusal :=
  onFormes s fun (c : Chip) => c.runHead e.toNat .vector src.word (isFused .softmaxFwdMm) fun c ent => c.fusedRun e.toNat ent

/-- SOFTMAX_BWD_MM (R150). -/
def execSoftmaxBwdMm (e : EngineNo) (src : SlugSrc) (s : State) : Host.Outcome State Fault Refusal :=
  onFormes s fun (c : Chip) => c.runHead e.toNat .vector src.word (isFused .softmaxBwdMm) fun c ent => c.fusedRun e.toNat ent

/-- XENT (R149). The row takes slugs of a reserved kernel too, which it rejects. -/
def execXent (e : EngineNo) (src : SlugSrc) (s : State) : Host.Outcome State Fault Refusal :=
  onFormes s fun (c : Chip) =>
    c.runHead e.toNat .vector src.word (fun s => isFused .xent s || badFused s) fun c ent => c.fusedRun e.toNat ent

end Sys2Proof.Machine
end

