-- ==== Sys2Proof/Machine/ExecHost.lean ====
section
/-!
DEFINITION. The meanings of the host's link, snoops and session, one for each row of the opcode table.
-/
namespace Sys2Proof.Machine

/-- HOST_RESET: a reset of R346 ends the session as a host loss. -/
def execHostReset (kind : HostResetKind) (s : State) : Host.Outcome State Fault Refusal :=
  onChip s fun (c : Chip) => c.hostReset kind

/-- CXL_LINK_RECOVERY: the link leaves L0, or returns through recovery (R345). -/
def execCxlLinkRecovery (phase : LinkPhase) (s : State) : Host.Outcome State Fault Refusal :=
  onChip s fun (c : Chip) =>
    match phase with
      | .leaves => c.linkLeaves
      | .returns rate width => (c.linkReturns rate.toNat width.toNat).jobRepin

/-- SNP_DATA: the line is left SHARED (R330). -/
def execSnpData (line : BitVec 46) (s : State) : Host.Outcome State Fault Refusal :=
  onChip s fun (c : Chip) => (c.mergeFirst line.toNat).snpData line.toNat

/-- SNP_INV: the line and its TRACKED copies are invalidated; the host's store follows, and a control block's line is its doorbell
(R330, R335, R354). -/
def execSnpInv (line : BitVec 46) (write : Option (BitVec 64 × BitVec 512)) (s : State) : Host.Outcome State Fault Refusal :=
  onChip s fun (c : Chip) => (((c.mergeFirst line.toNat).snpInv line.toNat write).ringDoorbell line.toNat).jobDoorbell line.toNat

/-- SNP_CUR: the line's data, its state unchanged (R330). -/
def execSnpCur (line : BitVec 46) (s : State) : Host.Outcome State Fault Refusal :=
  onChip s fun (c : Chip) => (c.mergeFirst line.toNat).snpCur line.toNat

/-- CXL_CACHE_RESPONSE: a line's requests are answered (R329). -/
def execCxlCacheResponse (line : BitVec 46) (data : BitVec 512) (exclusive : Bool) (poison : Bool) (s : State) : Host.Outcome State Fault Refusal :=
  onChip s fun (c : Chip) => (c.cacheResponse line.toNat data exclusive poison).line1Owned line.toNat

/-- BUS_MASTER_ENABLE: requests and messages are held back, or released (R327). -/
def execBusMasterEnable (on : Bool) (s : State) : Host.Outcome State Fault Refusal :=
  onChip s fun (c : Chip) => (c.busMaster on).jobRepin

/-- CXL_LINK_TRAINED: rate, width and protocol (R326). -/
def execCxlLinkTrained (rate : BitVec 8) (width : BitVec 5) (cxl : Bool) (s : State) : Host.Outcome State Fault Refusal :=
  onChip s fun (c : Chip) => (c.linkTrained rate.toNat width.toNat cxl).jobRepin

/-- HOST_LOST: the steps of a host loss (R347). -/
def execHostLost (s : State) : Host.Outcome State Fault Refusal :=
  onChip s fun (c : Chip) => c.declareLoss

/-- HOST_LOSS_TIMEOUT: 50 ms without L0 or without an answer (R346). -/
def execHostLossTimeout (s : State) : Host.Outcome State Fault Refusal :=
  onChip s fun (c : Chip) => c.lossTimeout

/-- DETACH_TIMEOUT: slugs that still run complete with HOST_LOST (R343). -/
def execDetachTimeout (s : State) : Host.Outcome State Fault Refusal :=
  onChip s fun (c : Chip) => c.detachTimeout

/-- REFCLK_CXL_PRESENT: CD-CXL starts (R524). -/
def execRefclkCxlPresent (s : State) : Host.Outcome State Fault Refusal :=
  onChip s fun (c : Chip) => c.refclkPresent

end Sys2Proof.Machine
end

