-- ==== Sys2Proof/Machine/ExecHostSlugs.lean ====
section
/-!
DEFINITION. The meanings of HOST slugs, one for each row of the opcode table.
-/
namespace Sys2Proof.Machine

/-- WRITEBACK (R334). The row takes HOST slugs of a reserved operation too, which it rejects. -/
def execWriteback (e : EngineNo) (src : SlugSrc) (s : State) : Host.Outcome State Fault Refusal :=
  onFormes s fun (c : Chip) => c.runHead e.toNat .host src.word (isHost 0) fun c ent => c.hostSlug e.toNat ent

/-- WRITEBACK_ALL (R334). -/
def execWritebackAll (e : EngineNo) (src : SlugSrc) (s : State) : Host.Outcome State Fault Refusal :=
  onFormes s fun (c : Chip) => c.runHead e.toNat .host src.word (isHost 1) fun c ent => c.hostSlug e.toNat ent

/-- HOST_DROP: DROP (R334). -/
def execHostDrop (e : EngineNo) (src : SlugSrc) (s : State) : Host.Outcome State Fault Refusal :=
  onFormes s fun (c : Chip) => c.runHead e.toNat .host src.word (isHost 2) fun c ent => c.hostSlug e.toNat ent

end Sys2Proof.Machine
end

