-- ==== Sys2Proof/Machine/ExecManagement.lean ====
section
/-!
DEFINITION. The meanings of management messages, I3C and SPDM, one for each row of the opcode table.
-/
namespace Sys2Proof.Machine

/-- FLASH_TEMP: a fresh report of the flash temperature (R472). -/
def execFlashTemp (t : BitVec 16) (s : State) : Host.Outcome State Fault Refusal :=
  onChip s fun (c : Chip) => c.i3cWrite [0x18, t.setWidth 8, (t >>> 8).setWidth 8]

/-- I3C_PRIVATE_WRITE: the index, and bytes from there (R472). -/
def execI3cPrivateWrite (bytes : List Byte) (s : State) : Host.Outcome State Fault Refusal :=
  onChip s fun (c : Chip) => c.i3cWrite bytes

/-- I3C_PRIVATE_READ: bytes from the index (R472). -/
def execI3cPrivateRead (n : BitVec 9) (s : State) : Host.Outcome State Fault Refusal :=
  onChip s fun (c : Chip) => c.i3cRead s.board n.toNat

/-- ENTDAA: a dynamic address (R472). -/
def execEntdaa (a : BitVec 7) (s : State) : Host.Outcome State Fault Refusal :=
  onChip s fun (c : Chip) => c.entdaa a

/-- GET_CERTIFICATE: a portion of the chain of slot 0 (R349). -/
def execGetCertificate (slot : BitVec 4) (offset : BitVec 16) (length : BitVec 16) (s : State) : Host.Outcome State Fault Refusal :=
  onChip s fun (c : Chip) => c.getCertificate s.board slot.toNat offset.toNat length.toNat

/-- CHALLENGE: a response signed with the identity key (R349, R464). -/
def execChallenge (slot : BitVec 4) (s : State) : Host.Outcome State Fault Refusal :=
  onChip s fun (c : Chip) => c.challenge s.board slot.toNat

/-- GET_MEASUREMENTS (R349, R465). -/
def execGetMeasurements (index : Byte) (signed : Bool) (s : State) : Host.Outcome State Fault Refusal :=
  onChip s fun (c : Chip) => c.getMeasurements index.toNat signed

/-- REG_READ (R538). -/
def execRegRead (src : MsgSrc) (s : State) : Host.Outcome State Fault Refusal :=
  onChip s fun (c : Chip) => c.mgmtRow s.board mtRegRead 0 src

/-- REG_WRITE (R538). -/
def execRegWriteMsg (src : MsgSrc) (s : State) : Host.Outcome State Fault Refusal :=
  onChip s fun (c : Chip) => c.mgmtRow s.board mtRegWrite 0 src

/-- POWER_LIMIT (R428, R429). -/
def execPowerLimit (src : MsgSrc) (s : State) : Host.Outcome State Fault Refusal :=
  onChip s fun (c : Chip) => c.mgmtRow s.board mtPowerLimit 0 src

/-- ID_ASSIGN (R320). -/
def execIdAssign (src : MsgSrc) (s : State) : Host.Outcome State Fault Refusal :=
  onChip s fun (c : Chip) => c.mgmtRow s.board mtIdAssign 0 src

/-- ROLE_SET (R303). -/
def execRoleSet (src : MsgSrc) (s : State) : Host.Outcome State Fault Refusal :=
  onChip s fun (c : Chip) => c.mgmtRow s.board mtRoleSet 0 src

/-- RT_SET (R538). -/
def execRtSet (src : MsgSrc) (s : State) : Host.Outcome State Fault Refusal :=
  onChip s fun (c : Chip) => c.mgmtRow s.board mtRtSet 0 src

/-- DISCOVER (R538). -/
def execDiscover (src : MsgSrc) (s : State) : Host.Outcome State Fault Refusal :=
  onChip s fun (c : Chip) => c.mgmtRow s.board mtDiscover 0 src

/-- REG_RESP, or a part of DISCOVER_RESP: an earlier MGMT_SEND is answered (R306, R538). -/
def execRegResp (src : MsgSrc) (discover : Bool) (part : BitVec 2) (s : State) : Host.Outcome State Fault Refusal :=
  onChip s fun (c : Chip) => c.mgmtRow s.board (if discover then mtDiscoverResp else mtRegResp) part.toNat src

/-- SETDASA: the static address 0x4C (R472). -/
def execSetdasa (s : State) : Host.Outcome State Fault Refusal :=
  onChip s fun (c : Chip) => c.setdasa

/-- RSTDAA: the dynamic address is reset (R472). -/
def execRstdaa (s : State) : Host.Outcome State Fault Refusal :=
  onChip s fun (c : Chip) => c.rstdaa

/-- GETPID: the provisioned id, most significant byte first (R472). -/
def execGetpid (s : State) : Host.Outcome State Fault Refusal :=
  onChip s fun (c : Chip) => c.i3cAnswer (toBytes 6 Config.i3cPid.toNat).reverse

/-- GETBCR: the bus characteristics register (R472). -/
def execGetbcr (s : State) : Host.Outcome State Fault Refusal :=
  onChip s fun (c : Chip) => c.i3cAnswer [Config.i3cBcr]

/-- GETDCR: the device characteristics register (R472). -/
def execGetdcr (s : State) : Host.Outcome State Fault Refusal :=
  onChip s fun (c : Chip) => c.i3cAnswer [Config.i3cDcr]

/-- GETSTATUS: the target status (R472). -/
def execGetstatus (s : State) : Host.Outcome State Fault Refusal :=
  onChip s fun (c : Chip) => c.getStatus

/-- ENEC: in-band interrupts for alarms are enabled (R472). -/
def execEnec (s : State) : Host.Outcome State Fault Refusal :=
  onChip s fun (c : Chip) => c.i3cEvents true

/-- DISEC: in-band interrupts are disabled (R472). -/
def execDisec (s : State) : Host.Outcome State Fault Refusal :=
  onChip s fun (c : Chip) => c.i3cEvents false

/-- GET_VERSION (R349). -/
def execGetVersion (s : State) : Host.Outcome State Fault Refusal :=
  onChip s fun (c : Chip) => c.getVersion

/-- GET_CAPABILITIES (R349). -/
def execGetCapabilities (s : State) : Host.Outcome State Fault Refusal :=
  onChip s fun (c : Chip) => c.getCapabilities

/-- NEGOTIATE_ALGORITHMS (R349). -/
def execNegotiateAlgorithms (s : State) : Host.Outcome State Fault Refusal :=
  onChip s fun (c : Chip) => c.negotiate

/-- GET_DIGESTS: the digest of slot 0, or no slot (R349, R464). -/
def execGetDigests (s : State) : Host.Outcome State Fault Refusal :=
  onChip s fun (c : Chip) => c.getDigests s.board

/-- SPDM_UNSUPPORTED: any other request (R349). -/
def execSpdmUnsupported (s : State) : Host.Outcome State Fault Refusal :=
  onChip s fun (c : Chip) => c.spdmUnsupported

end Sys2Proof.Machine
end

