-- ==== Sys2Proof/Machine/ExecMovement.lean ====
section
/-!
DEFINITION. The meanings of the movement path, one for each row of the opcode table.
-/
namespace Sys2Proof.Machine

/-- MOVE_COPY (R172). -/
def execMoveCopy (e : EngineNo) (src : SlugSrc) (s : State) : Host.Outcome State Fault Refusal :=
  onFormes s fun (c : Chip) => c.runHead e.toNat .move src.word (isMove 0) fun c ent => c.moveCopy e.toNat ent

/-- COPY_T (R94). -/
def execCopyT (e : EngineNo) (src : SlugSrc) (s : State) : Host.Outcome State Fault Refusal :=
  onFormes s fun (c : Chip) => c.runHead e.toNat .move src.word (isMove 1) fun c ent => c.moveCopyT e.toNat ent

/-- PREFETCH (R203). -/
def execPrefetch (e : EngineNo) (src : SlugSrc) (s : State) : Host.Outcome State Fault Refusal :=
  onFormes s fun (c : Chip) => c.runHead e.toNat .move src.word (isMove 2) fun c ent => c.movePrefetch e.toNat ent

/-- SET (R172). -/
def execSet (e : EngineNo) (src : SlugSrc) (s : State) : Host.Outcome State Fault Refusal :=
  onFormes s fun (c : Chip) => c.runHead e.toNat .move src.word (isMove 3) fun c ent => c.moveSet e.toNat ent

end Sys2Proof.Machine
end

