-- ==== Sys2Proof/Machine/ExecRegisters.lean ====
section
/-!
DEFINITION. The meanings of register writes that act, one for each row of the opcode table.
-/
namespace Sys2Proof.Machine

/-- RST_ENGINE: RST_REQ with KIND ENGINE (R423). -/
def execRstEngine (path : Path) (target : BitVec 6) (clear : Bool) (force : Bool) (s : State) : Host.Outcome State Fault Refusal :=
  onChip s fun (c : Chip) => c.regWrite path 0x300 8 (Chip.word [(0, 1), (3, target.toNat), (9, b1 clear), (10, b1 force)])

/-- RST_FORME: RST_REQ with KIND FORME (R423). -/
def execRstForme (path : Path) (target : BitVec 6) (clear : Bool) (force : Bool) (s : State) : Host.Outcome State Fault Refusal :=
  onChip s fun (c : Chip) => c.regWrite path 0x300 8 (Chip.word [(0, 2), (3, target.toNat), (9, b1 clear), (10, b1 force)])

/-- RST_BED_DOMAIN: RST_REQ with KIND BED_DOMAIN (R423). -/
def execRstBedDomain (path : Path) (target : BitVec 6) (clear : Bool) (force : Bool) (s : State) : Host.Outcome State Fault Refusal :=
  onChip s fun (c : Chip) => c.regWrite path 0x300 8 (Chip.word [(0, 3), (3, target.toNat), (9, b1 clear), (10, b1 force)])

/-- RST_DEVICE: RST_REQ with KIND DEVICE (R423). -/
def execRstDevice (path : Path) (target : BitVec 6) (clear : Bool) (force : Bool) (s : State) : Host.Outcome State Fault Refusal :=
  onChip s fun (c : Chip) => c.regWrite path 0x300 8 (Chip.word [(0, 4), (3, target.toNat), (9, b1 clear), (10, b1 force)])

/-- APPLY_PLATEN_SPLIT: PLT_SPLIT with APPLY; the procedure follows in the overseer's loops (R194, R195). -/
def execApplyPlatenSplit (path : Path) (e : EngineNo) (scratch : BitVec 6) (spike : BitVec 6) (s : State) : Host.Outcome State Fault Refusal :=
  onChip s fun (c : Chip) => c.regWrite path (0x1000 + 8 * e.toNat) 8 (Chip.word [(0, scratch.toNat), (8, spike.toNat), (24, 1)])

/-- RESET_STATS: PRF_CTL with RESET_STATS (R240). -/
def execResetStats (path : Path) (action : Bool) (nfAsSpike : Bool) (s : State) : Host.Outcome State Fault Refusal :=
  onChip s fun (c : Chip) => c.regWrite path 0x500 8 (Chip.word [(0, b1 action), (1, b1 nfAsSpike), (2, 1)])

/-- RELEASE_APPLY: PRF_RELEASE with APPLY (R238). -/
def execReleaseApply (path : Path) (s : State) : Host.Outcome State Fault Refusal :=
  onChip s fun (c : Chip) => c.regWrite path 0x510 8 1

/-- RELEASE_SKIP: PRF_RELEASE with SKIP (R238). -/
def execReleaseSkip (path : Path) (s : State) : Host.Outcome State Fault Refusal :=
  onChip s fun (c : Chip) => c.regWrite path 0x510 8 2

/-- RNG_SEED_WRITE: the job seed (R275). -/
def execRngSeedWrite (path : Path) (v : W64) (s : State) : Host.Outcome State Fault Refusal :=
  onChip s fun (c : Chip) => c.regWrite path 0x580 8 v

/-- REARM: PWR_CTL with REARM (R441, R451). -/
def execRearm (path : Path) (ceil0 : BitVec 5) (ceil1 : BitVec 5) (ceil2 : BitVec 5) (ceil3 : BitVec 5) (s : State) : Host.Outcome State Fault Refusal :=
  onChip s fun (c : Chip) =>
    c.regWrite path 0x410 8 (Chip.word [(0, ceil0.toNat), (8, ceil1.toNat), (16, ceil2.toNat), (24, ceil3.toNat), (29, 1)])

/-- DOORBELL: DS_JRINGn_CTL with DOORBELL (R354, R355). -/
def execDoorbell (path : Path) (n : BitVec 2) (log2 : BitVec 4) (space : BitVec 2) (enable : Bool) (s : State) : Host.Outcome State Fault Refusal :=
  onChip s fun (c : Chip) =>
    c.regWrite path (0x910 + 32 * n.toNat) 8 (Chip.word [(0, log2.toNat), (4, space.toNat), (6, b1 enable), (7, 1)])

/-- JOB_RING_DISABLE: DS_JRINGn_CTL with ENABLE clear (R355). -/
def execJobRingDisable (path : Path) (n : BitVec 2) (log2 : BitVec 4) (space : BitVec 2) (s : State) : Host.Outcome State Fault Refusal :=
  onChip s fun (c : Chip) => c.regWrite path (0x910 + 32 * n.toNat) 8 (Chip.word [(0, log2.toNat), (4, space.toNat)])

/-- DISABLE: FAB_PORT_CTL with DISABLE (R296, R299). -/
def execDisable (path : Path) (p : PortNo) (s : State) : Host.Outcome State Fault Refusal :=
  onChip s fun (c : Chip) => c.regWrite path (0x808 + 16 * p.toNat) 8 1

/-- RETRAIN_FULL: FAB_PORT_CTL with RETRAIN_FULL (R282, R299). -/
def execRetrainFull (path : Path) (p : PortNo) (disabled : Bool) (s : State) : Host.Outcome State Fault Refusal :=
  onChip s fun (c : Chip) => c.regWrite path (0x808 + 16 * p.toNat) 8 (Chip.word [(0, b1 disabled), (1, 1)])

/-- FAB_RT_DATA_WRITE: the selected routing entry (R291, R513). -/
def execFabRtDataWrite (path : Path) (w : BitVec 32) (s : State) : Host.Outcome State Fault Refusal :=
  onChip s fun (c : Chip) => c.regWrite path 0x718 8 (w.setWidth 64)

/-- FAB_ROLE_SEL_WRITE: the path's snapshot is loaded (R513). -/
def execFabRoleSelWrite (path : Path) (role : BitVec 16) (s : State) : Host.Outcome State Fault Refusal :=
  onChip s fun (c : Chip) => c.regWrite path 0x720 8 (role.setWidth 64)

/-- COMMIT_ROLE: FAB_TBL with COMMIT_ROLE (R303, R513). -/
def execCommitRole (path : Path) (s : State) : Host.Outcome State Fault Refusal :=
  onChip s fun (c : Chip) => c.regWrite path 0x738 8 1

/-- RELOAD_ROLE: FAB_TBL with RELOAD_ROLE (R513). -/
def execReloadRole (path : Path) (s : State) : Host.Outcome State Fault Refusal :=
  onChip s fun (c : Chip) => c.regWrite path 0x738 8 2

/-- LATCH: CNT_CTL with LATCH (R499, R500). -/
def execLatch (path : Path) (scope : CntScope) (all : Bool) (s : State) : Host.Outcome State Fault Refusal :=
  onChip s fun (c : Chip) => c.regWrite path (scopeBase scope) 8 (Chip.word [(0, 1), (3, b1 all)])

/-- ZERO: CNT_CTL with ZERO (R500). -/
def execZeroCounters (path : Path) (scope : CntScope) (s : State) : Host.Outcome State Fault Refusal :=
  onChip s fun (c : Chip) => c.regWrite path (scopeBase scope) 8 4

/-- CNT_SEL_WRITE: SOURCE and ARG of a CNT_SEL, whose counter is zeroed (R500). -/
def execCntSelWrite (path : Path) (scope : CntScope) (idx : BitVec 4) (source : BitVec 13) (arg : BitVec 16) (s : State) : Host.Outcome State Fault Refusal :=
  onChip s fun (c : Chip) => c.regWrite path (selBase scope + 8 * idx.toNat) 8 (Chip.word [(0, source.toNat), (16, arg.toNat)])

/-- IMP_UPDATE_START: IMP_UPDATE_CTL with START; the copy follows in the overseer's loops (R469, R470). -/
def execImpUpdateStart (path : Path) (broadsheet : Bool) (cert : Bool) (length : BitVec 32) (s : State) : Host.Outcome State Fault Refusal :=
  onChip s fun (c : Chip) => c.regWrite path 0x210 8 (Chip.word [(0, 1), (2, b1 broadsheet), (3, b1 cert), (32, length.toNat)])

/-- IMP_UPDATE_ABORT: IMP_UPDATE_CTL with ABORT (R469). -/
def execImpUpdateAbort (path : Path) (s : State) : Host.Outcome State Fault Refusal :=
  onChip s fun (c : Chip) => c.regWrite path 0x210 8 2

/-- CLEAR_START: CLR_CTL with START; the check and the clear follow in the overseer's loops (R493). -/
def execClearStart (path : Path) (broadsheet : Bool) (s : State) : Host.Outcome State Fault Refusal :=
  onChip s fun (c : Chip) => c.regWrite path 0x648 8 (Chip.word [(0, 1), (2, b1 broadsheet)])

/-- MSIX_UNMASK: the vector's mask bit is cleared, and a pending message goes out (R517). -/
def execMsixUnmask (v : BitVec 4) (s : State) : Host.Outcome State Fault Refusal :=
  onChip s fun (c : Chip) => c.regWrite .host (0x1E0C + 16 * v.toNat) 4 0

/-- REGISTER_WRITE: a write of `size` bytes at an offset (R503 to R507). -/
def execRegisterWrite (path : Path) (offset : BitVec 16) (size : BitVec 4) (v : W64) (s : State) : Host.Outcome State Fault Refusal :=
  onChip s fun (c : Chip) => c.regWrite path offset.toNat size.toNat v

/-- ATTACH: HCTL_ATTACH takes ATTACH (R340, R342). -/
def execAttach (s : State) : Host.Outcome State Fault Refusal :=
  onChip s fun (c : Chip) => c.regWrite .host 0x108 8 1

/-- ATTACH_FORCE: HCTL_ATTACH takes ATTACH_FORCE (R340, R342). -/
def execAttachForce (s : State) : Host.Outcome State Fault Refusal :=
  onChip s fun (c : Chip) => c.regWrite .host 0x108 8 3

/-- DETACH: HCTL_ATTACH takes DETACH (R340, R343). -/
def execDetach (s : State) : Host.Outcome State Fault Refusal :=
  onChip s fun (c : Chip) => c.regWrite .host 0x108 8 2

end Sys2Proof.Machine
end

