-- ==== Sys2Proof/Machine/ExecSpike.lean ====
section
/-!
DEFINITION. The meanings of SPIKE slugs and the spike's spills, one for each row of the opcode table.
-/
namespace Sys2Proof.Machine

/-- PUSH (R218). The row takes SPIKE slugs of a reserved operation too, which it rejects. -/
def execPush (e : EngineNo) (src : SlugSrc) (s : State) : Host.Outcome State Fault Refusal :=
  onFormes s fun (c : Chip) => c.runHead e.toNat .spike src.word (isSpike 0) fun c ent => c.spikePush e.toNat ent

/-- POP (R219). -/
def execPop (e : EngineNo) (src : SlugSrc) (s : State) : Host.Outcome State Fault Refusal :=
  onFormes s fun (c : Chip) => c.runHead e.toNat .spike src.word (isSpike 1) fun c ent => c.spikePop e.toNat ent

/-- SPIKE_DROP: DROP (R219). -/
def execSpikeDrop (e : EngineNo) (src : SlugSrc) (s : State) : Host.Outcome State Fault Refusal :=
  onFormes s fun (c : Chip) => c.runHead e.toNat .spike src.word (isSpike 2) fun c ent => c.spikeDrop e.toNat ent

/-- SPILL_SET (R228). -/
def execSpillSet (e : EngineNo) (src : SlugSrc) (s : State) : Host.Outcome State Fault Refusal :=
  onFormes s fun (c : Chip) => c.runHead e.toNat .spike src.word (isSpike 3) fun c ent => c.spillSet e.toNat ent

/-- LAYER_SET (R227). -/
def execLayerSet (e : EngineNo) (src : SlugSrc) (s : State) : Host.Outcome State Fault Refusal :=
  onFormes s fun (c : Chip) => c.runHead e.toNat .spike src.word (isSpike 4) fun c ent => c.layerSet e.toNat ent

/-- LOSS_TEST (R236). -/
def execLossTest (e : EngineNo) (src : SlugSrc) (s : State) : Host.Outcome State Fault Refusal :=
  onFormes s fun (c : Chip) => c.runHead e.toNat .spike src.word (isSpike 5) fun c ent => c.lossTestSlug e.toNat ent

/-- LOSS_CLEAR (R235). -/
def execLossClear (e : EngineNo) (src : SlugSrc) (s : State) : Host.Outcome State Fault Refusal :=
  onFormes s fun (c : Chip) => c.runHead e.toNat .spike src.word (isSpike 6) fun c ent => c.lossClear e.toNat ent

/-- CLEAR (R227). -/
def execClear (e : EngineNo) (src : SlugSrc) (s : State) : Host.Outcome State Fault Refusal :=
  onFormes s fun (c : Chip) => c.runHead e.toNat .spike src.word (isSpike 7) fun c ent => c.spikeClear e.toNat ent

/-- SPILL_DONE: a record's spill write is acknowledged (R222). -/
def execSpillDone (e : EngineNo) (s : State) : Host.Outcome State Fault Refusal :=
  onFormes s fun (c : Chip) => c.spillDone e.toNat

/-- FILL_BACK: the topmost spilled record comes back (R222). -/
def execFillBack (e : EngineNo) (s : State) : Host.Outcome State Fault Refusal :=
  onFormes s fun (c : Chip) => c.fillBack e.toNat

end Sys2Proof.Machine
end

