-- ==== Sys2Proof/Machine/ExecSystem.lean ====
section
/-!
DEFINITION. The meanings of starting, resets, clocks, power, temperature and the overseer, one for each row of the opcode table.
-/
namespace Sys2Proof.Machine

/-- COLD_START: the start after a cold reset, with what the flash answers (R466, R467). -/
def execColdStart (flashGood : Bool) (s : State) : Host.Outcome State Fault Refusal :=
  onDev s fun (d : Dev) => d.coldStart flashGood

/-- THERMAL_TRIP: the hardware trip of a sensor (R446). -/
def execThermalTrip (sensor : BitVec 7) (reading : BitVec 12) (s : State) : Host.Outcome State Fault Refusal :=
  onChip s fun (c : Chip) => if c.standby then c.trip sensor.toNat reading.toNat else c

/-- CLK_LOCK_LOST: the PLL of a domain of R407 loses lock (R408). -/
def execClkLockLost (domain : BitVec 5) (forme : FormeNo) (s : State) : Host.Outcome State Fault Refusal :=
  onFormes s fun (c : Chip) => c.clockLost domain.toNat forme.toNat

/-- PRESS_LOW: VDD_PRESS of a forme is too low, and its engines park (R405). -/
def execPressLow (f : FormeNo) (s : State) : Host.Outcome State Fault Refusal :=
  onFormes s fun (c : Chip) => c.pressLow f.toNat

/-- PRESS_RECOVER: the parked engines go on where they stopped (R405). -/
def execPressRecover (f : FormeNo) (s : State) : Host.Outcome State Fault Refusal :=
  onFormes s fun (c : Chip) => c.pressRecover f.toNat

/-- OVERSEER_LOOP: the tasks of one 1 ms loop (R455). -/
def execOverseerLoop (reads : LoopIn) (s : State) : Host.Outcome State Fault Refusal :=
  onDev s fun (d : Dev) => d.overseerLoop reads

/-- FAST_POWER_LOOP: the formes' estimates and the cap level (R435). -/
def execFastPowerLoop (counts : List (List (BitVec 32))) (s : State) : Host.Outcome State Fault Refusal :=
  onFormes s fun (c : Chip) => c.fastLoop (counts.map fun l => l.map BitVec.toNat)

/-- LEASE_EXPIRED: a sender's lease has ended (R427). -/
def execLeaseExpired (sender : DeviceId) (s : State) : Host.Outcome State Fault Refusal :=
  onFormes s fun (c : Chip) => c.leaseExpired sender.toNat

/-- SLACK_REPORT: a report that is due to a sender (R431). -/
def execSlackReport (sender : DeviceId) (s : State) : Host.Outcome State Fault Refusal :=
  onFormes s fun (c : Chip) => c.slackReport sender.toNat

/-- OVS_RESTART: the watchdog restarts the overseer (R456). -/
def execOvsRestart (intact : Bool) (s : State) : Host.Outcome State Fault Refusal :=
  onChip s fun (c : Chip) => c.ovsRestart intact

/-- PVID_RESEND: a frame that was not echoed is sent again (R521). -/
def execPvidResend (f : FormeNo) (s : State) : Host.Outcome State Fault Refusal :=
  onFormes s fun (c : Chip) => c.pvidResend f.toNat

/-- UNIT_ERROR: a unit error opens an episode or nests, or an upset leaves a bad word (R481, R535). -/
def execUnitError (x : UnitErr) (s : State) : Host.Outcome State Fault Refusal :=
  onChip s fun (c : Chip) => c.unitErr x

/-- ENGINE_RESET: the reset of one engine that was asked for (R416). -/
def execEngineReset (e : EngineNo) (s : State) : Host.Outcome State Fault Refusal :=
  onFormes s fun (c : Chip) => c.engineReset e.toNat

/-- FORME_RESET: the reset of a forme goes on (R420). -/
def execFormeReset (f : FormeNo) (s : State) : Host.Outcome State Fault Refusal :=
  onFormes s fun (c : Chip) => c.formeReset f.toNat

/-- QUIESCE_WATCHDOG: a forme that has not parked in time is forced (R421). -/
def execQuiesceWatchdog (f : FormeNo) (s : State) : Host.Outcome State Fault Refusal :=
  onFormes s fun (c : Chip) => c.quiesceWatchdog f.toNat

/-- BED_RESET: steps 2 and 3 of a bed-domain reset (R417). -/
def execBedReset (domain : BitVec 5) (s : State) : Host.Outcome State Fault Refusal :=
  onFormes s fun (c : Chip) => c.bedReset domain.toNat

/-- BED_DOMAIN_READY: a domain raises READY, or a forme reset ends; what waited for it goes on (R418). -/
def execBedDomainReady (domain : ReadyOf) (s : State) : Host.Outcome State Fault Refusal :=
  onFormes s fun (c : Chip) =>
    match domain with
      | .bed d => c.domainReady d.toNat
      | .forme f => c.domainReady (100 + f.toNat)

/-- STANDBY_POWER_OFF: everything stops, and a write in progress is torn (R528). -/
def execStandbyPowerOff (torn : Bool) (s : State) : Host.Outcome State Fault Refusal :=
  onDev s fun (d : Dev) => d.standbyOff torn

/-- HBM_STACK_TEMP_READ: a stack's sensor, and its refresh rate (R444). -/
def execHbmStackTempRead (m : BitVec 4) (t : BitVec 12) (s : State) : Host.Outcome State Fault Refusal :=
  onFormes s fun (c : Chip) => c.hbmTemp m.toNat t.toNat

/-- RESET_N_ASSERT: a cold reset of the whole device (R413). -/
def execResetNAssert (s : State) : Host.Outcome State Fault Refusal :=
  onChip s fun (c : Chip) => c.resetN

/-- PWRGD_FALL: the formes park, clocks stop and volatile contents are lost (R527). -/
def execPwrgdFall (s : State) : Host.Outcome State Fault Refusal :=
  onChip s fun (c : Chip) => c.pwrgdFall

/-- DROOP_STRETCH: the clocks of a spine are stretched (R437). -/
def execDroopStretch (s : State) : Host.Outcome State Fault Refusal :=
  onFormes s fun (c : Chip) => c.droopStretch

/-- DROOP_STRETCH_END: the stretch ends (R437). -/
def execDroopStretchEnd (s : State) : Host.Outcome State Fault Refusal :=
  onFormes s fun (c : Chip) => c.droopEnd

/-- THERM_DRAIN_EXPIRY: what still runs is cut, and the stop goes on (R445). -/
def execThermDrainExpiry (s : State) : Host.Outcome State Fault Refusal :=
  onChip s fun (c : Chip) => c.drainExpiry

/-- CAP_UNMET: five windows above the target at the floor (R436). -/
def execCapUnmet (s : State) : Host.Outcome State Fault Refusal :=
  onFormes s fun (c : Chip) => c.capUnmet

/-- MEASURED_ONLY: five disagreeing windows (R441). -/
def execMeasuredOnly (s : State) : Host.Outcome State Fault Refusal :=
  onFormes s fun (c : Chip) => c.measuredOnly

/-- LAST_RUN_WRITE: the last-run record is rewritten (R490). -/
def execLastRunWrite (s : State) : Host.Outcome State Fault Refusal :=
  onDev s fun (d : Dev) => if d.chip.standby && d.chip.ovs.state != .rom then d.lastRunWrite else d

/-- DEFERRED_WRITE_FLUSH: what waited for its temperature bound is written (R448). -/
def execDeferredWriteFlush (s : State) : Host.Outcome State Fault Refusal :=
  onDev s fun (d : Dev) => if d.chip.standby && d.chip.ovs.state != .rom then d.flushDeferred else d

/-- DEVICE_RESET: the reset of the four formes together goes on (R422). -/
def execDeviceReset (s : State) : Host.Outcome State Fault Refusal :=
  onFormes s fun (c : Chip) => c.deviceReset

/-- STANDBY_POWER_ON: the overseer's oscillator starts (R526). -/
def execStandbyPowerOn (s : State) : Host.Outcome State Fault Refusal :=
  onChip s fun (c : Chip) => c.standbyOn

end Sys2Proof.Machine
end

