-- ==== Sys2Proof/Machine/ExecUpdate.lean ====
section
/-!
DEFINITION. The meanings of UPDATE slugs and what they wait for, one for each row of the opcode table.
-/
namespace Sys2Proof.Machine

/-- APPLY (R255). The row takes UPDATE slugs of a reserved operation too, which it rejects. -/
def execApplyStep (e : EngineNo) (src : SlugSrc) (s : State) : Host.Outcome State Fault Refusal :=
  onFormes s fun (c : Chip) => c.runUpdate e.toNat 0 src.word fun c e x => c.upApply e x

/-- APPLY_DELTA (R261). -/
def execApplyDelta (e : EngineNo) (src : SlugSrc) (s : State) : Host.Outcome State Fault Refusal :=
  onFormes s fun (c : Chip) => c.runUpdate e.toNat 1 src.word fun c e x => c.upApplyDelta e x

/-- FP_EXCHANGE (R267). -/
def execFpExchange (e : EngineNo) (src : SlugSrc) (s : State) : Host.Outcome State Fault Refusal :=
  onFormes s fun (c : Chip) => c.runUpdate e.toNat 2 src.word fun c e x => c.upExchange e x

/-- FP_RECORD_ARRIVED: the peer's sealed record is compared (R267). -/
def execFpRecordArrived (e : EngineNo) (s : State) : Host.Outcome State Fault Refusal :=
  onFormes s fun (c : Chip) => c.fpArrived e.toNat

/-- FP_TIMEOUT: no sealed record in time (R267). -/
def execFpTimeout (e : EngineNo) (s : State) : Host.Outcome State Fault Refusal :=
  onFormes s fun (c : Chip) => c.fpTimeout e.toNat

/-- REPAIR (R270). -/
def execRepair (e : EngineNo) (src : SlugSrc) (s : State) : Host.Outcome State Fault Refusal :=
  onFormes s fun (c : Chip) => c.runUpdate e.toNat 3 src.word fun c e x => c.upRepair e x

/-- EXPORT (R271). -/
def execExportImage (e : EngineNo) (src : SlugSrc) (s : State) : Host.Outcome State Fault Refusal :=
  onFormes s fun (c : Chip) => c.runUpdate e.toNat 4 src.word fun c e x => c.upExport e x

/-- IMPORT (R272). -/
def execImportImage (e : EngineNo) (src : SlugSrc) (s : State) : Host.Outcome State Fault Refusal :=
  onFormes s fun (c : Chip) => c.runUpdate e.toNat 5 src.word fun c e x => c.upImport e x

/-- UPDATE_BEGIN: a forme's corrector begins what may begin (R250, R251). -/
def execUpdateBegin (f : FormeNo) (s : State) : Host.Outcome State Fault Refusal :=
  onFormes s fun (c : Chip) => c.updateBegin f.toNat

/-- CHUNK_STATE_ARRIVED: a slow-tier chunk is computed and put back (R263). -/
def execChunkStateArrived (e : EngineNo) (s : State) : Host.Outcome State Fault Refusal :=
  onFormes s fun (c : Chip) => c.chunkArrived e.toNat

/-- CHUNK_PUT_ACK: a chunk's puts are acknowledged (R263). -/
def execChunkPutAck (e : EngineNo) (s : State) : Host.Outcome State Fault Refusal :=
  onFormes s fun (c : Chip) => c.chunkAck e.toNat

end Sys2Proof.Machine
end

