-- ==== Sys2Proof/Machine/ExecVector.lean ====
section
/-!
DEFINITION. The meanings of the vector engine, one for each row of the opcode table.
-/
namespace Sys2Proof.Machine

/-- GALLEY_CONSUME: the consumer at the head of the VECTOR queue takes one entry (R139). -/
def execGalleyConsume (e : EngineNo) (s : State) : Host.Outcome State Fault Refusal :=
  onFormes s fun (c : Chip) =>
    c.runHead e.toNat .vector none (fun s => slugClass s == 2 || slugClass s == 3) fun c ent => c.consume e.toNat ent

/-- VECTOR_COPY: Vector VECTOR_COPY (R533). The row takes VECTOR slugs of no listed operation too, which it rejects. -/
def execVectorCopy (e : EngineNo) (src : SlugSrc) (s : State) : Host.Outcome State Fault Refusal :=
  onFormes s fun (c : Chip) =>
    c.runHead e.toNat .vector src.word (fun s => isVector .copy s || badVector s) fun c ent => c.vectorRun e.toNat ent

/-- ADD: Vector ADD (R130). -/
def execAdd (e : EngineNo) (src : SlugSrc) (s : State) : Host.Outcome State Fault Refusal :=
  onFormes s fun (c : Chip) => c.runHead e.toNat .vector src.word (isVector .add) fun c ent => c.vectorRun e.toNat ent

/-- SUB: Vector SUB (R130). -/
def execSub (e : EngineNo) (src : SlugSrc) (s : State) : Host.Outcome State Fault Refusal :=
  onFormes s fun (c : Chip) => c.runHead e.toNat .vector src.word (isVector .sub) fun c ent => c.vectorRun e.toNat ent

/-- MUL: Vector MUL (R130). -/
def execMul (e : EngineNo) (src : SlugSrc) (s : State) : Host.Outcome State Fault Refusal :=
  onFormes s fun (c : Chip) => c.runHead e.toNat .vector src.word (isVector .mul) fun c ent => c.vectorRun e.toNat ent

/-- FMA: Vector FMA (R130). -/
def execFma (e : EngineNo) (src : SlugSrc) (s : State) : Host.Outcome State Fault Refusal :=
  onFormes s fun (c : Chip) => c.runHead e.toNat .vector src.word (isVector .fma) fun c ent => c.vectorRun e.toNat ent

/-- DIV: Vector DIV (R130). -/
def execDiv (e : EngineNo) (src : SlugSrc) (s : State) : Host.Outcome State Fault Refusal :=
  onFormes s fun (c : Chip) => c.runHead e.toNat .vector src.word (isVector .div) fun c ent => c.vectorRun e.toNat ent

/-- RECIP: Vector RECIP (R130). -/
def execRecip (e : EngineNo) (src : SlugSrc) (s : State) : Host.Outcome State Fault Refusal :=
  onFormes s fun (c : Chip) => c.runHead e.toNat .vector src.word (isVector .recip) fun c ent => c.vectorRun e.toNat ent

/-- SQRT: Vector SQRT (R130). -/
def execSqrt (e : EngineNo) (src : SlugSrc) (s : State) : Host.Outcome State Fault Refusal :=
  onFormes s fun (c : Chip) => c.runHead e.toNat .vector src.word (isVector .sqrt) fun c ent => c.vectorRun e.toNat ent

/-- RSQRT: Vector RSQRT (R130). -/
def execRsqrt (e : EngineNo) (src : SlugSrc) (s : State) : Host.Outcome State Fault Refusal :=
  onFormes s fun (c : Chip) => c.runHead e.toNat .vector src.word (isVector .rsqrt) fun c ent => c.vectorRun e.toNat ent

/-- EXP: Vector EXP (R130). -/
def execExp (e : EngineNo) (src : SlugSrc) (s : State) : Host.Outcome State Fault Refusal :=
  onFormes s fun (c : Chip) => c.runHead e.toNat .vector src.word (isVector .exp) fun c ent => c.vectorRun e.toNat ent

/-- LOG: Vector LOG (R130). -/
def execLog (e : EngineNo) (src : SlugSrc) (s : State) : Host.Outcome State Fault Refusal :=
  onFormes s fun (c : Chip) => c.runHead e.toNat .vector src.word (isVector .log) fun c ent => c.vectorRun e.toNat ent

/-- TANH: Vector TANH (R130). -/
def execTanh (e : EngineNo) (src : SlugSrc) (s : State) : Host.Outcome State Fault Refusal :=
  onFormes s fun (c : Chip) => c.runHead e.toNat .vector src.word (isVector .tanh) fun c ent => c.vectorRun e.toNat ent

/-- SIGMOID: Vector SIGMOID (R130). -/
def execSigmoid (e : EngineNo) (src : SlugSrc) (s : State) : Host.Outcome State Fault Refusal :=
  onFormes s fun (c : Chip) => c.runHead e.toNat .vector src.word (isVector .sigmoid) fun c ent => c.vectorRun e.toNat ent

/-- GELU: Vector GELU (R130). -/
def execGelu (e : EngineNo) (src : SlugSrc) (s : State) : Host.Outcome State Fault Refusal :=
  onFormes s fun (c : Chip) => c.runHead e.toNat .vector src.word (isVector .gelu) fun c ent => c.vectorRun e.toNat ent

/-- SILU: Vector SILU (R130). -/
def execSilu (e : EngineNo) (src : SlugSrc) (s : State) : Host.Outcome State Fault Refusal :=
  onFormes s fun (c : Chip) => c.runHead e.toNat .vector src.word (isVector .silu) fun c ent => c.vectorRun e.toNat ent

/-- MAX: Vector MAX (R131). -/
def execMax (e : EngineNo) (src : SlugSrc) (s : State) : Host.Outcome State Fault Refusal :=
  onFormes s fun (c : Chip) => c.runHead e.toNat .vector src.word (isVector .max) fun c ent => c.vectorRun e.toNat ent

/-- MIN: Vector MIN (R131). -/
def execMin (e : EngineNo) (src : SlugSrc) (s : State) : Host.Outcome State Fault Refusal :=
  onFormes s fun (c : Chip) => c.runHead e.toNat .vector src.word (isVector .min) fun c ent => c.vectorRun e.toNat ent

/-- ABS: Vector ABS (R539). -/
def execAbs (e : EngineNo) (src : SlugSrc) (s : State) : Host.Outcome State Fault Refusal :=
  onFormes s fun (c : Chip) => c.runHead e.toNat .vector src.word (isVector .abs) fun c ent => c.vectorRun e.toNat ent

/-- NEG: Vector NEG (R539). -/
def execNeg (e : EngineNo) (src : SlugSrc) (s : State) : Host.Outcome State Fault Refusal :=
  onFormes s fun (c : Chip) => c.runHead e.toNat .vector src.word (isVector .neg) fun c ent => c.vectorRun e.toNat ent

/-- CLAMP: Vector CLAMP (R539). -/
def execClamp (e : EngineNo) (src : SlugSrc) (s : State) : Host.Outcome State Fault Refusal :=
  onFormes s fun (c : Chip) => c.runHead e.toNat .vector src.word (isVector .clamp) fun c ent => c.vectorRun e.toNat ent

/-- CMP_EQ: Vector CMP_EQ (R131). -/
def execCmpEq (e : EngineNo) (src : SlugSrc) (s : State) : Host.Outcome State Fault Refusal :=
  onFormes s fun (c : Chip) => c.runHead e.toNat .vector src.word (isVector .cmpEq) fun c ent => c.vectorRun e.toNat ent

/-- CMP_LT: Vector CMP_LT (R131). -/
def execCmpLt (e : EngineNo) (src : SlugSrc) (s : State) : Host.Outcome State Fault Refusal :=
  onFormes s fun (c : Chip) => c.runHead e.toNat .vector src.word (isVector .cmpLt) fun c ent => c.vectorRun e.toNat ent

/-- CMP_LE: Vector CMP_LE (R131). -/
def execCmpLe (e : EngineNo) (src : SlugSrc) (s : State) : Host.Outcome State Fault Refusal :=
  onFormes s fun (c : Chip) => c.runHead e.toNat .vector src.word (isVector .cmpLe) fun c ent => c.vectorRun e.toNat ent

/-- SELECT: Vector SELECT (R131). -/
def execSelect (e : EngineNo) (src : SlugSrc) (s : State) : Host.Outcome State Fault Refusal :=
  onFormes s fun (c : Chip) => c.runHead e.toNat .vector src.word (isVector .select) fun c ent => c.vectorRun e.toNat ent

/-- DROPOUT: Vector DROPOUT (R138). -/
def execDropout (e : EngineNo) (src : SlugSrc) (s : State) : Host.Outcome State Fault Refusal :=
  onFormes s fun (c : Chip) => c.runHead e.toNat .vector src.word (isVector .dropout) fun c ent => c.vectorRun e.toNat ent

/-- IADD: Vector IADD (R132). -/
def execIadd (e : EngineNo) (src : SlugSrc) (s : State) : Host.Outcome State Fault Refusal :=
  onFormes s fun (c : Chip) => c.runHead e.toNat .vector src.word (isVector .iadd) fun c ent => c.vectorRun e.toNat ent

/-- ISUB: Vector ISUB (R132). -/
def execIsub (e : EngineNo) (src : SlugSrc) (s : State) : Host.Outcome State Fault Refusal :=
  onFormes s fun (c : Chip) => c.runHead e.toNat .vector src.word (isVector .isub) fun c ent => c.vectorRun e.toNat ent

/-- IMUL: Vector IMUL (R132). -/
def execImul (e : EngineNo) (src : SlugSrc) (s : State) : Host.Outcome State Fault Refusal :=
  onFormes s fun (c : Chip) => c.runHead e.toNat .vector src.word (isVector .imul) fun c ent => c.vectorRun e.toNat ent

/-- SHL: Vector SHL (R132). -/
def execShl (e : EngineNo) (src : SlugSrc) (s : State) : Host.Outcome State Fault Refusal :=
  onFormes s fun (c : Chip) => c.runHead e.toNat .vector src.word (isVector .shl) fun c ent => c.vectorRun e.toNat ent

/-- SHR: Vector SHR (R132). -/
def execShr (e : EngineNo) (src : SlugSrc) (s : State) : Host.Outcome State Fault Refusal :=
  onFormes s fun (c : Chip) => c.runHead e.toNat .vector src.word (isVector .shr) fun c ent => c.vectorRun e.toNat ent

/-- CVT_F2I: Vector CVT_F2I (R132). -/
def execCvtF2i (e : EngineNo) (src : SlugSrc) (s : State) : Host.Outcome State Fault Refusal :=
  onFormes s fun (c : Chip) => c.runHead e.toNat .vector src.word (isVector .cvtF2i) fun c ent => c.vectorRun e.toNat ent

/-- CVT_I2F: Vector CVT_I2F (R132). -/
def execCvtI2f (e : EngineNo) (src : SlugSrc) (s : State) : Host.Outcome State Fault Refusal :=
  onFormes s fun (c : Chip) => c.runHead e.toNat .vector src.word (isVector .cvtI2f) fun c ent => c.vectorRun e.toNat ent

/-- RED_SUM: Vector RED_SUM (R133). -/
def execRedSum (e : EngineNo) (src : SlugSrc) (s : State) : Host.Outcome State Fault Refusal :=
  onFormes s fun (c : Chip) => c.runHead e.toNat .vector src.word (isVector .redSum) fun c ent => c.vectorRun e.toNat ent

/-- RED_SUMSQ: Vector RED_SUMSQ (R133). -/
def execRedSumsq (e : EngineNo) (src : SlugSrc) (s : State) : Host.Outcome State Fault Refusal :=
  onFormes s fun (c : Chip) => c.runHead e.toNat .vector src.word (isVector .redSumsq) fun c ent => c.vectorRun e.toNat ent

/-- RED_DOT: Vector RED_DOT (R133). -/
def execRedDot (e : EngineNo) (src : SlugSrc) (s : State) : Host.Outcome State Fault Refusal :=
  onFormes s fun (c : Chip) => c.runHead e.toNat .vector src.word (isVector .redDot) fun c ent => c.vectorRun e.toNat ent

/-- RED_MAX: Vector RED_MAX (R133). -/
def execRedMax (e : EngineNo) (src : SlugSrc) (s : State) : Host.Outcome State Fault Refusal :=
  onFormes s fun (c : Chip) => c.runHead e.toNat .vector src.word (isVector .redMax) fun c ent => c.vectorRun e.toNat ent

/-- RED_MIN: Vector RED_MIN (R133). -/
def execRedMin (e : EngineNo) (src : SlugSrc) (s : State) : Host.Outcome State Fault Refusal :=
  onFormes s fun (c : Chip) => c.runHead e.toNat .vector src.word (isVector .redMin) fun c ent => c.vectorRun e.toNat ent

/-- RED_ARGMAX: Vector RED_ARGMAX (R134). -/
def execRedArgmax (e : EngineNo) (src : SlugSrc) (s : State) : Host.Outcome State Fault Refusal :=
  onFormes s fun (c : Chip) => c.runHead e.toNat .vector src.word (isVector .redArgmax) fun c ent => c.vectorRun e.toNat ent

/-- RED_ARGMIN: Vector RED_ARGMIN (R134). -/
def execRedArgmin (e : EngineNo) (src : SlugSrc) (s : State) : Host.Outcome State Fault Refusal :=
  onFormes s fun (c : Chip) => c.runHead e.toNat .vector src.word (isVector .redArgmin) fun c ent => c.vectorRun e.toNat ent

end Sys2Proof.Machine
end

