-- ==== Sys2Proof/Machine/Dispatch.lean ====
section
/-!
DEFINITION. The dispatch: one arm for each command, a direct call of its meaning.
-/
namespace Sys2Proof.Machine

/-- The effect of a command on everything but the queue. -/
def exec (i : Instr) (s : State) : Host.Outcome State Fault Refusal :=
  match i with
  | .coldStart flashGood => Sys2Proof.Machine.execColdStart flashGood s
  | .thermalTrip sensor reading => Sys2Proof.Machine.execThermalTrip sensor reading s
  | .clkLockLost domain forme => Sys2Proof.Machine.execClkLockLost domain forme s
  | .pressLow f => Sys2Proof.Machine.execPressLow f s
  | .pressRecover f => Sys2Proof.Machine.execPressRecover f s
  | .hostReset kind => Sys2Proof.Machine.execHostReset kind s
  | .cxlLinkRecovery phase => Sys2Proof.Machine.execCxlLinkRecovery phase s
  | .snpData line => Sys2Proof.Machine.execSnpData line s
  | .snpInv line write => Sys2Proof.Machine.execSnpInv line write s
  | .snpCur line => Sys2Proof.Machine.execSnpCur line s
  | .cxlCacheResponse line data exclusive poison => Sys2Proof.Machine.execCxlCacheResponse line data exclusive poison s
  | .overseerLoop reads => Sys2Proof.Machine.execOverseerLoop reads s
  | .fastPowerLoop counts => Sys2Proof.Machine.execFastPowerLoop counts s
  | .leaseExpired sender => Sys2Proof.Machine.execLeaseExpired sender s
  | .slackReport sender => Sys2Proof.Machine.execSlackReport sender s
  | .ovsRestart intact => Sys2Proof.Machine.execOvsRestart intact s
  | .pvidResend f => Sys2Proof.Machine.execPvidResend f s
  | .unitError x => Sys2Proof.Machine.execUnitError x s
  | .engineReset e => Sys2Proof.Machine.execEngineReset e s
  | .formeReset f => Sys2Proof.Machine.execFormeReset f s
  | .quiesceWatchdog f => Sys2Proof.Machine.execQuiesceWatchdog f s
  | .bedReset domain => Sys2Proof.Machine.execBedReset domain s
  | .bedDomainReady domain => Sys2Proof.Machine.execBedDomainReady domain s
  | .rstEngine path target clear force => Sys2Proof.Machine.execRstEngine path target clear force s
  | .rstForme path target clear force => Sys2Proof.Machine.execRstForme path target clear force s
  | .rstBedDomain path target clear force => Sys2Proof.Machine.execRstBedDomain path target clear force s
  | .rstDevice path target clear force => Sys2Proof.Machine.execRstDevice path target clear force s
  | .applyPlatenSplit path e scratch spike => Sys2Proof.Machine.execApplyPlatenSplit path e scratch spike s
  | .resetStats path action nfAsSpike => Sys2Proof.Machine.execResetStats path action nfAsSpike s
  | .releaseApply path => Sys2Proof.Machine.execReleaseApply path s
  | .releaseSkip path => Sys2Proof.Machine.execReleaseSkip path s
  | .rngSeedWrite path v => Sys2Proof.Machine.execRngSeedWrite path v s
  | .rearm path ceil0 ceil1 ceil2 ceil3 => Sys2Proof.Machine.execRearm path ceil0 ceil1 ceil2 ceil3 s
  | .doorbell path n log2 space enable => Sys2Proof.Machine.execDoorbell path n log2 space enable s
  | .jobRingDisable path n log2 space => Sys2Proof.Machine.execJobRingDisable path n log2 space s
  | .jobRingPoll n => Sys2Proof.Machine.execJobRingPoll n s
  | .disable path p => Sys2Proof.Machine.execDisable path p s
  | .retrainFull path p disabled => Sys2Proof.Machine.execRetrainFull path p disabled s
  | .fabRtDataWrite path w => Sys2Proof.Machine.execFabRtDataWrite path w s
  | .fabRoleSelWrite path role => Sys2Proof.Machine.execFabRoleSelWrite path role s
  | .commitRole path => Sys2Proof.Machine.execCommitRole path s
  | .reloadRole path => Sys2Proof.Machine.execReloadRole path s
  | .latch path scope all => Sys2Proof.Machine.execLatch path scope all s
  | .zeroCounters path scope => Sys2Proof.Machine.execZeroCounters path scope s
  | .cntSelWrite path scope idx source arg => Sys2Proof.Machine.execCntSelWrite path scope idx source arg s
  | .impUpdateStart path broadsheet cert length => Sys2Proof.Machine.execImpUpdateStart path broadsheet cert length s
  | .impUpdateAbort path => Sys2Proof.Machine.execImpUpdateAbort path s
  | .clearStart path broadsheet => Sys2Proof.Machine.execClearStart path broadsheet s
  | .msixUnmask v => Sys2Proof.Machine.execMsixUnmask v s
  | .registerWrite path offset size v => Sys2Proof.Machine.execRegisterWrite path offset size v s
  | .flashTemp t => Sys2Proof.Machine.execFlashTemp t s
  | .i3cPrivateWrite bytes => Sys2Proof.Machine.execI3cPrivateWrite bytes s
  | .i3cPrivateRead n => Sys2Proof.Machine.execI3cPrivateRead n s
  | .entdaa a => Sys2Proof.Machine.execEntdaa a s
  | .getCertificate slot offset length => Sys2Proof.Machine.execGetCertificate slot offset length s
  | .challenge slot => Sys2Proof.Machine.execChallenge slot s
  | .getMeasurements index signed => Sys2Proof.Machine.execGetMeasurements index signed s
  | .dataFrame p link thdr payload trailer => Sys2Proof.Machine.execDataFrame p link thdr payload trailer s
  | .controlFrame p link trailer => Sys2Proof.Machine.execControlFrame p link trailer s
  | .nak p link trailer => Sys2Proof.Machine.execNak p link trailer s
  | .heartbeat p link payload trailer => Sys2Proof.Machine.execHeartbeat p link payload trailer s
  | .train p link payload trailer => Sys2Proof.Machine.execTrain p link payload trailer s
  | .laneDropout p lane => Sys2Proof.Machine.execLaneDropout p lane s
  | .portDown p => Sys2Proof.Machine.execPortDown p s
  | .portRetrain p => Sys2Proof.Machine.execPortRetrain p s
  | .fabRead src => Sys2Proof.Machine.execFabRead src s
  | .fabWrite src => Sys2Proof.Machine.execFabWrite src s
  | .fabAtomic src => Sys2Proof.Machine.execFabAtomic src s
  | .collData src => Sys2Proof.Machine.execCollData src s
  | .collGsum src => Sys2Proof.Machine.execCollGsum src s
  | .a2aRows src => Sys2Proof.Machine.execA2aRows src s
  | .a2aMark src => Sys2Proof.Machine.execA2aMark src s
  | .watch src => Sys2Proof.Machine.execWatch src s
  | .inval src => Sys2Proof.Machine.execInval src s
  | .response src => Sys2Proof.Machine.execResponse src s
  | .roleRetry txn => Sys2Proof.Machine.execRoleRetry txn s
  | .requestTimeout txn => Sys2Proof.Machine.execRequestTimeout txn s
  | .collTimeout e => Sys2Proof.Machine.execCollTimeout e s
  | .regRead src => Sys2Proof.Machine.execRegRead src s
  | .regWriteMsg src => Sys2Proof.Machine.execRegWriteMsg src s
  | .powerLimit src => Sys2Proof.Machine.execPowerLimit src s
  | .idAssign src => Sys2Proof.Machine.execIdAssign src s
  | .roleSet src => Sys2Proof.Machine.execRoleSet src s
  | .rtSet src => Sys2Proof.Machine.execRtSet src s
  | .discover src => Sys2Proof.Machine.execDiscover src s
  | .moveCopy e src => Sys2Proof.Machine.execMoveCopy e src s
  | .copyT e src => Sys2Proof.Machine.execCopyT e src s
  | .prefetch e src => Sys2Proof.Machine.execPrefetch e src s
  | .set e src => Sys2Proof.Machine.execSet e src s
  | .matmul e src => Sys2Proof.Machine.execMatmul e src s
  | .matmulBwdPair e src => Sys2Proof.Machine.execMatmulBwdPair e src s
  | .galleyEntryFreed e => Sys2Proof.Machine.execGalleyEntryFreed e s
  | .galleyStuck e => Sys2Proof.Machine.execGalleyStuck e s
  | .galleyConsume e => Sys2Proof.Machine.execGalleyConsume e s
  | .operandBlockReady e q => Sys2Proof.Machine.execOperandBlockReady e q s
  | .vectorCopy e src => Sys2Proof.Machine.execVectorCopy e src s
  | .add e src => Sys2Proof.Machine.execAdd e src s
  | .sub e src => Sys2Proof.Machine.execSub e src s
  | .mul e src => Sys2Proof.Machine.execMul e src s
  | .fma e src => Sys2Proof.Machine.execFma e src s
  | .div e src => Sys2Proof.Machine.execDiv e src s
  | .recip e src => Sys2Proof.Machine.execRecip e src s
  | .sqrt e src => Sys2Proof.Machine.execSqrt e src s
  | .rsqrt e src => Sys2Proof.Machine.execRsqrt e src s
  | .exp e src => Sys2Proof.Machine.execExp e src s
  | .log e src => Sys2Proof.Machine.execLog e src s
  | .tanh e src => Sys2Proof.Machine.execTanh e src s
  | .sigmoid e src => Sys2Proof.Machine.execSigmoid e src s
  | .gelu e src => Sys2Proof.Machine.execGelu e src s
  | .silu e src => Sys2Proof.Machine.execSilu e src s
  | .max e src => Sys2Proof.Machine.execMax e src s
  | .min e src => Sys2Proof.Machine.execMin e src s
  | .abs e src => Sys2Proof.Machine.execAbs e src s
  | .neg e src => Sys2Proof.Machine.execNeg e src s
  | .clamp e src => Sys2Proof.Machine.execClamp e src s
  | .cmpEq e src => Sys2Proof.Machine.execCmpEq e src s
  | .cmpLt e src => Sys2Proof.Machine.execCmpLt e src s
  | .cmpLe e src => Sys2Proof.Machine.execCmpLe e src s
  | .select e src => Sys2Proof.Machine.execSelect e src s
  | .dropout e src => Sys2Proof.Machine.execDropout e src s
  | .iadd e src => Sys2Proof.Machine.execIadd e src s
  | .isub e src => Sys2Proof.Machine.execIsub e src s
  | .imul e src => Sys2Proof.Machine.execImul e src s
  | .shl e src => Sys2Proof.Machine.execShl e src s
  | .shr e src => Sys2Proof.Machine.execShr e src s
  | .cvtF2i e src => Sys2Proof.Machine.execCvtF2i e src s
  | .cvtI2f e src => Sys2Proof.Machine.execCvtI2f e src s
  | .redSum e src => Sys2Proof.Machine.execRedSum e src s
  | .redSumsq e src => Sys2Proof.Machine.execRedSumsq e src s
  | .redDot e src => Sys2Proof.Machine.execRedDot e src s
  | .redMax e src => Sys2Proof.Machine.execRedMax e src s
  | .redMin e src => Sys2Proof.Machine.execRedMin e src s
  | .redArgmax e src => Sys2Proof.Machine.execRedArgmax e src s
  | .redArgmin e src => Sys2Proof.Machine.execRedArgmin e src s
  | .layernormFwd e src => Sys2Proof.Machine.execLayernormFwd e src s
  | .layernormBwd e src => Sys2Proof.Machine.execLayernormBwd e src s
  | .rmsnormFwd e src => Sys2Proof.Machine.execRmsnormFwd e src s
  | .rmsnormBwd e src => Sys2Proof.Machine.execRmsnormBwd e src s
  | .softmaxFwd e src => Sys2Proof.Machine.execSoftmaxFwd e src s
  | .softmaxBwd e src => Sys2Proof.Machine.execSoftmaxBwd e src s
  | .softmaxFwdMm e src => Sys2Proof.Machine.execSoftmaxFwdMm e src s
  | .softmaxBwdMm e src => Sys2Proof.Machine.execSoftmaxBwdMm e src s
  | .xent e src => Sys2Proof.Machine.execXent e src s
  | .quoin e src => Sys2Proof.Machine.execQuoin e src s
  | .quoinComplete e => Sys2Proof.Machine.execQuoinComplete e s
  | .wait e src => Sys2Proof.Machine.execWait e src s
  | .waitSatisfied e => Sys2Proof.Machine.execWaitSatisfied e s
  | .waitTimeout e => Sys2Proof.Machine.execWaitTimeout e s
  | .nop e src => Sys2Proof.Machine.execNop e src s
  | .tdLoad e src => Sys2Proof.Machine.execTdLoad e src s
  | .list e src => Sys2Proof.Machine.execList e src s
  | .cringSet e src => Sys2Proof.Machine.execCringSet e src s
  | .linearFwd e src => Sys2Proof.Machine.execLinearFwd e src s
  | .linearBwd e src => Sys2Proof.Machine.execLinearBwd e src s
  | .attentionFwd e src => Sys2Proof.Machine.execAttentionFwd e src s
  | .attentionBwd e src => Sys2Proof.Machine.execAttentionBwd e src s
  | .normFwd e src => Sys2Proof.Machine.execNormFwd e src s
  | .normBwd e src => Sys2Proof.Machine.execNormBwd e src s
  | .xentCall e src => Sys2Proof.Machine.execXentCall e src s
  | .callPart e => Sys2Proof.Machine.execCallPart e s
  | .slugComplete e => Sys2Proof.Machine.execSlugComplete e s
  | .cringSpace e => Sys2Proof.Machine.execCringSpace e s
  | .put e src => Sys2Proof.Machine.execPut e src s
  | .get e src => Sys2Proof.Machine.execGet e src s
  | .atomic e src => Sys2Proof.Machine.execAtomic e src s
  | .dispatch e src => Sys2Proof.Machine.execDispatch e src s
  | .combine e src => Sys2Proof.Machine.execCombine e src s
  | .reduceScatter e src => Sys2Proof.Machine.execReduceScatter e src s
  | .allGather e src => Sys2Proof.Machine.execAllGather e src s
  | .allReduce e src => Sys2Proof.Machine.execAllReduce e src s
  | .mgmtSend e src => Sys2Proof.Machine.execMgmtSend e src s
  | .writeback e src => Sys2Proof.Machine.execWriteback e src s
  | .writebackAll e src => Sys2Proof.Machine.execWritebackAll e src s
  | .hostDrop e src => Sys2Proof.Machine.execHostDrop e src s
  | .push e src => Sys2Proof.Machine.execPush e src s
  | .pop e src => Sys2Proof.Machine.execPop e src s
  | .spikeDrop e src => Sys2Proof.Machine.execSpikeDrop e src s
  | .spillSet e src => Sys2Proof.Machine.execSpillSet e src s
  | .layerSet e src => Sys2Proof.Machine.execLayerSet e src s
  | .lossTest e src => Sys2Proof.Machine.execLossTest e src s
  | .lossClear e src => Sys2Proof.Machine.execLossClear e src s
  | .clear e src => Sys2Proof.Machine.execClear e src s
  | .spillDone e => Sys2Proof.Machine.execSpillDone e s
  | .fillBack e => Sys2Proof.Machine.execFillBack e s
  | .applyStep e src => Sys2Proof.Machine.execApplyStep e src s
  | .applyDelta e src => Sys2Proof.Machine.execApplyDelta e src s
  | .fpExchange e src => Sys2Proof.Machine.execFpExchange e src s
  | .fpRecordArrived e => Sys2Proof.Machine.execFpRecordArrived e s
  | .fpTimeout e => Sys2Proof.Machine.execFpTimeout e s
  | .repair e src => Sys2Proof.Machine.execRepair e src s
  | .exportImage e src => Sys2Proof.Machine.execExportImage e src s
  | .importImage e src => Sys2Proof.Machine.execImportImage e src s
  | .updateBegin f => Sys2Proof.Machine.execUpdateBegin f s
  | .chunkStateArrived e => Sys2Proof.Machine.execChunkStateArrived e s
  | .chunkPutAck e => Sys2Proof.Machine.execChunkPutAck e s
  | .jobNop ring src => Sys2Proof.Machine.execJobNop ring src s
  | .connect ring src => Sys2Proof.Machine.execConnect ring src s
  | .disconnect ring src => Sys2Proof.Machine.execDisconnect ring src s
  | .read ring src => Sys2Proof.Machine.execRead ring src s
  | .adminIdentify ring src => Sys2Proof.Machine.execAdminIdentify ring src s
  | .adminGetLogPage ring src => Sys2Proof.Machine.execAdminGetLogPage ring src s
  | .loadSamples ring src => Sys2Proof.Machine.execLoadSamples ring src s
  | .channelOpen ring src => Sys2Proof.Machine.execChannelOpen ring src s
  | .channelClose ring src => Sys2Proof.Machine.execChannelClose ring src s
  | .jobComplete slot => Sys2Proof.Machine.execJobComplete slot s
  | .sampleQueued slot => Sys2Proof.Machine.execSampleQueued slot s
  | .nvmeCompletion ctrl cid status result => Sys2Proof.Machine.execNvmeCompletion ctrl cid status result s
  | .connectionLost ctrl => Sys2Proof.Machine.execConnectionLost ctrl s
  | .reconnectAttempt ctrl ok => Sys2Proof.Machine.execReconnectAttempt ctrl ok s
  | .targetLost ctrl => Sys2Proof.Machine.execTargetLost ctrl s
  | .rdmaWrite ctrl qp key offset data => Sys2Proof.Machine.execRdmaWrite ctrl qp key offset data s
  | .ethFrame p bytes => Sys2Proof.Machine.execEthFrame p bytes s
  | .demuxPacket ch => Sys2Proof.Machine.execDemuxPacket ch s
  | .readerTurn reader units => Sys2Proof.Machine.execReaderTurn reader units s
  | .bondTest e t => Sys2Proof.Machine.execBondTest e t s
  | .crcBurst e t => Sys2Proof.Machine.execCrcBurst e t s
  | .flitCrcFail e bundle => Sys2Proof.Machine.execFlitCrcFail e bundle s
  | .bondCtrlError e bundle tests => Sys2Proof.Machine.execBondCtrlError e bundle tests s
  | .hbmRequestDone who stack channel bank => Sys2Proof.Machine.execHbmRequestDone who stack channel bank s
  | .busMasterEnable on => Sys2Proof.Machine.execBusMasterEnable on s
  | .cxlLinkTrained rate width cxl => Sys2Proof.Machine.execCxlLinkTrained rate width cxl s
  | .standbyPowerOff torn => Sys2Proof.Machine.execStandbyPowerOff torn s
  | .regResp src discover part => Sys2Proof.Machine.execRegResp src discover part s
  | .hbmStackTempRead m t => Sys2Proof.Machine.execHbmStackTempRead m t s
  | .frameRingSpace ch => Sys2Proof.Machine.execFrameRingSpace ch s
  | .resetNAssert => Sys2Proof.Machine.execResetNAssert s
  | .pwrgdFall => Sys2Proof.Machine.execPwrgdFall s
  | .droopStretch => Sys2Proof.Machine.execDroopStretch s
  | .droopStretchEnd => Sys2Proof.Machine.execDroopStretchEnd s
  | .hostLost => Sys2Proof.Machine.execHostLost s
  | .hostLossTimeout => Sys2Proof.Machine.execHostLossTimeout s
  | .thermDrainExpiry => Sys2Proof.Machine.execThermDrainExpiry s
  | .capUnmet => Sys2Proof.Machine.execCapUnmet s
  | .measuredOnly => Sys2Proof.Machine.execMeasuredOnly s
  | .heartbeatSend => Sys2Proof.Machine.execHeartbeatSend s
  | .lastRunWrite => Sys2Proof.Machine.execLastRunWrite s
  | .deferredWriteFlush => Sys2Proof.Machine.execDeferredWriteFlush s
  | .deviceReset => Sys2Proof.Machine.execDeviceReset s
  | .attach => Sys2Proof.Machine.execAttach s
  | .attachForce => Sys2Proof.Machine.execAttachForce s
  | .detach => Sys2Proof.Machine.execDetach s
  | .detachTimeout => Sys2Proof.Machine.execDetachTimeout s
  | .setdasa => Sys2Proof.Machine.execSetdasa s
  | .rstdaa => Sys2Proof.Machine.execRstdaa s
  | .getpid => Sys2Proof.Machine.execGetpid s
  | .getbcr => Sys2Proof.Machine.execGetbcr s
  | .getdcr => Sys2Proof.Machine.execGetdcr s
  | .getstatus => Sys2Proof.Machine.execGetstatus s
  | .enec => Sys2Proof.Machine.execEnec s
  | .disec => Sys2Proof.Machine.execDisec s
  | .getVersion => Sys2Proof.Machine.execGetVersion s
  | .getCapabilities => Sys2Proof.Machine.execGetCapabilities s
  | .negotiateAlgorithms => Sys2Proof.Machine.execNegotiateAlgorithms s
  | .getDigests => Sys2Proof.Machine.execGetDigests s
  | .spdmUnsupported => Sys2Proof.Machine.execSpdmUnsupported s
  | .keepAlive => Sys2Proof.Machine.execKeepAlive s
  | .refclkCxlPresent => Sys2Proof.Machine.execRefclkCxlPresent s
  | .standbyPowerOn => Sys2Proof.Machine.execStandbyPowerOn s

end Sys2Proof.Machine
end

