-- ==== Sys2Proof/WellFormed.lean ====
section
/-!
DEFINITION. Well-formed commands: the operands name something the device has. The meanings do not assume it.
-/
namespace Sys2Proof

/-- The host and the core write registers themselves; a management agent writes with REG_WRITE (R504, R538). -/
def ownPath : Path → Bool
  | .host => true
  | .mgmt => false
  | .core => true

/-- A bed-domain code of R417. -/
def bedCode (d : Nat) : Bool := decide (d < 21)

/-- A bundle of R388, and lanes of it. -/
def BundleTest.wf (t : BundleTest) : Bool := decide (t.bundle.toNat < 180) && decide (t.windows.length ≤ 66) && t.windows.all fun w => decide (w.toNat ≤ 100)

/-- What a READY names exists. -/
def ReadyOf.wf : ReadyOf → Bool
  | .bed d => bedCode d.toNat
  | .forme _ => true

/-- A loop samples all 112 sensors of the formes, the 13 rails and the 64 tickers, each of which runs at 0.9 to 1.1 GHz (R214, R439, R442, R455). -/
def LoopIn.wf (i : LoopIn) : Bool :=
  i.temps.length == 112 && i.rails.length == 13 && i.tickKhz.length == 64 && i.tickKhz.all fun k => Nat.ble 900000 k.toNat && Nat.ble k.toNat 1100000

/-- CNT_SEL0 to CNT_SEL7 of an engine or forme, CNT_SEL0 to CNT_SEL15 of the device (R500). -/
def selWf : CntScope → BitVec 4 → Bool
  | .engine _, i => decide (i.toNat < 8)
  | .forme _, i => decide (i.toNat < 8)
  | .device, _ => true

/-- A clock domain of R407 with a PLL. -/
def clockCode (d : Nat) : Bool := decide (d ≤ 24) && d != 22

/-- What a unit finds lies in a unit of the device. -/
def UnitErr.wf : UnitErr → Bool
  | .ovsWord m w _ => decide (w.toNat < m.words)
  | .reported _ _ _ _ => true
  | .corrected _ => true
  | .correctedWord _ => true
  | .uncorrectable _ => true
  | .cacheLine _ space _ => decide (space.toNat < 3)
  | .spikeRecord _ frame _ => decide (frame.toNat < 16)
  | .galley _ _ _ => true
  | .register _ _ => true
  | .hostLine _ => true

/-- The operands name something the device has. -/
def Instr.wf : Instr → Bool
  | .coldStart _ => true
  | .thermalTrip _ _ => true
  | .clkLockLost domain _ => clockCode domain.toNat
  | .pressLow _ => true
  | .pressRecover _ => true
  | .hostReset _ => true
  | .cxlLinkRecovery _ => true
  | .snpData _ => true
  | .snpInv _ _ => true
  | .snpCur _ => true
  | .cxlCacheResponse _ _ _ _ => true
  | .overseerLoop reads => reads.wf
  | .fastPowerLoop counts => counts.length == 4
  | .leaseExpired _ => true
  | .slackReport _ => true
  | .ovsRestart _ => true
  | .pvidResend _ => true
  | .unitError x => x.wf
  | .engineReset _ => true
  | .formeReset _ => true
  | .quiesceWatchdog _ => true
  | .bedReset domain => bedCode domain.toNat
  | .bedDomainReady domain => domain.wf
  | .rstEngine path _ _ _ => ownPath path
  | .rstForme path _ _ _ => ownPath path
  | .rstBedDomain path _ _ _ => ownPath path
  | .rstDevice path _ _ _ => ownPath path
  | .applyPlatenSplit path _ _ _ => ownPath path
  | .resetStats path _ _ => ownPath path
  | .releaseApply path => ownPath path
  | .releaseSkip path => ownPath path
  | .rngSeedWrite path _ => ownPath path
  | .rearm path _ _ _ _ => ownPath path
  | .doorbell path _ _ _ _ => ownPath path
  | .jobRingDisable path _ _ _ => ownPath path
  | .jobRingPoll _ => true
  | .disable path _ => ownPath path
  | .retrainFull path _ _ => ownPath path
  | .fabRtDataWrite path _ => ownPath path
  | .fabRoleSelWrite path _ => ownPath path
  | .commitRole path => ownPath path
  | .reloadRole path => ownPath path
  | .latch path _ _ => ownPath path
  | .zeroCounters path _ => ownPath path
  | .cntSelWrite path scope idx _ _ => ownPath path && selWf scope idx
  | .impUpdateStart path _ _ _ => ownPath path
  | .impUpdateAbort path => ownPath path
  | .clearStart path _ => ownPath path
  | .msixUnmask _ => true
  | .registerWrite path _ _ _ => ownPath path
  | .flashTemp _ => true
  | .i3cPrivateWrite bytes => !bytes.isEmpty
  | .i3cPrivateRead _ => true
  | .entdaa _ => true
  | .getCertificate _ _ _ => true
  | .challenge _ => true
  | .getMeasurements _ _ => true
  | .dataFrame _ _ _ _ _ => true
  | .controlFrame _ _ _ => true
  | .nak _ _ _ => true
  | .heartbeat _ _ _ _ => true
  | .train _ _ _ _ => true
  | .laneDropout _ _ => true
  | .portDown _ => true
  | .portRetrain _ => true
  | .fabRead _ => true
  | .fabWrite _ => true
  | .fabAtomic _ => true
  | .collData _ => true
  | .collGsum _ => true
  | .a2aRows _ => true
  | .a2aMark _ => true
  | .watch _ => true
  | .inval _ => true
  | .response _ => true
  | .roleRetry _ => true
  | .requestTimeout _ => true
  | .collTimeout _ => true
  | .regRead _ => true
  | .regWriteMsg _ => true
  | .powerLimit _ => true
  | .idAssign _ => true
  | .roleSet _ => true
  | .rtSet _ => true
  | .discover _ => true
  | .moveCopy _ _ => true
  | .copyT _ _ => true
  | .prefetch _ _ => true
  | .set _ _ => true
  | .matmul _ _ => true
  | .matmulBwdPair _ _ => true
  | .galleyEntryFreed _ => true
  | .galleyStuck _ => true
  | .galleyConsume _ => true
  | .operandBlockReady _ _ => true
  | .vectorCopy _ _ => true
  | .add _ _ => true
  | .sub _ _ => true
  | .mul _ _ => true
  | .fma _ _ => true
  | .div _ _ => true
  | .recip _ _ => true
  | .sqrt _ _ => true
  | .rsqrt _ _ => true
  | .exp _ _ => true
  | .log _ _ => true
  | .tanh _ _ => true
  | .sigmoid _ _ => true
  | .gelu _ _ => true
  | .silu _ _ => true
  | .max _ _ => true
  | .min _ _ => true
  | .abs _ _ => true
  | .neg _ _ => true
  | .clamp _ _ => true
  | .cmpEq _ _ => true
  | .cmpLt _ _ => true
  | .cmpLe _ _ => true
  | .select _ _ => true
  | .dropout _ _ => true
  | .iadd _ _ => true
  | .isub _ _ => true
  | .imul _ _ => true
  | .shl _ _ => true
  | .shr _ _ => true
  | .cvtF2i _ _ => true
  | .cvtI2f _ _ => true
  | .redSum _ _ => true
  | .redSumsq _ _ => true
  | .redDot _ _ => true
  | .redMax _ _ => true
  | .redMin _ _ => true
  | .redArgmax _ _ => true
  | .redArgmin _ _ => true
  | .layernormFwd _ _ => true
  | .layernormBwd _ _ => true
  | .rmsnormFwd _ _ => true
  | .rmsnormBwd _ _ => true
  | .softmaxFwd _ _ => true
  | .softmaxBwd _ _ => true
  | .softmaxFwdMm _ _ => true
  | .softmaxBwdMm _ _ => true
  | .xent _ _ => true
  | .quoin _ _ => true
  | .quoinComplete _ => true
  | .wait _ _ => true
  | .waitSatisfied _ => true
  | .waitTimeout _ => true
  | .nop _ _ => true
  | .tdLoad _ _ => true
  | .list _ _ => true
  | .cringSet _ _ => true
  | .linearFwd _ _ => true
  | .linearBwd _ _ => true
  | .attentionFwd _ _ => true
  | .attentionBwd _ _ => true
  | .normFwd _ _ => true
  | .normBwd _ _ => true
  | .xentCall _ _ => true
  | .callPart _ => true
  | .slugComplete _ => true
  | .cringSpace _ => true
  | .put _ _ => true
  | .get _ _ => true
  | .atomic _ _ => true
  | .dispatch _ _ => true
  | .combine _ _ => true
  | .reduceScatter _ _ => true
  | .allGather _ _ => true
  | .allReduce _ _ => true
  | .mgmtSend _ _ => true
  | .writeback _ _ => true
  | .writebackAll _ _ => true
  | .hostDrop _ _ => true
  | .push _ _ => true
  | .pop _ _ => true
  | .spikeDrop _ _ => true
  | .spillSet _ _ => true
  | .layerSet _ _ => true
  | .lossTest _ _ => true
  | .lossClear _ _ => true
  | .clear _ _ => true
  | .spillDone _ => true
  | .fillBack _ => true
  | .applyStep _ _ => true
  | .applyDelta _ _ => true
  | .fpExchange _ _ => true
  | .fpRecordArrived _ => true
  | .fpTimeout _ => true
  | .repair _ _ => true
  | .exportImage _ _ => true
  | .importImage _ _ => true
  | .updateBegin _ => true
  | .chunkStateArrived _ => true
  | .chunkPutAck _ => true
  | .jobNop _ _ => true
  | .connect _ _ => true
  | .disconnect _ _ => true
  | .read _ _ => true
  | .adminIdentify _ _ => true
  | .adminGetLogPage _ _ => true
  | .loadSamples _ _ => true
  | .channelOpen _ _ => true
  | .channelClose _ _ => true
  | .jobComplete _ => true
  | .sampleQueued _ => true
  | .nvmeCompletion _ _ _ _ => true
  | .connectionLost _ => true
  | .reconnectAttempt _ _ => true
  | .targetLost _ => true
  | .rdmaWrite _ _ _ _ _ => true
  | .ethFrame p _ => decide (12 ≤ p.toNat)
  | .demuxPacket _ => true
  | .readerTurn _ _ => true
  | .bondTest _ t => t.wf
  | .crcBurst _ t => t.wf
  | .flitCrcFail _ bundle => decide (bundle.toNat < 180)
  | .bondCtrlError _ bundle tests => decide (bundle.toNat < 180) && tests.all BundleTest.wf
  | .hbmRequestDone who _ _ _ => decide (who.toNat < 68)
  | .busMasterEnable _ => true
  | .cxlLinkTrained _ _ _ => true
  | .standbyPowerOff _ => true
  | .regResp _ _ _ => true
  | .hbmStackTempRead _ _ => true
  | .frameRingSpace _ => true
  | .resetNAssert => true
  | .pwrgdFall => true
  | .droopStretch => true
  | .droopStretchEnd => true
  | .hostLost => true
  | .hostLossTimeout => true
  | .thermDrainExpiry => true
  | .capUnmet => true
  | .measuredOnly => true
  | .heartbeatSend => true
  | .lastRunWrite => true
  | .deferredWriteFlush => true
  | .deviceReset => true
  | .attach => true
  | .attachForce => true
  | .detach => true
  | .detachTimeout => true
  | .setdasa => true
  | .rstdaa => true
  | .getpid => true
  | .getbcr => true
  | .getdcr => true
  | .getstatus => true
  | .enec => true
  | .disec => true
  | .getVersion => true
  | .getCapabilities => true
  | .negotiateAlgorithms => true
  | .getDigests => true
  | .spdmUnsupported => true
  | .keepAlive => true
  | .refclkCxlPresent => true
  | .standbyPowerOn => true

end Sys2Proof
end

