-- ==== Sys2Proof/Safety.lean ====
section
/-!
DEFINITION. What counts as a safe run: well-formed commands wait, memory is in its canonical form, the units are as many as R18 says,
and no step stops.
-/
namespace Sys2Proof.Machine

/-- The machine's own invariant: memory is canonical, and the units (R18), ports (R281), job rings (R354), formes, stacks and rails (R432, R442, R520),
counters (R500) and message vectors (R517) are as many as the device has. -/
def Chip.wf (c : Chip) : Bool :=
  c.mem.wf && c.engines.length == 64 && c.cors.length == 4 && c.fab.ports.length == 16 && c.ds.rings.length == 4 && c.pwr.formes.length == 4 &&
  c.pwr.hbm.length == 16 && c.pwr.refresh2.length == 16 && c.pwr.selfRefresh.length == 16 && c.pwr.rails.length == 13 &&
  c.cnts.forme.length == 4 && c.cnts.engSh.length == 64 && c.cnts.formeSh.length == 4 && c.host.msix.length == 16

/-- The machine's invariant holds, and well-formed commands wait. -/
def State.wf (s : State) : Bool := s.chip.wf && s.pending.all Instr.wf

/-- A run of `k` steps ends in a next state. -/
def Safe (k : Nat) (s : State) : Prop := ∃ t, Sys2Proof.core.run k s = .next t

end Sys2Proof.Machine
end

