-- ==== Sys2Proof/Certificates/Slice0/Obligations.lean ====
section
/-!
DEFINITION. The statements for the provers. `Says.x` is a part of the obligation that names it at the end of the file; every other
statement is an obligation of its own.
-/
namespace Sys2Proof.Machine

/-! ### What the statements share -/

/-- The commands whose meaning acts on the non-volatile storage. -/
def writesBoard : Instr → Bool
  | .coldStart _ => true
  | .overseerLoop _ => true
  | .lastRunWrite => true
  | .deferredWriteFlush => true
  | .standbyPowerOff _ => true
  | _ => false

/-- What fuses that were once as in `f0` still say (R463): a fuse is blown once and never cleared. -/
def FusesKept (f0 : Fuses) (s : State) : Prop :=
  (∀ h, f0.ownerHash = some h → s.board.fuses.ownerHash = some h) ∧ f0.svnMin ≤ s.board.fuses.svnMin ∧
  s.board.fuses.revoke &&& f0.revoke = f0.revoke ∧ (f0.revoke ≠ 0xF → s.board.fuses.revoke ≠ 0xF) ∧ s.board.fuses.lanes = f0.lanes

/-- The command has taken the chip to `c`, and touched neither the storage nor the queue. -/
abbrev withChip (s : State) (c : Chip) : Host.Outcome State Fault Refusal := .next { s with chip := c }

/-- The scope that a counter block of a command names. -/
def toScope : CntScope → Scope
  | .engine e => .engine e.toNat
  | .forme f => .forme f.toNat
  | .device => .device

/-- A write on the path reaches the registers: the host's window decodes from step 1 of the cold start on (R507). -/
abbrev Opens (s : State) (path : Path) : Prop := path = .host → s.chip.windowUp = true

/-- A path whose writes the device's control level lets through: the control cores' own, or any path at EXPERT (R25, R473). -/
def Lets (path : Path) (expert : Bool) : Prop := path = .core ∨ expert = true

end Sys2Proof.Machine

open Sys2Proof Sys2Proof.Machine

/-! ### The machine as a whole -/

/-- A step runs the command at the front of the queue on the queue's rest, and idles on an empty queue (the model's choice, log
entry 1). -/
def Obligations.step_runs_the_front_command : Prop :=
  (∀ (c : Instr) (rest : List Instr) (s : State), step { s with pending := c :: rest } = exec c { s with pending := rest }) ∧
  (∀ s : State, s.pending = [] → step s = .next s)

/-- Every command answers a next state with the same queue: the manual names no event that stops the block. -/
def Obligations.every_command_answers_and_keeps_the_queue : Prop :=
  ∀ (i : Instr) (s : State), ∃ t, exec i s = .next t ∧ t.pending = s.pending

/-- Only five commands touch the imposition flash, the folio store or the fuses. -/
def Obligations.storage_changes_only_by_five_commands : Prop :=
  ∀ (i : Instr) (s t : State), writesBoard i = false → exec i s = .next t → t.board = s.board

/-- Fuses are never unblown: from any state, a step keeps an owner key hash that has been fused, never lowers SVN_MIN, takes no revocation back, leaves
at least one key unrevoked, and leaves the lane fuses (R463). -/
def Obligations.fuses_are_never_unblown : Prop :=
  ∀ (f0 : Fuses) (s t : State), FusesKept f0 s → step s = .next t → FusesKept f0 t

/-- The machine's own invariant (`Chip.wf`): memory stays in its canonical form, and the units, ports, rings, rails and counters are as many as the
manual gives the device (R18, R281, R354, R442, R500, R517, R520). From every state that meets it, with well-formed commands waiting, a step gives a
state that meets it. -/
def Obligations.every_step_keeps_the_machine_invariant : Prop :=
  ∀ s t : State, s.wf = true → step s = .next t → t.wf = true

/-- The state after reset meets the machine's invariant, with no command waiting; no fuse that a device blows is blown (R463). -/
def Obligations.reset_meets_the_invariants : Prop :=
  State.reset.wf = true ∧ State.reset.pending = [] ∧ State.reset.board.fuses.ownerHash = none ∧ State.reset.board.fuses.svnMin = 0 ∧
  State.reset.board.fuses.revoke ≠ 0xF

/-- Memory: writing a byte, a run of bytes or a region keeps the canonical form, a byte written reads back, and every other address
reads as before. -/
def Obligations.memory_writes_read_back_and_keep_the_form : Prop :=
  ∀ (m : Mem), m.wf = true →
    (∀ (a : Nat) (b : Byte), (m.put a b).wf = true ∧ (m.put a b).get a = b ∧ ∀ x, x ≠ a → (m.put a b).get x = m.get x) ∧
    (∀ (a : Nat) (bs : List Byte), (m.write a bs).wf = true ∧
      (∀ i, i < bs.length → (m.write a bs).get (a + i) = bs.getD i 0) ∧
      ∀ x, (x < a ∨ a + bs.length ≤ x) → (m.write a bs).get x = m.get x) ∧
    (∀ (r : Region) (f : Option Nat), (m.fillRegion r f).wf = true ∧
      (∀ x, r.contains x = false → (m.fillRegion r f).get x = m.get x) ∧
      (∀ x, r.contains x = true → (m.fillRegion r f).get x = match f with | none => 0 | some n => Config.freeByte n x))
/-! ### Register writes -/

/-- RNG_SEED takes the seed (R275); PRF_CTL.RESET_STATS clears the statistics (R240); PRF_RELEASE.APPLY clears HOLD, and SKIP ends
every held UPDATE slug with UPDATE_SKIPPED and clears HOLD (R238). -/
def Says.seed_and_proofreader_writes : Prop :=
  ∀ (s : State) (path : Path), Opens s path →
    (∀ v, exec (.rngSeedWrite path v) s = withChip s ({ s.chip with seed := v })) ∧
    (∀ action nf, Lets path s.chip.imp.prfExpert → exec (.resetStats path action nf) s =
      withChip s ({ s.chip with prf := { s.chip.prf with action := action, nfAsSpike := nf, mean := 0, var := 0, n := 0 } })) ∧
    exec (.releaseApply path) s = withChip s ({ s.chip with prf := { s.chip.prf with hold := false } }) ∧
    (s.chip.prf.hold = false → exec (.releaseSkip path) s = .next s) ∧
    (s.chip.prf.hold = true → s.chip.engines.length = 64 →
      ∃ t, exec (.releaseSkip path) s = .next t ∧ t.chip.prf = { s.chip.prf with hold := false } ∧ t.chip.mem = s.chip.mem ∧
        ∀ e, e < 64 → (((s.chip.engine e).qUpdate.map QEntry.id).Nodup) →
          (t.chip.engine e).qUpdate = (s.chip.engine e).qUpdate.filter (fun q => q.began) ∧
          (t.chip.engine e).finishing = (s.chip.engine e).finishing ++
            ((s.chip.engine e).qUpdate.filter fun q => !q.began).map fun q => { entry := { q with began := true }, status := .updateSkipped })

/-- RST_REQ (R415, R423): while no reset is in progress, an accepted request is noted in RST_STATUS and asks for the reset it names; a
request that a busy register does not take, being neither absorbed by a reset in progress nor wider than a requested one, changes nothing. -/
def Says.reset_requests_are_noted : Prop :=
  ∀ (s : State) (path : Path) (target : BitVec 6) (clear force : Bool), Lets path s.chip.imp.rstExpert → Opens s path →
    (s.chip.rst.busy = false →
    ((s.chip.engine target.toNat).retired = false → s.chip.spanBusy 1 target.toNat = false →
      exec (.rstEngine path target clear force) s = withChip s ({ s.chip with rst := { s.chip.rst with
        kind := 1, target := target.toNat, result := 0, wants := s.chip.rst.wants ++ [{ kind := 1, target := target.toNat, busy := true }],
        engines := s.chip.rst.engines ++ [target.toNat] } })) ∧
    (target.toNat < 4 → s.chip.spanBusy 2 target.toNat = false →
      ∃ t, exec (.rstForme path target clear force) s = .next t ∧ t.chip.rst.busy = true ∧ t.chip.rst.kind = 2 ∧
        t.chip.rst.target = target.toNat ∧ t.chip.rst.result = 0 ∧
        t.chip.rst.formes = s.chip.rst.formes ++ [{ forme := target.toNat, forced := force }] ∧
        t.chip.rst.engines = s.chip.rst.engines.filter (fun e => e / 16 != target.toNat) ∧ t.chip.engines = s.chip.engines ∧
        t.chip.mem = s.chip.mem) ∧
    (target.toNat < 21 → s.chip.spanBusy 3 target.toNat = false →
      exec (.rstBedDomain path target clear force) s = withChip s ({ s.chip with rst := { s.chip.rst with
        kind := 3, target := target.toNat, result := 0, wants := s.chip.rst.wants ++ [{ kind := 3, target := target.toNat, busy := false }],
        beds := s.chip.rst.beds ++ [{ code := target.toNat, clear := clear && decide (target.toNat < 16) }] } })) ∧
    (s.chip.spanBusy 4 target.toNat = false →
      ∃ t, exec (.rstDevice path target clear force) s = .next t ∧ t.chip.rst.busy = true ∧ t.chip.rst.kind = 4 ∧ t.chip.rst.result = 0 ∧
        t.chip.rst.device = true ∧ (∀ f, f < 4 → t.chip.rst.formes.any (fun r => r.forme == f) = true) ∧ t.chip.engines = s.chip.engines)) ∧
    (s.chip.rst.busy = true →
    ((s.chip.engine target.toNat).retired = false → s.chip.spanBusy 1 target.toNat = false → exec (.rstEngine path target clear force) s = .next s) ∧
    ((4 ≤ target.toNat ∨ (s.chip.spanBusy 2 target.toNat = false ∧ s.chip.widens 2 target.toNat = false)) →
      exec (.rstForme path target clear force) s = .next s) ∧
    ((21 ≤ target.toNat ∨ s.chip.spanBusy 3 target.toNat = false) → exec (.rstBedDomain path target clear force) s = .next s) ∧
    (s.chip.spanBusy 4 target.toNat = false → s.chip.widens 4 target.toNat = false → exec (.rstDevice path target clear force) s = .next s))

/-- PWR_CTL sets the ceilings, at most 20, and REARM leaves MEASURED_ONLY once 100 windows have agreed (R441, R451). -/
def Says.rearm_sets_ceilings_and_mode : Prop :=
  ∀ (s : State) (path : Path) (c0 c1 c2 c3 : BitVec 5), Lets path s.chip.imp.pwrExpert → Opens s path → s.chip.pwr.formes.length = 4 →
    ∃ t, exec (.rearm path c0 c1 c2 c3) s = .next t ∧
      (t.chip.pwr.formes.map FormePower.ceil) = [min 20 c0.toNat, min 20 c1.toNat, min 20 c2.toNat, min 20 c3.toNat] ∧
      t.chip.pwr.mode = (if s.chip.pwr.mode = .measuredOnly ∧ 100 ≤ s.chip.pwr.agree then .normal else s.chip.pwr.mode) ∧
      t.chip.pwr.leases = s.chip.pwr.leases ∧ t.chip.engines = s.chip.engines ∧ t.chip.mem = s.chip.mem

/-- PLT_SPLIT with APPLY: the requested sizes are taken, and BUSY is set, or ERR where they exceed the slice of 32 MiB (R194). -/
def Says.platen_split_is_asked_for : Prop :=
  ∀ (s : State) (path : Path) (e sc sp : BitVec 6), s.chip.formesUp = true → Opens s path → Lets path s.chip.imp.engExpert →
    (s.chip.engine e.toNat).retired = false → (s.chip.engine e.toNat).split.busy = false →
    exec (.applyPlatenSplit path e sc sp) s = withChip s (s.chip.onEngine e.toNat fun x => { x with split :=
      if 32 < sc.toNat + sp.toNat then { x.split with reqScratch := sc.toNat, reqSpike := sp.toNat, err := true }
      else { x.split with reqScratch := sc.toNat, reqSpike := sp.toNat, busy := true } })

/-- DS_JRINGn_CTL (R354, R355). A DOORBELL on an enabled LOCAL ring re-reads SQ_TAIL and begins new jobs; on a HOST ring it has no
effect. With ENABLE clear an enabled ring takes no new job and its HALTED clears, and a HOST ring's line is pinned no more (it leaves the
line cache as soon as a request can be issued: the model's choice, log entry 92). JOB_RING_POLL reads an enabled LOCAL ring again. A ring that is not enabled takes LOG2 and
SPACE; enabled, it starts at entry 0 (the model's choice, log entry 23), in HOST space with the session in force, if there is one. -/
def Says.job_rings_ring_poll_and_stop : Prop :=
  ∀ (s : State) (path : Path) (n : BitVec 2) (log2 : BitVec 4) (space : BitVec 2), s.chip.formesUp = true → Opens s path →
    ((s.chip.ring n.toNat).enable = true →
    (∀ bs, (s.chip.ring n.toNat).space = 0 → s.chip.readLocal 3 (addrRange ((s.chip.ring n.toNat).base - 128) 8) = .ok bs →
      exec (.doorbell path n log2 space true) s = withChip s (Chip.beginJobs 64 (s.chip.takeLine0 n.toNat (ofBytes bs))) ∧
      exec (.jobRingPoll n) s = withChip s (Chip.beginJobs 64 (s.chip.takeLine0 n.toNat (ofBytes bs)))) ∧
    ((s.chip.ring n.toNat).space = 2 → exec (.doorbell path n log2 space true) s = .next s) ∧
    ((s.chip.ring n.toNat).space ≠ 2 → exec (.jobRingDisable path n log2 space) s = withChip s (s.chip.onJRing n.toNat fun q => { q with enable := false, halted := false })) ∧
    ((s.chip.ring n.toNat).space = 2 → ∃ t, exec (.jobRingDisable path n log2 space) s = .next t ∧
        (t.chip.ring n.toNat) = { s.chip.ring n.toNat with enable := false, halted := false } ∧ t.chip.mem = s.chip.mem ∧
        (s.chip.hostAvail = true → ∀ l, Tab.find? (((s.chip.ring n.toNat).base - 128) / 64) s.chip.host.lines = some l → l.pinned = true →
          Tab.find? (((s.chip.ring n.toNat).base - 128) / 64) t.chip.host.lines = none))) ∧
    ((s.chip.ring n.toNat).enable = false → s.chip.ds.rings.length = 4 →
      exec (.jobRingDisable path n log2 space) s =
        withChip s (s.chip.onJRing n.toNat fun q => { q with log2 := log2.toNat, space := space.toNat, enable := false, halted := false }) ∧
      let fresh (n k : Nat) : JobRing := { s.chip.ring n with
        log2 := log2.toNat, space := 2, enable := true, halted := false, sqHead := 0, cqWritten := 0, sqTail := 0, cqConsumed := 0, session := k }
      (s.chip.host.inForce = false → exec (.doorbell path n log2 2 true) s = withChip s (s.chip.onJRing n.toNat fun _ => fresh n.toNat 0)) ∧
      (s.chip.host.inForce = true → exec (.doorbell path n log2 2 true) s = withChip s
        (Chip.jobDoorbell (Chip.writeJobLine1 (s.chip.onJRing n.toNat fun _ => fresh n.toNat s.chip.host.session) n.toNat)
          (((s.chip.ring n.toNat).base - 128) / 64))))

/-- FAB_PORT_CTL (R282, R296, R299). DISABLE takes a training port down with its frames, and a port that is down stays down. RETRAIN_FULL
clears the lanes mapped out and retrains an up link at four lanes, telling the far end in a TRAIN frame. -/
def Says.port_control_disables_and_retrains : Prop :=
  ∀ (s : State) (path : Path) (p : PortNo), s.chip.formesUp = true → Opens s path → Lets path s.chip.imp.fabExpert → s.chip.fab.ports.length = 16 →
    ((s.chip.port p.toNat).state = .training → exec (.disable path p) s = withChip s ((s.chip.forgetBuffer p.toNat).onPort p.toNat fun q => { q with
      disable := true, state := .down, retrain := false, trained := false, hbSeen := 0, masked := true, retry := [], outq := [] })) ∧
    ((s.chip.port p.toNat).state = .down → exec (.disable path p) s = withChip s (s.chip.onPort p.toNat fun q => { q with
      disable := true })) ∧
    ((s.chip.port p.toNat).state = .up → (s.chip.port p.toNat).width ≤ 4 → ∃ t, exec (.retrainFull path p false) s = .next t ∧
      (t.chip.port p.toNat).badLanes = [] ∧ (t.chip.port p.toNat).width = 4 ∧ (t.chip.port p.toNat).retrain = true ∧
      (t.chip.port p.toNat).disable = false ∧ t.chip.sent.length = s.chip.sent.length + 1 ∧ t.chip.engines = s.chip.engines ∧
      t.chip.mem = s.chip.mem)

/-- The fabric tables (R291, R303, R513). FAB_RT_DATA replaces the selected routing entry less its reserved bits; FAB_ROLE_SEL and
RELOAD_ROLE load the path's snapshot from the selected role; COMMIT_ROLE makes the snapshot the role's entry, and nothing of a path
changes while its ROLE_BUSY is set. -/
def Says.fabric_tables_are_written_through_their_path : Prop :=
  ∀ (s : State) (path : Path), Opens s path →
    (∀ w : BitVec 32, Lets path s.chip.imp.fabExpert → exec (.fabRtDataWrite path w) s = withChip s (Chip.loseRoutes { s.chip with fab := { s.chip.fab with routes := Tab.set (s.chip.pathRegs path).rtSel (w &&& 0x01FFFFFF) s.chip.fab.routes } })) ∧
    (∀ role : BitVec 16, (s.chip.pathRegs path).roleBusy = false → exec (.fabRoleSelWrite path role) s = withChip s (s.chip.onPath path fun r => { r with roleSel := role.toNat, roleSnap := Tab.get 0 s.chip.fab.roles role.toNat })) ∧
    ((s.chip.pathRegs path).roleBusy = false → exec (.reloadRole path) s = withChip s (s.chip.onPath path fun r => { r with roleSnap := Tab.get 0 s.chip.fab.roles r.roleSel })) ∧
    ((s.chip.pathRegs path).roleBusy = false → Lets path s.chip.imp.fabExpert → ∃ t, exec (.commitRole path) s = .next t ∧
      t.chip.fab.roles = Tab.set (s.chip.pathRegs path).roleSel (Chip.roleEntry (s.chip.pathRegs path).roleSnap) s.chip.fab.roles ∧
      t.chip.fab.routes = s.chip.fab.routes ∧ t.chip.engines = s.chip.engines ∧ t.chip.mem = s.chip.mem) ∧
    ((s.chip.pathRegs path).roleBusy = true → ∀ role : BitVec 16,
      exec (.fabRoleSelWrite path role) s = .next s ∧ exec (.reloadRole path) s = .next s ∧ exec (.commitRole path) s = .next s)

/-- The counters (R499, R500). ZERO sets every selectable counter of the scope to zero and keeps its source; a write of CNT_SEL selects
the source and zeroes that counter alone; LATCH of a scope copies its selectable counters to its shadows, which then read LATCHED, and
that of an engine its fixed counters and the counters of its units too. -/
def Says.counters_are_zeroed_selected_and_latched : Prop :=
  ∀ (s : State) (path : Path) (scope : CntScope), s.chip.formesUp = true → Opens s path → s.chip.engines.length = 64 → s.chip.cnts.forme.length = 4 →
    s.chip.cnts.engSh.length = 64 → s.chip.cnts.formeSh.length = 4 →
    (∃ t, exec (.zeroCounters path scope) s = .next t ∧
      (t.chip.selOf (toScope scope)).map SelCnt.value = (s.chip.selOf (toScope scope)).map (fun _ => 0) ∧
      (t.chip.selOf (toScope scope)).map SelCnt.source = (s.chip.selOf (toScope scope)).map SelCnt.source ∧ t.chip.mem = s.chip.mem) ∧
    (∀ (idx : BitVec 4) (source : BitVec 13) (arg : BitVec 16), selWf scope idx = true → idx.toNat < (s.chip.selOf (toScope scope)).length →
      ∃ t k, exec (.cntSelWrite path scope idx source arg) s = .next t ∧ (t.chip.selOf (toScope scope))[idx.toNat]? = some k ∧
        k.value = 0 ∧ k.source = source.toNat ∧ k.arg = arg.toNat ∧
        ∀ j, j ≠ idx.toNat → (t.chip.selOf (toScope scope))[j]? = (s.chip.selOf (toScope scope))[j]?) ∧
    (∃ t, exec (.latch path scope false) s = .next t ∧ (t.chip.shadowsOf (toScope scope)).latched = true ∧
      ((∀ e : EngineNo, scope = .engine e → (s.chip.engine e.toNat).retired = false) → (t.chip.shadowsOf (toScope scope)).sel = (t.chip.selOf (toScope scope)).map SelCnt.value) ∧
      (∀ e : EngineNo, scope = .engine e → (s.chip.engine e.toNat).retired = false →
        let x := s.chip.engine e.toNat
        (t.chip.shadowsOf (toScope scope)).fixed = [x.pacer, x.ticks, x.nan, x.infs] ∧
        (t.chip.shadowsOf (toScope scope)).stall = x.stalls.flatMap fun u => u.cycles ++ [u.idleTicks]) ∧
      t.chip.mem = s.chip.mem)

/-- Updates and clears (R469, R493). START is noted for the overseer's next loop while the unit is idle, and ignored otherwise; ABORT ends
an update that is not COMMITTING with ABORTED. -/
def Says.updates_and_clears_are_asked_for : Prop :=
  ∀ (s : State) (path : Path), Opens s path →
    (∀ (bs cert : Bool) (len : BitVec 32),
      (s.chip.ovs.upd.stage = .idle → exec (.impUpdateStart path bs cert len) s = withChip s { s.chip with ovs := { s.chip.ovs with
        upd := { s.chip.ovs.upd with asked := true, space := b1 bs, cert := cert, len := len.toNat } } }) ∧
      (s.chip.ovs.upd.stage ≠ .idle → exec (.impUpdateStart path bs cert len) s = .next s)) ∧
    ((s.chip.ovs.upd.stage = .copying ∨ s.chip.ovs.upd.stage = .verifying) → ∃ t, exec (.impUpdateAbort path) s = .next t ∧
      t.chip.ovs = { s.chip.ovs with
        upd := { s.chip.ovs.upd with asked := false, stage := .idle, done := true, result := 4, deferred := false, buf := [], certStep := 0 } } ∧
      t.board = s.board) ∧
    (s.chip.ovs.upd.stage = .committing → exec (.impUpdateAbort path) s = .next s) ∧
    (∀ bs : Bool, (s.chip.ovs.clr.stage = .idle → exec (.clearStart path bs) s = withChip s { s.chip with ovs := { s.chip.ovs with
        clr := { s.chip.ovs.clr with asked := true, space := b1 bs } } }) ∧
      (s.chip.ovs.clr.stage ≠ .idle → exec (.clearStart path bs) s = .next s))

/-- Unmasking an MSI-X vector (R327, R517): its mask bit is cleared, and a message that was pending is sent while Bus Master Enable is 1. -/
def Says.msix_unmask_sends_what_was_pending : Prop :=
  ∀ (s : State) (v : BitVec 4), s.chip.windowUp = true → s.chip.host.msix.length = 16 →
    ((s.chip.msixAt v.toNat).pending = false → exec (.msixUnmask v) s = withChip s (s.chip.onHost fun h =>
      { h with msix := modifyAt (fun m => { m with control := 0 }) h.msix v.toNat })) ∧
    ((s.chip.msixAt v.toNat).pending = true → s.chip.host.bme = true → exec (.msixUnmask v) s = withChip s ((s.chip.onHost fun h =>
      { h with msix := modifyAt (fun m => { m with control := 0, pending := false }) h.msix v.toNat }).send
        (.msix v.toNat (s.chip.msixAt v.toNat).addr (s.chip.msixAt v.toNat).data)))

/-- HCTL_ATTACH (R340, R468): while BUSY is 0 a write leaves its operation for the overseer's next loop, but an attach before STATE reads RUNNING is held in
ATTACHING with BUSY = 1; while BUSY is 1 a write is ignored. -/
def Says.attach_operations_wait_for_the_loop : Prop :=
  ∀ s : State, s.chip.windowUp = true →
    (s.chip.host.busy = false →
      (s.chip.ovs.state = .running → exec .attach s = withChip s { s.chip with host := { s.chip.host with attachOp := 1 } } ∧
        exec .attachForce s = withChip s { s.chip with host := { s.chip.host with attachOp := 3 } }) ∧
      (s.chip.ovs.state ≠ .running →
        let held := withChip s { s.chip with host := { s.chip.host with attachOp := 0, state := .attaching, busy := true } }
        exec .attach s = held ∧ exec .attachForce s = held) ∧
      exec .detach s = withChip s { s.chip with host := { s.chip.host with attachOp := 2 } }) ∧
    (s.chip.host.busy = true → exec .attach s = .next s ∧ exec .attachForce s = .next s ∧ exec .detach s = .next s)

/-- Register writes in general (R503 to R505, R507, R509, R473, R474). Before step 1 of the cold start the host's writes reach no register. A write of a size or at an offset that the window does not take, to an
offset that no register has, or to the host's own block by another path changes nothing; EVR_ACK takes a whole write, and RNG_SEED a
half; a host write that the control level locks is refused and recorded as LEVEL_LOCKED, and changes nothing else. -/
def Obligations.register_writes_follow_the_access_rules : Prop :=
  ∀ (s : State) (path : Path) (o : BitVec 16) (size : BitVec 4) (v : W64),
    ((size.toNat ≠ 4 ∧ size.toNat ≠ 8) ∨ (size.toNat = 8 ∧ o.toNat % 8 ≠ 0) ∨ (size.toNat = 4 ∧ o.toNat % 4 ≠ 0) →
      exec (.registerWrite path o size v) s = .next s) ∧
    (regAt (o.toNat / 8 * 8) = none → exec (.registerWrite path o size v) s = .next s) ∧
    (path ≠ .host → hostOnly (o.toNat / 8 * 8) = true → exec (.registerWrite path o size v) s = .next s) ∧
    (s.chip.windowUp = false → exec (.registerWrite .host o size v) s = .next s) ∧
    (Opens s path → exec (.registerWrite path 0x608 8 v) s = withChip s { s.chip with evr := { s.chip.evr with ack := v } }) ∧
    (Opens s path → exec (.registerWrite path 0x580 4 v) s = withChip s { s.chip with
      seed := (s.chip.seed &&& 0xFFFFFFFF00000000#64) ||| (v &&& 0xFFFFFFFF#64) }) ∧
    (∀ r, s.chip.formesUp = true → s.chip.windowUp = true → o.toNat % 8 = 0 → regAt o.toNat = some r → hostOnly o.toNat = false → s.chip.lockedReg .host r v = true →
      ∃ ev, ev.code = evLevelLocked ∧ ev.detail = [BitVec.ofNat 64 o.toNat] ∧
        exec (.registerWrite .host o 8 v) s = withChip s { s.chip with evq := s.chip.evq ++ [ev] })

/-! ### The fabric's links -/

/-- A DATA frame on a live port (R286, R287). One with a valid CRC that is next in LSEQ order and is for this device joins the frames that
wait to be performed, or, carrying a management message, the overseer's queue, and the order moves on; one for another device goes on along
a usable path with one hop less, and holds its receive buffer until it leaves; a stomped one, and on a device without an id one that is no
LINK_LOCAL management message, is discarded in its place in the order (R288, R289); one with a bad CRC, or one beyond a gap, is answered with a NAK that names the LSEQ expected,
and one that has been taken already changes nothing. -/
def Obligations.data_frames_are_taken_in_order : Prop :=
  ∀ (s : State) (p : PortNo) (link : BitVec 64) (thdr : BitVec 256) (payload : List Byte) (trailer : BitVec 64),
    s.chip.formesUp = true → s.chip.portAlive p.toNat = true → fld link 3 0 = ltData → s.chip.fab.ports.length = 16 →
    let good : Prop := fld trailer 31 0 = crc32c (FabFrame.body { link, thdr := some thdr, payload, trailer })
    let expected := (s.chip.port p.toNat).rxSeq
    let nak := s.chip.send (.frame p.toNat (FabFrame.bytes (({ link := mkLink ltNak 0 expected.toNat 0 0 } : FabFrame).seal false)))
    (good → fld link 19 4 = expected.toNat → bit trailer 32 = false → s.chip.fab.idValid = true →
      s.chip.frameTo (THdr.dec thdr) = none → (THdr.dec thdr).opcode ≠ opMgmt →
      ∃ t, exec (.dataFrame p link thdr payload trailer) s = .next t ∧
        t.chip.fab.inbox = s.chip.fab.inbox ++ [{ port := some p.toNat, thdr, payload }] ∧ (t.chip.port p.toNat).rxSeq = expected + 1 ∧
        t.chip.mem = s.chip.mem ∧ t.chip.engines = s.chip.engines) ∧
    (good → fld link 19 4 = expected.toNat → bit trailer 32 = false →
      (s.chip.fab.idValid = true ∨ (THdr.dec thdr).linkLocal = true) → s.chip.frameTo (THdr.dec thdr) = none → (THdr.dec thdr).opcode = opMgmt →
      s.chip.fab.mgmt.length < 1024 →
      ∃ t, exec (.dataFrame p link thdr payload trailer) s = .next t ∧
        t.chip.fab.mgmt = s.chip.fab.mgmt ++ [Chip.mgmtOf p.toNat (THdr.dec thdr) payload] ∧ (t.chip.port p.toNat).rxSeq = expected + 1 ∧
        t.chip.fab.inbox = s.chip.fab.inbox ∧ t.chip.mem = s.chip.mem ∧ t.chip.engines = s.chip.engines) ∧
    (good → fld link 19 4 = expected.toNat →
      (bit trailer 32 = true ∨ (s.chip.fab.idValid = false ∧ ((THdr.dec thdr).linkLocal = false ∨ (THdr.dec thdr).opcode ≠ opMgmt))) →
      ∃ t, exec (.dataFrame p link thdr payload trailer) s = .next t ∧ (t.chip.port p.toNat).rxSeq = expected + 1 ∧
        t.chip.fab.inbox = s.chip.fab.inbox ∧ t.chip.fab.mgmt = s.chip.fab.mgmt ∧ t.chip.mem = s.chip.mem ∧ t.chip.engines = s.chip.engines) ∧
    (∀ dest q dl, good → fld link 19 4 = expected.toNat → bit trailer 32 = false → s.chip.fab.idValid = true →
      s.chip.frameTo (THdr.dec thdr) = some dest → (THdr.dec thdr).hops ≠ 0 →
      let len := (FabFrame.bytes { link, thdr := some thdr, payload, trailer }).length
      let c1 := s.chip.onPort p.toNat fun q => { q with rxSeq := q.rxSeq + 1, rxFrames := q.rxFrames + 1, rxBytes := q.rxBytes + BitVec.ofNat 48 len }
      let c2 := c1.takeAck p.toNat link
      c2.choosePath dest (THdr.dec thdr).vc = some (q, dl) →
      exec (.dataFrame p link thdr payload trailer) s = withChip s (Chip.queueFrame
        (c2.onFab fun f => { f with fwdFrames := modifyAt (bump48 · 1) f.fwdFrames (portForme q) }) q
        { frame := { link := 0, thdr := some ({ THdr.dec thdr with hops := (THdr.dec thdr).hops - 1 } : THdr).enc, payload }, dl,
          via := some p.toNat })) ∧
    (¬ good → (fld link 19 4 ≠ expected.toNat ∨ s.chip.frameTo (THdr.dec thdr) = none) → exec (.dataFrame p link thdr payload trailer) s = withChip s nak) ∧
    (good → fld link 19 4 ≠ expected.toNat → seqBefore (fld link 19 4) expected.toNat = false →
      exec (.dataFrame p link thdr payload trailer) s = withChip s nak) ∧
    (good → fld link 19 4 ≠ expected.toNat → seqBefore (fld link 19 4) expected.toNat = true →
      exec (.dataFrame p link thdr payload trailer) s = .next s)

/-- Acknowledgements (R283, R287). A CONTROL frame returns credits and drops the frames it acknowledges from the retry buffer, and what
may now leave does; a NAK does the same, and the frames still unacknowledged are sent again in order. -/
def Obligations.acknowledgements_and_replays : Prop :=
  ∀ (s : State) (p : PortNo) (link trailer : BitVec 64), s.chip.formesUp = true → s.chip.portAlive p.toNat = true →
    s.chip.fab.ports.length = 16 →
    let keep := (s.chip.port p.toNat).retry.filter fun f => !seqBefore (fld f.link 19 4) (fld link 35 20)
    (Chip.linkOk ltControl link [] trailer = true → exec (.controlFrame p link trailer) s = withChip s (Chip.drainOut (s.chip.onPort p.toNat fun q =>
      { q with retry := keep, nakRun := if keep.length < q.retry.length then 0 else q.nakRun,
               credits := modifyAt (· + fld link 50 39) q.credits (fld link 38 36) }) p.toNat)) ∧
    (Chip.linkOk ltNak link [] trailer = true → (s.chip.port p.toNat).outq = [] → keep ≠ [] → (s.chip.port p.toNat).nakRun < 7 →
      ∃ t, exec (.nak p link trailer) s = .next t ∧ t.chip.sent.length = s.chip.sent.length + keep.length ∧
        (t.chip.port p.toNat).retry.map (fun f => (fld f.link 19 4, f.thdr, f.payload)) = keep.map (fun f => (fld f.link 19 4, f.thdr, f.payload)) ∧
        (t.chip.port p.toNat).replays = (s.chip.port p.toNat).replays + 1 ∧ t.chip.mem = s.chip.mem)

/-- Ports come up and go down (R282, R289, R295, R296). A HEARTBEAT acknowledges and returns credits like any
frame and records the peer; the second of the device's domain on a trained port brings it up; one of another domain takes a training port
down with DOMAIN_ERR. A TRAIN frame settles the width and trains a training
port, and ends the retrain of one that is up; a lane that drops out of an up link is mapped out, and the link retrains at the width the lanes allow, and no wider than it was; a port that is down and not
disabled begins to train. -/
def Says.ports_train_and_come_up : Prop :=
  ∀ (s : State) (p : PortNo) (link : BitVec 64) (payload : BitVec 256) (trailer : BitVec 64), s.chip.formesUp = true →
    s.chip.fab.ports.length = 16 →
    (s.chip.portAlive p.toNat = true → Chip.linkOk ltHeartbeat link (toBytes 32 payload.toNat) trailer = true →
      (fld payload 31 16 = s.chip.fab.domainId → (s.chip.port p.toNat).state = .training → 1 ≤ (s.chip.port p.toNat).hbSeen →
        exec (.heartbeat p link payload trailer) s = withChip s (Chip.drainOut ((s.chip.takeAck p.toNat link).onPort p.toNat fun q =>
          { q with peerId := fld payload 15 0, peerPort := fld payload 35 32, hbSeen := q.hbSeen + 1, state := .up, masked := false }) p.toNat)) ∧
      (fld payload 31 16 = s.chip.fab.domainId → ((s.chip.port p.toNat).state = .up ∨ (s.chip.port p.toNat).hbSeen = 0) →
        exec (.heartbeat p link payload trailer) s = withChip s ((s.chip.takeAck p.toNat link).onPort p.toNat fun q =>
          { q with peerId := fld payload 15 0, peerPort := fld payload 35 32, hbSeen := q.hbSeen + 1 })) ∧
      (fld payload 31 16 ≠ s.chip.fab.domainId → (s.chip.port p.toNat).state = .training → ∃ t,
        exec (.heartbeat p link payload trailer) s = .next t ∧ (t.chip.port p.toNat).state = .down ∧ (t.chip.port p.toNat).domainErr = true ∧
        (t.chip.port p.toNat).peerId = fld payload 15 0 ∧ (t.chip.port p.toNat).peerPort = fld payload 35 32 ∧ t.chip.mem = s.chip.mem)) ∧
    (Chip.linkOk ltTrain link (toBytes 32 payload.toNat) trailer = true → (s.chip.port p.toNat).disable = false →
      (s.chip.port p.toNat).state = .training →
      let w := min (soundWidth (s.chip.port p.toNat).badLanes) (lanesOfCode (fld payload 37 36))
      w ≠ 0 → ∃ t, exec (.train p link payload trailer) s = .next t ∧ (t.chip.port p.toNat).trained = true ∧ (t.chip.port p.toNat).width = w ∧
        (t.chip.port p.toNat).state = .training ∧ t.chip.mem = s.chip.mem) ∧
    (Chip.linkOk ltTrain link (toBytes 32 payload.toNat) trailer = true → (s.chip.port p.toNat).disable = false →
      (s.chip.port p.toNat).state = .up →
      let w := min (soundWidth (s.chip.port p.toNat).badLanes) (lanesOfCode (fld payload 37 36))
      w ≠ 0 → ∃ t, exec (.train p link payload trailer) s = .next t ∧ (t.chip.port p.toNat).retrain = false ∧ (t.chip.port p.toNat).width = w ∧
        (t.chip.port p.toNat).state = .up ∧ t.chip.mem = s.chip.mem) ∧
    (∀ lane : BitVec 2, (s.chip.port p.toNat).state = .up →
      let bad := if (s.chip.port p.toNat).badLanes.contains lane.toNat then (s.chip.port p.toNat).badLanes
        else (s.chip.port p.toNat).badLanes ++ [lane.toNat]
      let w := min (soundWidth bad) (s.chip.port p.toNat).width
      w ≠ 0 → ∃ t, exec (.laneDropout p lane) s = .next t ∧ (t.chip.port p.toNat).badLanes = bad ∧
        (t.chip.port p.toNat).width = w ∧ (t.chip.port p.toNat).retrain = true ∧ (t.chip.port p.toNat).state = .up ∧
        t.chip.mem = s.chip.mem) ∧
    ((s.chip.port p.toNat).state = .down → (s.chip.port p.toNat).disable = false → soundWidth (s.chip.port p.toNat).badLanes ≠ 0 →
      ∃ t, exec (.portRetrain p) s = .next t ∧ (t.chip.port p.toNat).state = .training ∧ (t.chip.port p.toNat).trained = false ∧
        (t.chip.port p.toNat).width = soundWidth (s.chip.port p.toNat).badLanes ∧ t.chip.sent.length = s.chip.sent.length + 1 ∧
        t.chip.mem = s.chip.mem) ∧
    ((s.chip.port p.toNat).state = .training → exec (.portDown p) s = withChip s ((s.chip.forgetBuffer p.toNat).onPort p.toNat fun q => { q with
      state := .down, retrain := false, trained := false, hbSeen := 0, masked := true, retry := [], outq := [] }))

/-- HEARTBEAT_SEND (R295): every port that carries link traffic sends one HEARTBEAT and counts it, and no other port changes. -/
def Says.heartbeats_leave_on_every_live_port : Prop :=
  ∀ s : State, s.chip.formesUp = true → s.chip.fab.ports.length = 16 → ∃ t, exec .heartbeatSend s = .next t ∧
    (∀ p, p < 16 → t.chip.port p = if s.chip.portAlive p then { s.chip.port p with hbSeq := (s.chip.port p).hbSeq + 1 } else s.chip.port p) ∧
    t.chip.sent.length = s.chip.sent.length + ((List.range 16).filter fun p => s.chip.portAlive p).length ∧
    t.chip.engines = s.chip.engines ∧ t.chip.mem = s.chip.mem

/-! ### Frames that this device performs -/

/-- READ, WRITE and ATOMIC frames (R27, R301, R304, R307). A frame that is accepted and whose range this device serves is performed: a READ
is answered with the bytes as software reads them; a WRITE leaves its payload there and every other byte as it was; an ATOMIC leaves the new
word, or the old one where its comparison fails, and every other byte as it was. -/
def Obligations.fabric_requests_are_performed : Prop :=
  ∀ (s : State) (src : FrameSrc) (h : THdr) (bytes : List Byte) (c1 : Chip) (a : Nat), s.chip.formesUp = true →
    (s.chip.takeFrame src opRead = (some (h, bytes), c1) → c1.acceptAt h (4 * h.lenW) = .ok a → c1.rangeError a (4 * h.lenW) = none →
      c1.ueAt (addrRange a (4 * h.lenW)) = none →
      exec (.fabRead src) s = withChip s (c1.respond h .success 0 ((addrRange a (4 * h.lenW)).map c1.seen))) ∧
    (s.chip.takeFrame src opWrite = (some (h, bytes), c1) → c1.acceptAt h bytes.length = .ok a → c1.rangeError a bytes.length = none →
      c1.uePartial (addrRange a bytes.length) = none → ∃ t, exec (.fabWrite src) s = .next t ∧
      (∀ i, i < bytes.length → t.chip.mem.get (a + i) = bytes.getD i 0) ∧
      (∀ x, x < a ∨ a + bytes.length ≤ x → t.chip.mem.get x = s.chip.mem.get x)) ∧
    (s.chip.takeFrame src opAtomic = (some (h, bytes), c1) → c1.acceptAt h (Chip.atomicSize h.atype) = .ok a → h.atype ≤ 3 →
      a % Chip.atomicSize h.atype = 0 → c1.rangeError a (Chip.atomicSize h.atype) = none →
      c1.ueAt (addrRange a (Chip.atomicSize h.atype)) = none → ∃ t, exec (.fabAtomic src) s = .next t ∧
      (∀ i, i < Chip.atomicSize h.atype → t.chip.mem.get (a + i) =
        if h.atype = 3 ∧ c1.seenWord a (Chip.atomicSize h.atype) ≠ h.arg then s.chip.mem.get (a + i)
        else (toBytes (Chip.atomicSize h.atype)
          (Chip.atomicNew h.atype (c1.seenWord a (Chip.atomicSize h.atype)) h.arg (ofBytes bytes))).getD i 0) ∧
      (∀ x, x < a ∨ a + Chip.atomicSize h.atype ≤ x → t.chip.mem.get x = s.chip.mem.get x))

/-- Frames of collectives (R308 to R310). A frame whose call this device has not issued waits for it; one that differs from the call in
progress, in its count or its signature, ends that call with COLL_MISMATCH; a contribution to the call in progress joins the leader's values, a group's sums join the owner's, and the call goes as far as what has arrived allows. Where the
payload carries the signature is the model's choice (log entry 18). -/
def Says.collective_frames_join_their_call : Prop :=
  ∀ (s : State) (src : FrameSrc) (h : THdr) (bytes : List Byte) (c1 : Chip), s.chip.formesUp = true →
    let c2 := c1.respond h .success 0 []
    let signed : Bool := nbits h.arg 48 1 == 1
    let body := if signed then bytes.drop 8 else bytes
    let words (n : Nat) : List Nat := (List.range (body.length / n)).map fun i => ofBytes ((body.drop (n * i)).take n)
    let fits (k : Coll) : Prop := nbits h.addr 32 16 = k.count % p2 16 ∧ (signed = true → ofBytes (bytes.take 8) = k.sig.toNat)
    let differs (i : Instr) : Prop := ∀ k ent, c2.fab.colls.find? (fun k => k.tag == h.addr % p2 32) = some k → ¬ fits k →
      c2.callEntry k.engine k.entry = some ent → exec i s = withChip s (c2.failColl k.engine ent .collMismatch)
    (s.chip.takeFrame src opCollData = (some (h, bytes), c1) → differs (.collData src) ∧
      (c2.tagOwner (h.addr % p2 32) = none → exec (.collData src) s = withChip s (c2.holdFrame (h.addr % p2 32) (nbits h.addr 32 16) h bytes)) ∧
      (∀ k, c2.fab.colls.find? (fun k => k.tag == h.addr % p2 32) = some k → fits k → nbits h.arg 49 1 = 0 →
        exec (.collData src) s = withChip s (Chip.advanceColl (c2.onColl k.engine k.entry fun _ => Chip.addContrib k (nbits h.arg 0 32)
          (nbits h.arg 32 16) ((words (Chip.contribBytes k.int)).map (BitVec.ofNat 64))) k.engine k.entry)) ∧
      (∀ k ent a dst x, c2.fab.colls.find? (fun k => k.tag == h.addr % p2 32) = some k → fits k → nbits h.arg 49 1 = 1 →
        c2.callEntry k.engine k.entry = some ent → checkColl ent = .ok (a, dst, x) →
        exec (.collData src) s = withChip s (Chip.advanceColl (c2.onColl k.engine k.entry fun _ => { k with
          gathered := ((words (Chip.gatherBytes dst.fmt)).zipIdx (nbits h.arg 0 32)).foldl (fun t (v, i) => Tab.set i v t) k.gathered })
          k.engine k.entry))) ∧
    (s.chip.takeFrame src opCollGsum = (some (h, bytes), c1) → differs (.collGsum src) ∧
      (c2.tagOwner (h.addr % p2 32) = none → exec (.collGsum src) s = withChip s (c2.holdFrame (h.addr % p2 32) (nbits h.addr 32 16) h bytes)) ∧
      (∀ k, c2.fab.colls.find? (fun k => k.tag == h.addr % p2 32) = some k → fits k →
        exec (.collGsum src) s = withChip s (Chip.advanceColl (c2.onColl k.engine k.entry fun _ => Chip.addSums k (nbits h.arg 0 32)
          (nbits h.arg 32 16) ((words 16).map (BitVec.ofNat 128))) k.engine k.entry)))

/-- Frames of all-to-alls (R301, R313 to R315). A row for a role that this device holds is stored in the addressed slot, its tag at the
tag's place, and no other byte changes; a row for this device's own address is stored there; one that differs from the call in progress ends
that call with COLL_MISMATCH (R308). A mark writes its header entry, and waits for its call where this device has not issued it. What the frames carry besides is the model's choice (log entry 19). -/
def Says.all_to_all_frames_are_stored : Prop :=
  ∀ (s : State) (src : FrameSrc) (h : THdr) (bytes : List Byte) (c1 : Chip) (a : Nat), s.chip.formesUp = true →
    let row := bytes.drop 32
    let tag := bytes.take 8
    let word (i : Nat) : Nat := ofBytes ((bytes.drop (8 * i)).take 8)
    let call := nbits (word 3) 0 32
    let fits (k : A2A) : Prop := nbits (word 3) 32 16 = k.count % p2 16 ∧ word 2 = k.sig.toNat
    let agrees : Prop := c1.tagOwner call = none ∨ ∃ k, c1.fab.a2as.find? (fun k => k.tag == call) = some k ∧ fits k
    let ent := Tab.get 0 c1.fab.roles h.dst
    let tagAt := fld ent 111 64 + h.arg
    (s.chip.takeFrame src opA2aRows = (some (h, bytes), c1) → c1.acceptAt h row.length = .ok a → h.role = true →
      word 1 ≤ p2 (fld ent 40 35) → h.arg + 8 ≤ p2 (fld ent 40 35) →
      c1.rangeError a row.length = none → c1.rangeError tagAt 8 = none → c1.ue = [] → agrees →
      ∃ t, exec (.a2aRows src) s = .next t ∧ (∀ i, i < tag.length → t.chip.mem.get (tagAt + i) = tag.getD i 0) ∧
        (∀ i, i < row.length → (a + i < tagAt ∨ tagAt + tag.length ≤ a + i) → t.chip.mem.get (a + i) = row.getD i 0) ∧
        (∀ x, (x < a ∨ a + row.length ≤ x) → (x < tagAt ∨ tagAt + tag.length ≤ x) → t.chip.mem.get x = s.chip.mem.get x)) ∧
    (s.chip.takeFrame src opA2aRows = (some (h, bytes), c1) → c1.acceptAt h row.length = .ok a → h.role = false →
      c1.rangeError a row.length = none → c1.ue = [] → agrees →
      ∃ t, exec (.a2aRows src) s = .next t ∧ (∀ i, i < row.length → t.chip.mem.get (a + i) = row.getD i 0) ∧
        (∀ x, x < a ∨ a + row.length ≤ x → t.chip.mem.get x = s.chip.mem.get x)) ∧
    (∀ k q, s.chip.takeFrame src opA2aRows = (some (h, bytes), c1) → c1.acceptAt h row.length = .ok a → h.role = false →
      c1.rangeError a row.length = none → c1.ue = [] → c1.fab.a2as.find? (fun k => k.tag == call) = some k → ¬ fits k →
      c1.fab.colls.all (fun k => k.tag != call) = true → c1.callEntry k.engine k.entry = some q → s.chip.engines.length = 64 → k.engine < 64 →
      ∃ t, exec (.a2aRows src) s = .next t ∧ t.chip.a2aOf k.engine q.id = none ∧
        ∃ f ∈ (t.chip.engine k.engine).finishing, f.entry.id = q.id ∧ f.status = .collMismatch) ∧
    (s.chip.takeFrame src opA2aMark = (some (h, bytes), c1) → c1.acceptAt h 16 = .ok a → h.role = true →
      ofBytes ((bytes.drop 32).take 8) ≤ p2 (fld ent 40 35) → c1.rangeError a 16 = none → c1.ue = [] → 16 ≤ bytes.length →
      c1.tagOwner (nbits h.arg 0 32) = none →
      ∃ t, exec (.a2aMark src) s = .next t ∧ (∀ i, i < 16 → t.chip.mem.get (a + i) = bytes.getD i 0) ∧
        (∀ x, x < a ∨ a + 16 ≤ x → t.chip.mem.get x = s.chip.mem.get x) ∧
        t.chip.fab.early = if c1.pastCall (nbits h.arg 0 32) (nbits h.arg 32 16) || s.chip.fab.early.contains { thdr := h.enc, payload := bytes }
          then s.chip.fab.early else s.chip.fab.early ++ [{ thdr := h.enc, payload := bytes }])

/-- Watches (R203). An accepted WATCH registers its sender for the line, or withdraws it; an INVAL makes the named engine's TRACKED copy of
the line TRACKED_INVALID, keeps every other line, and is answered. -/
def Says.watches_and_invalidations : Prop :=
  ∀ (s : State) (src : FrameSrc) (h : THdr) (bytes : List Byte) (c1 : Chip), s.chip.formesUp = true →
    (∀ a, s.chip.takeFrame src opWatch = (some (h, bytes), c1) → c1.acceptAt h 128 = .ok a → c1.rangeError (a / 128 * 128) 128 = none →
      let w : Watch := { line := a / 128, device := h.src, unit := h.unit }
      let others := c1.fab.watches.filter fun x => x != w
      (h.arg % 2 = 0 → exec (.watch src) s = withChip s (Chip.respond { c1 with fab := { c1.fab with watches := others } } h .success 0 [])) ∧
      (h.arg % 2 = 1 → (others.map (·.line)).eraseDups.length < Chip.watchLimit →
        exec (.watch src) s = withChip s (Chip.respond { c1 with fab := { c1.fab with watches := others ++ [w] } } h .success 0 []))) ∧
    (s.chip.takeFrame src opInval = (some (h, bytes), c1) → s.chip.engines.length = 64 → ∃ t, exec (.inval src) s = .next t ∧
      (t.chip.engine (h.arg % 64)).cache = (s.chip.engine (h.arg % 64)).cache.map (fun l =>
        if l.space.toNat = 1 ∧ l.addr = h.src * p2 48 + h.addr / 128 * 128 ∧ l.state = .tracked then { l with state := .trackedInvalid } else l) ∧
      (∀ e, e < 64 → e ≠ h.arg % 64 → t.chip.engine e = s.chip.engine e) ∧ t.chip.mem = s.chip.mem)

/-- The request `r` of the chip `c` has ended in `t` with a status and data: whoever waits for it finds them in its slot, and a request that
nobody waits for any more, or a fabric unit's own, is gone. Memory is as in `c`. -/
def RequestEnds (c : Chip) (r : FabReq) (st : Status) (data : List Byte) (t : State) : Prop :=
  t.chip.mem = c.mem ∧
  (r.orphan = false → r.engine ≠ Chip.fabUnit → ∃ q ∈ t.chip.fab.reqs, q.num = r.num ∧ q.engine = r.engine ∧ q.thdr = r.thdr ∧ q.answer = some (st, data)) ∧
  ((r.orphan = true ∨ r.engine = Chip.fabUnit) → ∀ q ∈ t.chip.fab.reqs, q.num = r.num → q.thdr ≠ r.thdr)

/-- Answers to this device's requests (R298, R302, R306, R311). A RESPONSE gives its status and data to the request of its TXN, and a request
whose timeout has passed gets LINK_LOST; a request that waits for its backoff delay is sent again, counted, until its retries are used up;
a collective or all-to-all that waits too long ends with COLL_TIMEOUT. -/
def Says.requests_are_answered_resent_or_lost : Prop :=
  ∀ (s : State), s.chip.formesUp = true →
    (∀ (src : FrameSrc) (h : THdr) (bytes : List Byte) (c1 : Chip) (r : FabReq), s.chip.takeFrame src opResponse = (some (h, bytes), c1) →
      c1.fab.reqs.find? (fun r => r.txn == h.txn && !r.queued && r.answer.isNone && fld r.thdr 7 0 != opMgmt) = some r →
      (¬(h.status = Status.roleMoved.code ∧ bit r.thdr 11 = true) →
        ∃ t, exec (.response src) s = .next t ∧ RequestEnds c1 r (Chip.Status.ofCode h.status) bytes t) ∧
      (h.status = Status.roleMoved.code → bit r.thdr 11 = true →
        let ent := Tab.get 0 c1.fab.roles (fld r.thdr 31 16)
        (c1.imp.fabRoleRetries ≤ r.resends → ∃ t, exec (.response src) s = .next t ∧ RequestEnds c1 r .roleMoved [] t ∧
          t.chip.fab.roleMoved = bump48 c1.fab.roleMoved 1) ∧
        (r.resends < c1.imp.fabRoleRetries → (nbits h.arg 32 1 = 0 ∨ Chip.newerEpoch (nbits h.arg 16 16) (fld ent 31 16) = false) →
          exec (.response src) s = withChip s ((c1.onFab fun b => { b with roleMoved := bump48 b.roleMoved 1 }).onReq r.num fun q => { q with delayed := true })) ∧
        (r.resends < c1.imp.fabRoleRetries → nbits h.arg 32 1 = 1 → Chip.newerEpoch (nbits h.arg 16 16) (fld ent 31 16) = true → r.orphan = false →
          r.engine ≠ Chip.fabUnit → ∃ t q, exec (.response src) s = .next t ∧ q ∈ t.chip.fab.reqs ∧ q.num = r.num ∧ q.resends = r.resends + 1 ∧
            q.delayed = false ∧ fld (Tab.get 0 t.chip.fab.roles (fld r.thdr 31 16)) 31 0 = nbits h.arg 0 32 ∧ t.chip.mem = c1.mem))) ∧
    (∀ (txn : BitVec 16) (r : FabReq), s.chip.fab.reqs.find? (fun r => r.txn == txn.toNat && !r.queued && r.answer.isNone) = some r →
      ∃ t, exec (.requestTimeout txn) s = .next t ∧ RequestEnds s.chip r .linkLost [] t) ∧
    (∀ (txn : BitVec 16) (r : FabReq), s.chip.fab.reqs.find? (fun r => r.txn == txn.toNat && !r.queued && r.delayed && r.answer.isNone) = some r →
      (s.chip.imp.fabRoleRetries ≤ r.resends → ∃ t, exec (.roleRetry txn) s = .next t ∧ RequestEnds s.chip r .roleMoved [] t) ∧
      (r.resends < s.chip.imp.fabRoleRetries → r.orphan = false → r.engine ≠ Chip.fabUnit → ∃ t q, exec (.roleRetry txn) s = .next t ∧
        q ∈ t.chip.fab.reqs ∧ q.num = r.num ∧ q.resends = r.resends + 1 ∧ q.delayed = false ∧ t.chip.engines = s.chip.engines ∧
        t.chip.mem = s.chip.mem)) ∧
    (∀ (e : EngineNo) (ent : QEntry) (rest : List QEntry), s.chip.engines.length = 64 → (s.chip.engine e.toNat).qFabric = ent :: rest →
      ((s.chip.collOf e.toNat ent.id).isSome = true ∨ s.chip.fab.a2as.any (fun k => k.engine == e.toNat && k.entry == ent.id) = true) →
      ∃ t, exec (.collTimeout e) s = .next t ∧ (t.chip.engine e.toNat).finishing =
          (s.chip.engine e.toNat).finishing ++ [{ entry := { ent with began := true }, status := .collTimeout }] ∧
        (t.chip.engine e.toNat).qFabric = (s.chip.engine e.toNat).qFabric.filter (fun q => q.id != ent.id) ∧
        t.chip.collOf e.toNat ent.id = none)

/-! ### The management plane -/

/-- The rows of management messages: MTYPE, part number, and the row. -/
def mgmtRows : List (Nat × Nat × (MsgSrc → Instr)) :=
  [(mtRegRead, 0, .regRead), (mtRegWrite, 0, .regWriteMsg), (mtPowerLimit, 0, .powerLimit), (mtIdAssign, 0, .idAssign), (mtRoleSet, 0, .roleSet),
   (mtRtSet, 0, .rtSet), (mtDiscover, 0, .discover), (mtRegResp, 0, fun m => .regResp m false 0)] ++
  (List.range 3).map fun k => (mtDiscoverResp, k, fun m => .regResp m true (BitVec.ofNat 2 k))

/-- The message the overseer takes next, its type `mt`, and the chip without it (R321). -/
def TakesNext (s : State) (mt : Nat) (m : MgmtMsg) (c1 : Chip) : Prop :=
  s.chip.formesUp = true ∧ s.chip.nextMgmt = some m ∧ m.mtype = mt ∧ c1 = s.chip.onFab fun f => { f with mgmt := f.mgmt.erase m }

/-- An answer to a message has a way to its sender: the link that it came over, or a path of the fabric (R289, R297, R320). -/
def CanAnswer (c : Chip) (m : MgmtMsg) : Prop := m.linkLocal = true ∨ (c.fab.idValid = true ∧ c.unreachable m.src = false)

/-- The last thing that left the device is a management message to `m`'s sender, and neither memory nor engines changed. -/
def Answers (s t : State) (m : MgmtMsg) (mtype : Nat) (payload : BitVec 512) : Prop :=
  t.chip.sent.head? = some (.mgmt m.src mtype m.seq 0 payload) ∧ t.chip.mem = s.chip.mem ∧ t.chip.engines = s.chip.engines

/-- A management message that arrives joins the overseer's queue, oldest first; a queue of 1,024 messages drops and counts it, but keeps
the latest POWER_LIMIT of each sender (R319, R321). -/
def Says.management_messages_are_queued : Prop :=
  ∀ (s : State) (row : Nat × Nat × (MsgSrc → Instr)) (src : DeviceId) (port : PortNo) (ll : Bool) (seq : BitVec 16) (payload : BitVec 512),
    row ∈ mgmtRows → s.chip.formesUp = true → (ll = true ∨ s.chip.fab.idValid = true) →
    let m : MgmtMsg := { src := src.toNat, port := port.toNat, linkLocal := ll, mtype := row.1, seq := seq.toNat, part := row.2.1, payload }
    (s.chip.fab.mgmt.length < 1024 → exec (row.2.2 (.arrives src port ll seq payload)) s =
      withChip s (s.chip.onFab fun f => { f with mgmt := f.mgmt ++ [m] })) ∧
    (1024 ≤ s.chip.fab.mgmt.length → row.1 ≠ mtPowerLimit → exec (row.2.2 (.arrives src port ll seq payload)) s =
      withChip s (s.chip.onFab fun f => { f with mgmtDropped := f.mgmtDropped + 1 })) ∧
    (1024 ≤ s.chip.fab.mgmt.length → row.1 = mtPowerLimit → exec (row.2.2 (.arrives src port ll seq payload)) s =
      withChip s (s.chip.onFab fun f =>
        { f with mgmt := (f.mgmt.filter fun x => !(x.mtype == mtPowerLimit && x.src == src.toNat)) ++ [m] }))

/-- REG_READ and REG_WRITE (R320, R538). A read answers with the register's value and writes none; a write of a whole register by an
authorised sender acts as a register write and answers SUCCESS, PLACE_ILLEGAL where the write is ignored or its mask or offset is not one
of a register's, or LEVEL_LOCKED; one from another sender is refused, recorded, and writes nothing. An answer leaves where there is a way
to the sender. -/
def Says.register_messages_read_and_write : Prop :=
  ∀ (s : State) (m : MgmtMsg) (c1 : Chip), CanAnswer s.chip m →
    (TakesNext s mtRegRead m c1 →
      (fld m.payload 31 0 % 8 = 0 → ∃ t, exec (.regRead .queued) s = .next t ∧ t.chip.fab.mgmt.length ≤ s.chip.fab.mgmt.length ∧
        Answers s t m mtRegResp (BitVec.ofNat 512 (c1.readSlot s.board .mgmt (fld m.payload 31 0)).toNat)) ∧
      (fld m.payload 31 0 % 8 ≠ 0 → ∃ t, exec (.regRead .queued) s = .next t ∧
        Answers s t m mtRegResp (BitVec.ofNat 512 (Status.placeIllegal.code <<< 64)))) ∧
    (TakesNext s mtRegWrite m c1 → s.chip.imp.fabManagers.contains m.src = true →
      let o := fld m.payload 31 0
      let v : W64 := BitVec.ofNat 64 (fld m.payload 95 32)
      let refused (st : Status) : Prop := ∃ t, exec (.regWriteMsg .queued) s = .next t ∧ Answers s t m mtRegResp (BitVec.ofNat 512 (st.code <<< 64)) ∧
        t.chip.seed = s.chip.seed ∧ t.chip.imp = s.chip.imp ∧ t.chip.fab.roles = s.chip.fab.roles ∧ t.chip.fab.routes = s.chip.fab.routes
      ((Chip.maskHalf (fld m.payload 103 96) = none ∨ o % 8 ≠ 0) → refused .placeIllegal) ∧
      (∀ h, Chip.maskHalf (fld m.payload 103 96) = some h → o % 8 = 0 →
        (∀ c2, c1.writeAt .mgmt o h v = (.done, c2) → exec (.regWriteMsg .queued) s = withChip s (c2.regResp m .success 0)) ∧
        (∀ c2, c1.writeAt .mgmt o h v = (.locked, c2) → exec (.regWriteMsg .queued) s = withChip s (c2.regResp m .levelLocked 0)) ∧
        (hostOnly o = true → refused .placeIllegal) ∧
        (hostOnly o = false → regAt o = none → refused .success) ∧
        (∀ r wide, regAt o = some r → r.wo = some wide → h ≠ .full → (wide = true ∨ h = .high) → refused .placeIllegal) ∧
        (o = 0x580 → h = .full → ∃ t, exec (.regWriteMsg .queued) s = .next t ∧ Answers s t m mtRegResp 0 ∧ t.chip.seed = v))) ∧
    (TakesNext s mtRegWrite m c1 → s.chip.imp.fabManagers.contains m.src = false → ∃ t, exec (.regWriteMsg .queued) s = .next t ∧
      Answers s t m mtRegResp (BitVec.ofNat 512 (Status.mgmtRefused.code <<< 64)) ∧ t.chip.evq.length = s.chip.evq.length + 1 ∧
      t.chip.seed = s.chip.seed ∧ t.chip.imp = s.chip.imp ∧ t.chip.fab.roles = s.chip.fab.roles ∧ t.chip.fab.routes = s.chip.fab.routes)

/-- The other messages (R289, R303, R306, R320, R428, R538). From an authorised sender, POWER_LIMIT makes the sender's lease, or renews it without
beginning its report interval anew (R431), and answers with the clamped limit and the limit now in force; ID_ASSIGN gives a waiting device its id over a link, and is refused otherwise;
ROLE_SET and RT_SET write their table entries. One of these from another sender is refused with MGMT_REFUSED and recorded. DISCOVER is
answered in three parts; a REG_RESP, or the last part of a DISCOVER_RESP, ends the MGMT_SEND it answers with SUCCESS. -/
def Says.fabric_and_power_messages_are_acted_on : Prop :=
  ∀ (s : State) (m : MgmtMsg) (c1 : Chip), CanAnswer s.chip m →
    (s.chip.imp.fabManagers.contains m.src = false → ∀ row ∈ mgmtRows, authorisedType row.1 = true → TakesNext s row.1 m c1 →
      ∃ t ev, exec (row.2.2 .queued) s = .next t ∧ Answers s t m mtRegResp (BitVec.ofNat 512 (Status.mgmtRefused.code <<< 64)) ∧
        t.chip.evq = s.chip.evq ++ [ev] ∧ ev.code = Status.mgmtRefused.code ∧ ev.sev = .note ∧ t.chip.pwr = s.chip.pwr ∧
        t.chip.fab.deviceId = s.chip.fab.deviceId ∧ t.chip.fab.roles = s.chip.fab.roles ∧ t.chip.fab.routes = s.chip.fab.routes) ∧
    (s.chip.imp.fabManagers.contains m.src = true →
      (TakesNext s mtPowerLimit m c1 → ∃ t pl, exec (.powerLimit .queued) s = .next t ∧ Answers s t m 0x11 pl ∧
        fld pl 15 0 = clampW (fld m.payload 15 0) ∧ fld pl 31 16 = t.chip.pwr.eff ∧
        (let limit := clampW (fld m.payload 15 0)
         let old : Lease := (s.chip.liveLeases.find? fun l => l.sender == m.src).getD { sender := m.src, limit, left := none, slackAt := s.chip.pwr.slack }
         t.chip.pwr.leases = s.chip.pwr.leases.filter (fun l => l.sender != m.src) ++ [
          { old with limit, left := if fld m.payload 31 16 = 0 then none else some (fld m.payload 31 16), slack := fld m.payload 47 32 }]) ∧
        t.chip.pwr.eff = min (clampW ((t.chip.rackLimit).getD s.chip.imp.pwrDefaultW)) (clampW s.chip.pwr.localCeil)) ∧
      (TakesNext s mtIdAssign m c1 → m.linkLocal = true → s.chip.fab.idValid = false → s.chip.fab.assigned = true →
        ∃ t, exec (.idAssign .queued) s = .next t ∧ t.chip.fab.deviceId = fld m.payload 15 0 ∧ t.chip.fab.idValid = true ∧
          Answers s t m mtRegResp 0) ∧
      (TakesNext s mtIdAssign m c1 → (m.linkLocal = false ∨ s.chip.fab.idValid = true ∨ s.chip.fab.assigned = false) →
        ∃ t, exec (.idAssign .queued) s = .next t ∧ t.chip.fab.deviceId = s.chip.fab.deviceId ∧ t.chip.fab.idValid = s.chip.fab.idValid ∧
          Answers s t m mtRegResp (BitVec.ofNat 512 (Status.mgmtRefused.code <<< 64))) ∧
      (TakesNext s mtRoleSet m c1 → s.chip.fab.held = [] → ∃ t, exec (.roleSet .queued) s = .next t ∧
        t.chip.fab.roles = Tab.set (fld m.payload 15 0) (Chip.roleEntry (BitVec.ofNat 128 (fld m.payload 143 16))) s.chip.fab.roles ∧
        Answers s t m mtRegResp 0) ∧
      (TakesNext s mtRtSet m c1 →
        let routes := Tab.set (fld m.payload 15 0) (BitVec.ofNat 32 (fld m.payload 47 16) &&& 0x01FFFFFF) s.chip.fab.routes
        ∃ t, exec (.rtSet .queued) s = .next t ∧ t.chip.fab.routes = routes ∧
          (CanAnswer (s.chip.onFab fun f => { f with routes }) m → t.chip.sent.head? = some (.mgmt m.src mtRegResp m.seq 0 0)))) ∧
    (TakesNext s mtDiscover m c1 → ∃ t a b d, exec (.discover .queued) s = .next t ∧
      (t.chip.sent.filter fun x => match x with | .mgmt dst mt seq _ _ => dst == m.src && mt == mtDiscoverResp && seq == m.seq | _ => false).take 3 =
        [.mgmt m.src mtDiscoverResp m.seq 2 d, .mgmt m.src mtDiscoverResp m.seq 1 b, .mgmt m.src mtDiscoverResp m.seq 0 a] ∧
      fld a 63 0 = s.chip.fabIdReg.toNat ∧ t.chip.mem = s.chip.mem ∧ t.chip.engines = s.chip.engines) ∧
    (∀ r k, (TakesNext s mtRegResp m c1 ∨ TakesNext s mtDiscoverResp m c1) →
      s.chip.fab.reqs.find? (fun r => fld r.thdr 7 0 == opMgmt && !r.queued && r.answer.isNone && fld r.thdr 31 16 == m.src &&
        fld r.thdr 215 200 == m.seq) = some r →
      let bs := r.payload.drop 64 ++ toBytes 64 m.payload.toNat
      let row : Instr := .regResp .queued (m.mtype == mtDiscoverResp) k
      (m.mtype = mtDiscoverResp → m.part < 2 → exec row s = withChip s (c1.onReq r.num fun r => { r with payload := r.payload.take 64 ++ bs })) ∧
      ((m.mtype = mtRegResp ∨ 2 ≤ m.part) → r.orphan = false → r.engine ≠ Chip.fabUnit → ∃ t q, exec row s = .next t ∧ q ∈ t.chip.fab.reqs ∧
        q.num = r.num ∧ q.answer = some (.success, bs)))

/-- The I3C target (R472). A dynamic address is taken by ENTDAA or SETDASA where there is none, and given up by RSTDAA; ENEC and DISEC allow
and forbid in-band interrupts; a private write sets the index, and one that covers both bytes of FLASH_TEMP is a fresh report; a private read
returns bytes from the index, which moves on. That the index moves on after a write is the model's choice (log entry 34); the contents of
GETSTATUS are free (log entry 7). -/
def Says.i3c_target_answers : Prop :=
  ∀ (s : State), s.chip.standby = true →
    let i3c (g : I3c → I3c) : Host.Outcome State Fault Refusal := withChip s { s.chip with ovs := { s.chip.ovs with i3c := g s.chip.ovs.i3c } }
    let sends (bs : List Byte) : Host.Outcome State Fault Refusal := withChip s { s.chip with sent := .i3c bs :: s.chip.sent }
    (∀ a : BitVec 7, s.chip.ovs.i3c.dyn = none → exec (.entdaa a) s = i3c fun x => { x with dyn := some a }) ∧
    (s.chip.ovs.i3c.dyn = none → exec .setdasa s = i3c fun x => { x with dyn := some 0x4C }) ∧
    exec .rstdaa s = (i3c fun x => { x with dyn := none }) ∧ exec .enec s = (i3c fun x => { x with ibi := true }) ∧
    exec .disec s = (i3c fun x => { x with ibi := false }) ∧
    (s.chip.ovs.i3c.dyn.isSome = true →
      (∀ a : BitVec 7, exec (.entdaa a) s = .next s) ∧ exec .setdasa s = .next s ∧
      exec .getpid s = sends (toBytes 6 Config.i3cPid.toNat).reverse ∧ exec .getbcr s = sends [Config.i3cBcr] ∧ exec .getdcr s = sends [Config.i3cDcr] ∧
      exec .getstatus s = withChip s { s.chip with free := s.chip.free + 1, sent := .i3c (toBytes 2 (Config.freeBits s.chip.free 0)) :: s.chip.sent } ∧
      (∀ t : BitVec 16, exec (.flashTemp t) s = i3c fun x => { x with index := 0x1A, flashTemp := t.toNat % 4096, flashAge := some 0 }) ∧
      (∀ (b : Byte) (data : List Byte), data.length ≤ 256 → (data[(0x18 + 256 - b.toNat) % 256]? = none ∨ data[(0x19 + 256 - b.toNat) % 256]? = none) →
        exec (.i3cPrivateWrite (b :: data)) s = i3c fun x => { x with index := b + BitVec.ofNat 8 data.length }) ∧
      (∀ n : BitVec 9, ∃ bs, bs.length = n.toNat ∧ exec (.i3cPrivateRead n) s = withChip s { s.chip with
          sent := .i3c bs :: s.chip.sent
          ovs := { s.chip.ovs with i3c := { s.chip.ovs.i3c with index := s.chip.ovs.i3c.index + BitVec.ofNat 8 n.toNat } } } ∧
        (n = 8 → s.chip.ovs.i3c.index = 0 → bs = toBytes 8 (s.chip.ovsStatus s.board).toNat) ∧
        (n = 16 → s.chip.ovs.i3c.index = 0x20 → bs = toBytes 16 s.chip.evr.latest.toNat)))

/-- The SPDM responder (R349, R464, R465). Version, capabilities, algorithms, digests, certificates, a challenge and measurements are
answered in that order, slot 0's from the certificate chain in the flash; another slot, or slot 0 while its chain is invalid, is an invalid
request. The order is the outside standard's (log entry 33); signatures and nonces are free (log entry 7). -/
def Says.spdm_requests_are_answered : Prop :=
  ∀ (s : State), s.chip.standby = true → s.chip.host.l0 = true → s.chip.ovs.state ≠ .rom →
    let sends (c : Chip) (r : SpdmResp) : Host.Outcome State Fault Refusal := withChip s { c with sent := .spdm r :: c.sent }
    let on (x : Spdm) : Chip := { s.chip with ovs := { s.chip.ovs with spdm := x } }
    let sp := s.chip.ovs.spdm
    let chain := certChain s.board.flash
    exec .getVersion s = sends (on { version := true }) .version ∧
    (sp.version = true → exec .getCapabilities s = sends (on { sp with caps := true }) (.capabilities 17)) ∧
    (sp.caps = true → exec .negotiateAlgorithms s = sends (on { sp with algs := true }) .algorithms) ∧
    exec .spdmUnsupported s = sends s.chip .unsupportedRequest ∧
    (sp.version = false → exec .getCapabilities s = sends s.chip .unexpectedRequest) ∧
    (sp.algs = true →
      (s.chip.ovs.certOk = true → exec .getDigests s = sends s.chip (.digests (some (sha512 chain)))) ∧
      (s.chip.ovs.certOk = false → exec .getDigests s = sends s.chip (.digests none)) ∧
      (∀ offset length : BitVec 16, s.chip.ovs.certOk = true → offset.toNat < chain.length →
        exec (.getCertificate 0 offset length) s = sends s.chip (.certificate ((chain.drop offset.toNat).take length.toNat)
          (chain.length - offset.toNat - min length.toNat (chain.length - offset.toNat)))) ∧
      (∀ (slot : BitVec 4) (offset length : BitVec 16), (slot ≠ 0 ∨ s.chip.ovs.certOk = false) →
        exec (.getCertificate slot offset length) s = sends s.chip .invalidRequest ∧ exec (.challenge slot) s = sends s.chip .invalidRequest) ∧
      (s.chip.ovs.certOk = true → ∃ nonce sig, exec (.challenge 0) s =
        sends { s.chip with free := s.chip.free + 1 } (.challengeAuth (sha512 chain) nonce sig)) ∧
      (∀ signed : Bool, ∃ nonce sig, sig.isSome = signed ∧ exec (.getMeasurements 1 signed) s =
        sends { s.chip with free := s.chip.free + 1 } (.measurements 6 [{ index := 1, kind := .rom, value := Config.romHash }] nonce sig)) ∧
      (∀ signed : Bool, ∃ nonce sig, exec (.getMeasurements 0 signed) s =
        sends { s.chip with free := s.chip.free + 1 } (.measurements 6 [] nonce sig)) ∧
      (∀ signed : Bool, exec (.getMeasurements 7 signed) s = sends s.chip .invalidRequest))

/-! ### The host's link and its sessions -/

/-- Snoops and responses (R328 to R330). A MODIFIED line's data goes to the host, and a line that the device does not hold is answered
without. SNP_CUR leaves the line's state, SNP_DATA leaves it SHARED, and SNP_INV takes it out, and the TRACKED platen copies of a line that
is downgraded or taken out become TRACKED_INVALID. A response to waiting requests answers them and installs the line, EXCLUSIVE where one of
them wants to write, unless it is poisoned or no way is free for it; a line that the device has made MODIFIED meanwhile keeps its data, which
answers them. A response is taken whatever Bus Master Enable is by then (R327). -/
def Says.snoops_and_responses : Prop :=
  ∀ (s : State) (line : BitVec 46),
    let k := line.toNat
    let counted := s.chip.onHost fun h => { h with snoops := bump48 h.snoops 1 }
    (s.chip.host.l0 = true →
      (Tab.find? k s.chip.host.lines = none →
        exec (.snpCur line) s = withChip s (counted.send (.snoopMiss k)) ∧ exec (.snpData line) s = withChip s ((counted.send (.snoopMiss k)).disown k) ∧
        (s.chip.ringsAt k = [] → (∀ r, (s.chip.ring r).space ≠ 2) → exec (.snpInv line none) s = withChip s ((counted.send (.snoopMiss k)).disown k))) ∧
      (∀ l, Tab.find? k s.chip.host.lines = some l → l.state = .modified → l.pinned = false →
        let held := (counted.hostPut k l).send (.snoopData k l.data)
        exec (.snpCur line) s = withChip s held ∧
        exec (.snpData line) s =
          withChip s (((held.disown k).onHost fun h => { h with lines := Tab.set k { l with state := .shared } h.lines }).killHostCopies k) ∧
        (s.chip.ringsAt k = [] → (∀ r, (s.chip.ring r).space ≠ 2) → exec (.snpInv line none) s =
          withChip s (((held.disown k).onHost fun h => { h with lines := Tab.erase k h.lines }).killHostCopies k)))) ∧
    (∀ (d : BitVec 512) (excl : Bool), s.chip.host.l0 = true → s.chip.host.reqs.any (fun r => r.line == k && r.answer.isNone) = true →
      let answered (d : BitVec 512) (poison : Bool) := Chip.releaseReqs (s.chip.onHost fun h =>
        { h with reqs := h.reqs.map fun r => if r.line = k ∧ r.answer.isNone then { r with answer := some (d, poison) } else r })
      let own : Bool := s.chip.host.reqs.any fun r => r.line == k && r.answer.isNone && r.kind != .rdShared
      (∀ l, Tab.find? k s.chip.host.lines = some l → l.state = .modified → ∀ poison,
        exec (.cxlCacheResponse line d excl poison) s = withChip s ((answered l.data l.ue).line1Owned k)) ∧
      ((∀ l, Tab.find? k s.chip.host.lines = some l → l.state ≠ .modified) →
        exec (.cxlCacheResponse line d excl true) s = withChip s ((answered d true).line1Owned k) ∧
        exec (.cxlCacheResponse line d excl false) s =
          let taken := (answered d false).hostMemSet k d
          withChip s ((if (answered d false).mayInstall k then taken.hostInstall k (if own || excl then .exclusive else .shared) d
                       else taken).line1Owned k)))

/-- A doorbell (R330, R335, R336): the host's store to line 0 of a control block reaches host memory, the line is pinned again with what
was stored, and its engine's ring has the tail that the host wrote. -/
def Says.a_store_to_a_control_block_is_its_doorbell : Prop :=
  ∀ (s : State) (line : BitVec 46) (d : BitVec 512) (e : Nat) (r : HostRing), s.chip.hostAvail = true → e < 64 → s.chip.engines.length = 64 →
    (s.chip.engine e).ring = some r → s.chip.ringsAt line.toNat = [e] → (∀ j, (s.chip.ring j).space ≠ 2) → r.halted = false →
    (s.chip.engine e).halted = false → s.chip.host.poison.Nodup →
    (∀ q ∈ s.chip.host.reqs, q.line = line.toNat → q.kind = .rdShared ∨ q.answer = none) → s.chip.admits e = false → fld d 79 64 = r.resumeSeen.toNat →
    ∃ t l, exec (.snpInv line (some (BitVec.allOnes 64, d))) s = .next t ∧ Tab.find? line.toNat t.chip.host.lines = some l ∧
      l.pinned = true ∧ l.state = .shared ∧ l.data = d ∧
      (t.chip.engine e).ring = some { r with sqTail := BitVec.ofNat 32 (fld d 31 0), cqConsumed := BitVec.ofNat 32 (fld d 63 32),
                                             resume := BitVec.ofNat 16 (fld d 79 64) } ∧ t.chip.mem = s.chip.mem

/-- Nothing waits for the host's link: requests are held back by Bus Master Enable, or no ring lies in host memory. -/
def HostQuiet (c : Chip) : Prop :=
  c.host.bme = false ∨ (c.host.unpins = [] ∧ (∀ e, e < 64 → (c.engine e).ring = none) ∧ ∀ j, j < 4 → (c.ring j).space ≠ 2 ∧ (c.ring j).due = false)

/-- The CXL link (R323, R326, R327, R345, R524). It trains to the highest rate and width that both ends share, with CXL.cache when CXL was
selected at 32 GT/s or more; recovery takes it out of L0 and back with nothing lost, and a change of rate or width is recorded; Bus Master
Enable off holds requests and messages back; the reference clock starts CD-CXL. -/
def Says.the_host_link_trains_and_recovers : Prop :=
  ∀ (s : State) (rate : BitVec 8) (width : BitVec 5),
    let r := Chip.linkRate rate.toNat
    let w := Chip.linkWidth width.toNat
    (∀ cxl : Bool, s.chip.host.training = true → s.chip.host.rate = 0 → HostQuiet s.chip → exec (.cxlLinkTrained rate width cxl) s = withChip s
      { s.chip with host := { s.chip.host with l0 := true, rate := r, width := w, cxl,
                                               cxlCache := cxl && s.chip.host.cfg.cacheCapable && decide (32 ≤ r) } }) ∧
    (∀ cxl : Bool, s.chip.host.training = false → exec (.cxlLinkTrained rate width cxl) s = withChip s s.chip.jobRepin) ∧
    exec (.cxlLinkRecovery .leaves) s = withChip s { s.chip with host := { s.chip.host with l0 := false } } ∧
    (s.chip.host.training = true → s.chip.host.rate ≠ 0 → s.chip.host.rate = r → s.chip.host.width = w → HostQuiet s.chip → exec (.cxlLinkRecovery (.returns rate width)) s = withChip s
      { s.chip with host := { s.chip.host with l0 := true, cxlCache := s.chip.host.cxl && s.chip.host.cfg.cacheCapable && decide (32 ≤ r) } }) ∧
    (s.chip.host.training = true → s.chip.host.rate ≠ 0 → (s.chip.host.rate ≠ r ∨ s.chip.host.width ≠ w) → HostQuiet s.chip → ∃ t ev, exec (.cxlLinkRecovery (.returns rate width)) s = .next t ∧
      t.chip.host = { s.chip.host with l0 := true, rate := r, width := w,
                                        cxlCache := s.chip.host.cxl && s.chip.host.cfg.cacheCapable && decide (32 ≤ r) } ∧
      t.chip.evq = s.chip.evq ++ [ev] ∧ ev.code = evCxlLinkChanged ∧ ev.sev = .corrected ∧ t.chip.engines = s.chip.engines) ∧
    exec (.busMasterEnable false) s = withChip s { s.chip with host := { s.chip.host with bme := false } } ∧
    (s.chip.host.unpins = [] → (∀ e, e < 64 → (s.chip.engine e).ring = none) → (∀ j, j < 4 → (s.chip.ring j).space ≠ 2 ∧ (s.chip.ring j).due = false) →
      s.chip.host.msix.all (fun m => !m.pending) = true →
      exec (.busMasterEnable true) s = withChip s { s.chip with host := { s.chip.host with bme := true } }) ∧
    (s.chip.waitCold = false → s.chip.standby = true → exec .refclkCxlPresent s = withChip s { s.chip with
      host := { s.chip.host with refclk := true, training := true }, rst := { s.chip.rst with locked := s.chip.rst.locked ||| (1#25 <<< 21) } }) ∧
    (s.chip.waitCold = true ∨ s.chip.standby = false → exec .refclkCxlPresent s = withChip s { s.chip with host := { s.chip.host with refclk := true } })

/-- No slug and no CALL of an engine touches host memory. -/
def HostIdle (c : Chip) : Prop :=
  ∀ e, e < 64 → (∀ ent ∈ (c.engine e).entries, Chip.touchesHost ent = false) ∧ (∀ ent, (c.engine e).core = some ent → Chip.touchesHost ent = false) ∧
    ∀ k ∈ (c.engine e).calls, Chip.touchesHost k.entry = false

/-- The end of a session by loss (R343, R346, R347). The line cache is emptied, its lost writes and lines counted, the rings are gone, the
port is DETACHED with LOST set, and the loss is recorded; a host reset does the same and returns the port to its reset state, keeping RESULT,
and the link where the reset is not of the link; the 50 ms timeout is the same loss; a detach that runs out ends the slugs that still touch the
host with HOST_LOST. -/
def Says.host_losses_end_the_session : Prop :=
  ∀ (s : State), s.chip.engines.length = 64 →
    (HostIdle s.chip → s.chip.host.inForce = true →
      (∃ t ev, exec .hostLost s = .next t ∧ t.chip.host.inForce = false ∧ t.chip.host.lines = [] ∧ t.chip.host.reqs = [] ∧
        t.chip.host.state = .detached ∧ t.chip.host.lost = true ∧ t.chip.host.session = s.chip.host.session ∧
        t.chip.host.linesDiscarded = bump48 s.chip.host.linesDiscarded (s.chip.host.lines.filter fun p => p.2.state == .modified).length ∧
        t.chip.host.mem = s.chip.host.mem ∧ (∀ e, (t.chip.engine e).ring = none) ∧ t.chip.evq = s.chip.evq ++ [ev] ∧ ev.code = evHostLost ∧
        ev.sev = .deferred ∧ t.chip.mem = s.chip.mem) ∧
      (s.chip.host.l0 = false → exec .hostLossTimeout s = exec .hostLost s) ∧
      (∀ kind, ∃ t, exec (.hostReset kind) s = .next t ∧ t.chip.host.inForce = false ∧ t.chip.host.lost = true ∧ t.chip.host.bme = false ∧
        t.chip.host.state = .detached ∧ t.chip.host.result = s.chip.host.result ∧ t.chip.host.msix = List.replicate 16 {} ∧ t.chip.host.attachAddr = 0 ∧
        (t.chip.host.l0 = true → (kind = .flr ∨ kind = .cxl) ∧ s.chip.host.l0 = true) ∧ t.chip.evr.irqEn = false ∧ t.chip.mem = s.chip.mem)) ∧
    (s.chip.host.state = .detaching → (∀ e, e < 64 → (∀ ent, (s.chip.engine e).core = some ent → Chip.touchesHost ent = false) ∧
        ∀ k ∈ (s.chip.engine e).calls, Chip.touchesHost k.entry = false) → ∃ t, exec .detachTimeout s = .next t ∧ ∀ e, e < 64 → ∀ ent ∈ (s.chip.engine e).qMove,
      slugClass ent.slug = 0 → Chip.touchesHost ent = true → ent ∉ (t.chip.engine e).qMove ∧
        ∃ f ∈ (t.chip.engine e).finishing, f.entry.id = ent.id ∧ f.status = .hostLost)

/-! ### Slugs: what their statements share -/

/-- A slug row runs `ent` on the chip `c1`: the formes have started, `c1` is the chip once the slug has been issued and admission has
proceeded (R156 to R158, R191), and `ent` is the head of the unit's queue, which may run now (R95, R159) in its own session (R344). -/
def Runs (s : State) (e : EngineNo) (src : SlugSrc) (q : QId) (c1 : Chip) (ent : QEntry) : Prop :=
  s.chip.formesUp = true ∧ s.chip.engines.length = 64 ∧ c1 = (s.chip.issueFirst e.toNat src.word).pumpE e.toNat ∧
  (∃ q0, c1.readyHead e.toNat q = some q0 ∧ ent = { q0 with began := true }) ∧ c1.sessionError ent = none

/-- The slug ends with SUCCESS on the chip `c`, and admission proceeds into the room it leaves. -/
def endsOn (s : State) (e : EngineNo) (q : QId) (ent : QEntry) (d : Nat) (c : Chip) : Host.Outcome State Fault Refusal :=
  withChip s ((c.endSlug e.toNat q ent .success d).pumpE e.toNat)

/-- The slug waits for its completion record, with a status and a DETAIL. -/
def Completed (t : State) (e : EngineNo) (ent : QEntry) (st : Status) (d : Nat) : Prop :=
  ∃ f ∈ (t.chip.engine e.toNat).finishing, f.entry.id = ent.id ∧ f.entry.began = true ∧ f.status = st ∧ f.detail = d % p2 48

/-- The slug has made no request yet, and has none outstanding. -/
def Untouched (c : Chip) (e : EngineNo) (ent : QEntry) : Prop :=
  ent.prog = {} ∧ (∀ r ∈ c.fab.reqs, r.engine = e.toNat → r.entry ≠ ent.id) ∧ ∀ r ∈ c.host.reqs, r.engine = e.toNat → r.entry ≠ ent.id

/-- No unit of memory is bad, and the bytes of a TD's elements are LOCAL, accessible, and read from memory itself: outside HBM, or by an
engine whose platen holds no cache. -/
def PlainRead (c : Chip) (e : EngineNo) (t : TD) : Prop :=
  c.ue = [] ∧ t.space = .lcl ∧ ∀ i, i < t.count → ∀ b ∈ addrRange (t.addr (coordsOf t.ext i)) t.elemBytes,
    c.accessError (e.toNat / 16) b = none ∧
    (hbmTop ≤ b ∨ ((c.engine e.toNat).cache = [] ∧ (c.engine e.toNat).sets = 0))

/-- The TD's elements are LOCAL, and every one may be written. -/
def PlainWrite (c : Chip) (e : EngineNo) (t : TD) : Prop :=
  c.ue = [] ∧ t.space = .lcl ∧ ∀ i, i < t.count → c.destError e.toNat t (t.addr (coordsOf t.ext i)) = none

/-- No earlier slug of the engine holds a block or slot of these uses back (R95). -/
def Reached (c : Chip) (e : EngineNo) (ent : QEntry) (u : Uses) : Prop := (c.engine e.toNat).blockedAt e.toNat ent u = false

/-- Memory after element writes: each byte written holds what was written last, and every other byte is as before. -/
def MemAfter (c : Chip) (ws : List Chip.EWrite) (t : State) : Prop :=
  ∀ a, t.chip.mem.get a = (cellAt a (Chip.cellsOf c.mem.get ws)).getD (c.mem.get a)

/-- The end of a slug, and admission (R158, R180, R336). Unless a retry of PATH_RESET is left to it, a slug that ends leaves its queue and
waits for its record. Admission appends to the queues and to the slugs that have ended, and changes no memory, no other engine but its
host cache lines, no unit, and of the fabric's requests only the mark that a completed fence leaves on what a PREFETCH has read (R205). -/
def Obligations.slugs_end_and_admission_goes_on : Prop :=
  ∀ (c : Chip) (e : Nat) (q : QId), c.engines.length = 64 → e < 64 →
    (∀ (ent : QEntry) (st : Status) (d : Nat), st ≠ .pathReset →
      let c2 := c.endSlug e q ent st d
      (c2.engine e).queue q = ((c.engine e).queue q).filter (fun p => p.id != ent.id) ∧
      (c2.engine e).finishing = (c.engine e).finishing ++ [{ entry := { ent with began := true }, status := st, detail := d % p2 48 }] ∧
      (∀ q2, q2 ≠ q → (c2.engine e).queue q2 = (c.engine e).queue q2) ∧ (∀ x, x ≠ e → c2.engine x = c.engine x) ∧
      c2.mem = c.mem ∧ c2.ue = c.ue ∧ c2.evq = c.evq ∧ c2.prf = c.prf ∧ c2.cors = c.cors ∧ c2.ds = c.ds ∧ c2.sent = c.sent) ∧
    (let c2 := c.pumpE e;
      c2.mem = c.mem ∧ (∃ l, (c2.engine e).queue q = (c.engine e).queue q ++ l) ∧ (∃ l, (c2.engine e).finishing = (c.engine e).finishing ++ l) ∧
      (c2.engine e).vregs = (c.engine e).vregs ∧ (c2.engine e).spike = (c.engine e).spike ∧ (c2.engine e).split = (c.engine e).split ∧
      (c2.engine e).loss = (c.engine e).loss ∧
      (∀ x, x ≠ e → { c2.engine x with cache := [] } = { c.engine x with cache := [] }) ∧
      c2.ue = c.ue ∧ c2.dir = c.dir ∧ { c2.fab with reqs := c.fab.reqs } = c.fab ∧
      c2.fab.reqs.map (fun r => { r with stale := false }) = c.fab.reqs.map (fun r => { r with stale := false }) ∧ c2.prf = c.prf ∧ c2.cors = c.cors ∧ c2.ds = c.ds ∧ c2.imp = c.imp ∧
      c2.rst = c.rst ∧ c2.ovs = c.ovs ∧ c2.evr = c.evr ∧ c2.cnts = c.cnts ∧ c2.wear = c.wear ∧ c2.bonds = c.bonds ∧ c2.seed = c.seed) ∧
    (c.admits e = false → c.pumpE e = c)

/-! ### Movement -/

/-- COPY and COPY_T (R52, R94, R95, R172), none of whose elements an earlier slug holds back. Of LOCAL tensors, every element of the source is
converted and stored at its place in the destination, for COPY_T with its first two coordinates swapped, later writes over earlier ones; no
other byte changes, and the slug completes with its count of elements. Of others, once their bytes are there, the elements are converted and
stored in order, and the slug completes when the writes it sent to other devices have their RESPONSEs. -/
def Obligations.copies_convert_every_element : Prop :=
  ∀ (s : State) (e : EngineNo) (src : SlugSrc) (c1 : Chip) (ent : QEntry) (a d : TD) (transposed : Bool), Runs s e src .move c1 ent →
    isMove (if transposed then 1 else 0) ent.slug = true → Untouched c1 e ent →
    (if transposed then checkCopyT c1.selfId e.toNat ent else checkCopy c1.selfId ent) = .ok (a, d) →
    (∀ i, i < a.count → Reached c1 e ent (ent.moveUsesAt e.toNat i)) →
    let perm : List Nat → List Nat := if transposed then swap2 else id
    let row := if transposed then Instr.copyT e src else Instr.moveCopy e src
    (PlainRead c1 e a → PlainWrite c1 e d → ∃ t, exec row s = .next t ∧ Completed t e ent .success a.count ∧
      MemAfter c1 ((List.range a.count).map fun i =>
        { addr := d.addr (perm (coordsOf a.ext i)), fmt := d.fmt, high := d.high (perm (coordsOf a.ext i)),
          bits := convElem a.fmt d.fmt (moveCtl ent (some a) d (indexOf d.ext (perm (coordsOf a.ext i)))) (c1.rawAt a (coordsOf a.ext i)) }) t) ∧
    (∀ ent1 c2 ws c3 c4, c1.gather e.toNat .move ent [a] [d] 256 e.toNat = (.ready, ent1, c2) →
      moveElems e.toNat ent1 a d perm (List.range a.count) c2 [] = (ws, none, c3) → c3.storeElems e.toNat ent1 d 256 e.toNat ws = (.ok (), c4) →
      let ent2 := { ent1 with prog := { ent1.prog with phase := 1, done0 := ws.length, drain := none } }
      let c5 := c4.countStores e.toNat ent1.layer ws
      (c5.fabWaiting e.toNat ent.id = true → exec row s = withChip s ((c5.updEntry e.toNat .move ent2).pumpE e.toNat)) ∧
      (c5.fabWaiting e.toNat ent.id = false → c5.failedReqs e.toNat ent.id = [] → exec row s = endsOn s e .move ent2 ws.length c5))

/-- SET (R172), of a LOCAL destination: every element takes the value, stored under the destination's controls (the model's choice of
SATURATE into an operand buffer is log entry 14). -/
def Says.set_fills_the_destination : Prop :=
  ∀ (s : State) (e : EngineNo) (src : SlugSrc) (c1 : Chip) (ent : QEntry) (d : TD), Runs s e src .move c1 ent → isMove 3 ent.slug = true →
    Untouched c1 e ent → checkSet ent = .ok d → PlainWrite c1 e d →
    (∀ i, i < d.count → Reached c1 e ent (ent.moveUsesAt e.toNat i)) →
    ∃ t, exec (.set e src) s = .next t ∧ Completed t e ent .success d.count ∧
      MemAfter c1 ((List.range d.count).map fun i =>
        { addr := d.addr (coordsOf d.ext i), fmt := d.fmt, high := d.high (coordsOf d.ext i),
          bits := storeElem d.fmt (moveCtl ent none d i) none false (CVal.ofBits d.fmt.isInt (moveValue ent.slug)) }) t

/-- PREFETCH (R167, R198, R203, R204). It goes batch by batch, as its request slots allow. A line of this device's HBM is held by the engine's cache afterwards, TRACKED or SNAPSHOT as the slug
asks, with the bytes memory holds; no memory changes. Lines elsewhere on this device are dropped or left, as the walk of its lines says; of
a TD whose BASE has upper bits every line is dropped and counted. -/
def Says.prefetch_fills_cache_lines : Prop :=
  ∀ (s : State) (e : EngineNo) (src : SlugSrc) (c1 : Chip) (ent : QEntry) (a : TD), Runs s e src .move c1 ent → isMove 2 ent.slug = true →
    Untouched c1 e ent → checkPrefetch ent = .ok a →
    (a.barred = false → (Chip.sourceLines a).all (c1.ownLine a) = true →
      let n := c1.prefetchBatch e.toNat
      let fill (ls : List Nat) : Chip := ls.foldl (fun c l => c.prefetchOwn e.toNat ent a a.space.code l (l % p2 48)) c1
      ((c1.engine e.toNat).sets = 0 ∨ (Chip.sourceLines a).length ≤ n → exec (.prefetch e src) s = endsOn s e .move ent 0 (fill (Chip.sourceLines a))) ∧
      ((c1.engine e.toNat).sets ≠ 0 → n < (Chip.sourceLines a).length → exec (.prefetch e src) s = withChip s
        (((fill ((Chip.sourceLines a).take n)).updEntry e.toNat .move { ent with prog := { ent.prog with phase := 1, done1 := n } }).pumpE e.toNat))) ∧
    (a.barred = true → ∃ c2, exec (.prefetch e src) s = endsOn s e .move ent 0 c2 ∧
      (c2.engine e.toNat).cnt.dropped = bump48 (c1.engine e.toNat).cnt.dropped (Chip.sourceLines a).length ∧
      (c2.engine e.toNat).cache = (c1.engine e.toNat).cache ∧ c2.mem = c1.mem) ∧
    (∀ l, a.space = .lcl → a.barred = false → Chip.sourceLines a = [l] → l < hbmTop → (c1.engine e.toNat).sets ≠ 0 →
      c1.accessError (e.toNat / 16) l = none → c1.ue = [] → 0 < c1.prefetchBatch e.toNat →
      ∃ c2 p, exec (.prefetch e src) s = endsOn s e .move ent 0 c2 ∧ p ∈ (c2.engine e.toNat).cache ∧ p.space = 0 ∧ p.addr = l ∧
        p.data = c1.memLine l ∧ p.state = (if moveTracked ent.slug then .tracked else .snapshot) ∧ c2.mem = c1.mem)

/-! ### The matrix array and the galley -/

/-- The bytes of accumulator slots of an engine. -/
def slotByte (e : EngineNo) (b : Nat) : Prop := bufferOf e.toNat + 0x400000 ≤ b ∧ b < bufferOf e.toNat + 0x500000

/-- MATMUL and MATMUL_BWD_PAIR with accumulator output (R97 to R107, R180). When every product leaves its tiles in their slots, and no earlier
slug holds a tile back, each slot holds afterwards the 1,024 values of its tile, summed in the reference order over all groups, from what the slot held under CONTINUE and from
zero otherwise; no byte outside the slots changes, and the slug completes with the tiles of its products. -/
def Obligations.matmul_leaves_its_tiles_in_their_slots : Prop :=
  ∀ (s : State) (e : EngineNo) (src : SlugSrc) (c1 : Chip) (ent : QEntry) (ps : List Product) (pair : Bool), Runs s e src .matrix c1 ent →
    isMatrix (if pair then 1 else 0) ent.slug = true → ent.prog = {} → checkMatrix c1 e.toNat ent = .ok ps → c1.ue = [] →
    (∀ p ∈ ps, p.out = 0 ∨ (p.out = 3 ∧ p.tiles ≤ p.count + 1)) → (∀ p ∈ ps, ∀ k, k < p.tiles → Reached c1 e ent (p.tileUses e.toNat k)) →
    (∀ p ∈ ps, ∀ td ∈ [p.a, p.b], ∀ i, i < td.count → ∀ b ∈ addrRange (td.addr (coordsOf td.ext i)) td.elemBytes, ¬ slotByte e b) →
    ∃ t, exec (if pair then .matmulBwdPair e src else .matmul e src) s = .next t ∧
      Completed t e ent .success (Chip.matrixDetail ((ps.head?.map Product.tiles).getD 0) ((ps[1]?.map Product.tiles).getD 0)) ∧
      (∀ p ∈ ps, ∀ k, k < p.tiles → ∀ q, q < 1024 →
        t.chip.mem.read (slotAddr e.toNat (p.slotOf k) + 4 * q) 4 = ((c1.tileValues e.toNat p k ((p.k + 31) / 32)).getD q 0).toNat) ∧
      (∀ b, ¬ slotByte e b → t.chip.mem.get b = c1.mem.get b)

/-- A product of one tile, without masks, by its output mode (R99, R110, R111): STORE writes its elements to the destination; GALLEY
publishes its tile as the newest entry of the galley while there is room, and the array waits for room otherwise. -/
def Says.matmul_stores_or_publishes_its_tile : Prop :=
  ∀ (s : State) (e : EngineNo) (src : SlugSrc) (c1 : Chip) (ent : QEntry) (p : Product), Runs s e src .matrix c1 ent →
    isMatrix 0 ent.slug = true → ent.prog = {} → checkMatrix c1 e.toNat ent = .ok [p] → c1.ue = [] → p.tiles = 1 → p.hasMask = false →
    let vals := c1.tileValues e.toNat p 0 ((p.k + 31) / 32)
    let full := BitVec.allOnes 32
    (∀ d, p.out = 1 → p.dst = some d → PlainWrite c1 e d → (∀ i, i < d.count → ∀ b ∈ addrRange (d.addr (coordsOf d.ext i)) d.elemBytes, ¬ slotByte e b) →
      ∃ t, exec (.matmul e src) s = .next t ∧ Completed t e ent .success 1 ∧
        ∀ b, ¬ slotByte e b → t.chip.mem.get b = (cellAt b (Chip.cellsOf c1.mem.get (storeTile ent p d 0 0 full full vals))).getD (c1.mem.get b)) ∧
    (p.out = 2 → Chip.galleyFree (c1.engine e.toNat) ent = true → ∃ t r, exec (.matmul e src) s = .next t ∧ Completed t e ent .success 1 ∧
      (t.chip.engine e.toNat).galley = (c1.engine e.toNat).galley ++ Chip.galleyEntry ent p 0 full full vals :: r ∧
      ∀ b, ¬ slotByte e b → t.chip.mem.get b = c1.mem.get b) ∧
    (p.out = 2 → Chip.galleyFree (c1.engine e.toNat) ent = false → ∃ t, exec (.matmul e src) s = .next t ∧ (t.chip.engine e.toNat).galleyWait = true ∧
      t.chip.mem = c1.mem)

/-- Freed and stuck galley entries (R111, R112, R114, R117). A freed entry lets a waiting ABORT entry be published, once no earlier slug has
tiles to publish, and an array that waits goes on with the tile it had reached; an array that has waited 2^24 ticks for a full galley, with a
tile or with an ABORT entry whose turn has come, is an error of its engine, and one that does not wait is none. -/
def Says.a_freed_galley_entry_lets_the_array_go_on : Prop :=
  ∀ (s : State) (e : EngineNo), s.chip.engines.length = 64 → s.chip.formesUp = true →
    (∀ id q, (s.chip.engine e.toNat).aborts = [(id, q)] → (s.chip.engine e.toNat).tilesBefore id = false →
      (s.chip.engine e.toNat).galley.length < 16 →
      (s.chip.engine e.toNat).galleyWait = false → exec (.galleyEntryFreed e) s = withChip s (s.chip.onEngine e.toNat fun x =>
        { x with aborts := [], galley := x.galley ++ [abortEntry q] })) ∧
    (∀ c1 ent p, Runs s e .queued .matrix c1 ent → (s.chip.engine e.toNat).galleyWait = true → (s.chip.engine e.toNat).aborts = [] →
      slugClass ent.slug = 1 → ent.prog.phase = 1 → ent.prog.done1 = 0 → ent.prog.done0 + 1 = p.tiles → matrixProducts ent = .ok [p] → p.num = 0 →
      p.out = 2 → p.hasMask = false → Chip.galleyFree (c1.engine e.toNat) ent = true → c1.ue = [] →
      ∃ t r, exec (.galleyEntryFreed e) s = .next t ∧ Completed t e ent .success (Chip.matrixDetail p.tiles 0) ∧
        (t.chip.engine e.toNat).galley = (c1.engine e.toNat).galley ++ Chip.galleyEntry ent p ent.prog.done0 (BitVec.allOnes 32) (BitVec.allOnes 32)
          (c1.tileValues e.toNat p ent.prog.done0 ((p.k + 31) / 32)) :: r) ∧
    ((s.chip.engine e.toNat).arrayWaits = true → s.chip.episodes = [] →
      ∃ t ev, exec (.galleyStuck e) s = .next t ∧ t.chip.evq = s.chip.evq ++ [ev] ∧ ev.code = evGalleyStuck ∧ ev.sev = .fatalEngine ∧
        ev.dom = .engine e.toNat ∧ t.chip.handlings = s.chip.handlings ++ [.handle .fatalEngine (.engine e.toNat)] ∧
        t.chip.engines = s.chip.engines ∧ t.chip.mem = s.chip.mem) ∧
    ((16 ≤ (s.chip.engine e.toNat).galley.length ∧ ((s.chip.engine e.toNat).galleyWait = true ∨
      ∃ id q r, (s.chip.engine e.toNat).aborts = (id, q) :: r ∧ (s.chip.engine e.toNat).tilesBefore id = false)) →
      (s.chip.engine e.toNat).arrayWaits = true) ∧
    ((s.chip.engine e.toNat).arrayWaits = false → exec (.galleyStuck e) s = .next s)

/-! ### The vector engine -/

/-- The row of a vector operation. -/
def vectorInstr (e : EngineNo) (src : SlugSrc) : VOp → Instr
  | .copy => .vectorCopy e src | .add => .add e src | .sub => .sub e src | .mul => .mul e src | .fma => .fma e src
  | .div => .div e src | .recip => .recip e src | .sqrt => .sqrt e src | .rsqrt => .rsqrt e src | .exp => .exp e src
  | .log => .log e src | .tanh => .tanh e src | .sigmoid => .sigmoid e src | .gelu => .gelu e src | .silu => .silu e src
  | .max => .max e src | .min => .min e src | .abs => .abs e src | .neg => .neg e src | .clamp => .clamp e src
  | .cmpEq => .cmpEq e src | .cmpLt => .cmpLt e src | .cmpLe => .cmpLe e src | .select => .select e src | .dropout => .dropout e src
  | .iadd => .iadd e src | .isub => .isub e src | .imul => .imul e src | .shl => .shl e src | .shr => .shr e src
  | .cvtF2i => .cvtF2i e src | .cvtI2f => .cvtI2f e src
  | .redSum => .redSum e src | .redSumsq => .redSumsq e src | .redDot => .redDot e src | .redMax => .redMax e src
  | .redMin => .redMin e src | .redArgmax => .redArgmax e src | .redArgmin => .redArgmin e src

/-- What a source gives at a position, read from memory itself. -/
def memSrc (c : Chip) (int : Bool) (cs : List Nat) : VSrc → CVal
  | .td t => loadElem t.fmt (c.rawAt t (t.broadcast cs))
  | .word w => CVal.ofBits int w
  | .galley => .f 0

/-- A mask read from memory itself selects a position (R136). -/
def memMask (c : Chip) (cs : List Nat) (mask : Option TD) : Bool :=
  mask.all fun t => (loadElem t.fmt (c.rawAt t (t.broadcast cs))).bits != 0

/-- Bytes of a staging region, whose contents a slug that uses it leaves unspecified (R153). -/
def inStage (e : EngineNo) (stage blocks a : Nat) : Prop :=
  bufferOf e.toNat + 0x500000 + stage * 0x4000 ≤ a ∧ a < bufferOf e.toNat + 0x500000 + (stage + blocks) * 0x4000

/-- The integer results, the special operands and the choices of R131, R132, R46, R60 and R539, on words. Integer sums, differences and products
wrap, or clamp under SAT; SHL and SHR shift by bits [7:0] of b, and by 32 or more give 0, or the sign for SHR; ABS and NEG of the most negative
integer follow SAT; MAX, MIN and CLAMP choose by signed value; CVT_I2F is exact up to 2^24 and CVT_F2I clamps. In FP32 a NaN operand gives the
canonical NaN wherever it is used; ABS and NEG change only the sign of a number; the infinities and zeros give what R131 lists; a negative
number has no root and no logarithm; SELECT takes b where a is not ±0, a NaN counting as non-zero. -/
def Obligations.vector_operations_on_words : Prop :=
  ∀ (a b c : W32),
    evalI .iadd false a b c = a + b ∧ evalI .isub false a b c = a - b ∧ evalI .imul false a b c = a * b ∧
    (evalI .iadd true a b c).toInt = max (-2147483648) (min 2147483647 (a.toInt + b.toInt)) ∧
    (evalI .isub true a b c).toInt = max (-2147483648) (min 2147483647 (a.toInt - b.toInt)) ∧
    (evalI .imul true a b c).toInt = max (-2147483648) (min 2147483647 (a.toInt * b.toInt)) ∧
    (b.toNat % 256 < 32 → evalI .shl false a b c = a <<< (b.toNat % 256) ∧ (evalI .shr false a b c).toInt = a.toInt / 2 ^ (b.toNat % 256)) ∧
    (32 ≤ b.toNat % 256 → evalI .shl false a b c = 0 ∧ evalI .shr false a b c = if a.toInt < 0 then BitVec.allOnes 32 else 0) ∧
    evalI .abs false 0x80000000#32 b c = 0x80000000#32 ∧ evalI .abs true 0x80000000#32 b c = 0x7FFFFFFF#32 ∧
    evalI .neg false a b c = -a ∧ evalI .neg true 0x80000000#32 b c = 0x7FFFFFFF#32 ∧
    evalI .cmpLt false a b c = (if a.toInt < b.toInt then 1 else 0) ∧ evalI .cmpEq false a b c = (if a = b then 1 else 0) ∧
    evalI .cmpLe false a b c = (if a.toInt ≤ b.toInt then 1 else 0) ∧
    (evalI .max false a b c).toInt = max a.toInt b.toInt ∧ (evalI .min false a b c).toInt = min a.toInt b.toInt ∧
    (evalI .clamp false a b c).toInt = min (max a.toInt b.toInt) c.toInt ∧
    (a.toInt.natAbs ≤ 2 ^ 24 → evalF .cvtF2i (evalI .cvtI2f false a b c) b c = a) ∧
    ((f32 a).isNaN = true →
      (∀ op ∈ [VOp.copy, .add, .sub, .mul, .fma, .div, .recip, .sqrt, .rsqrt, .exp, .log, .tanh, .sigmoid, .gelu, .silu, .max, .min, .abs, .neg,
        .clamp], evalF op a b c = f32NaN) ∧
      evalF .cvtF2i a b c = 0 ∧ (∀ op ∈ [VOp.cmpEq, .cmpLt, .cmpLe], evalF op a b c = 0 ∧ evalF op b a c = 0) ∧ selectW (.f a) b c = b) ∧
    ((f32 b).isNaN = true → ∀ op ∈ [VOp.add, .sub, .mul, .fma, .div, .max, .min, .clamp], evalF op a b c = f32NaN) ∧
    ((f32 c).isNaN = true → evalF .fma a b c = f32NaN ∧ evalF .clamp a b c = f32NaN) ∧
    (a.msb = true → (f32 a).isNaN = false → a ≠ 0x80000000#32 → ∀ op ∈ [VOp.sqrt, .rsqrt, .log], evalF op a b c = f32NaN) ∧
    selectW (.f a) b c = (if a = 0 ∨ a = 0x80000000#32 then c else b) ∧ selectW (.i a) b c = (if a = 0 then c else b) ∧
    evalF .add a b c = evalF .add b a c ∧ evalF .mul a b c = evalF .mul b a c ∧ evalF .fma a b 0x80000000#32 = evalF .mul a b c ∧
    (let pinf : W32 := 0x7F800000#32
     let ninf : W32 := 0xFF800000#32
     let nzero : W32 := 0x80000000#32
     let one : W32 := 0x3F800000#32
     let neg1 : W32 := 0xBF800000#32
     evalF .exp ninf b c = 0 ∧ evalF .exp pinf b c = pinf ∧ evalF .log 0 b c = ninf ∧ evalF .log nzero b c = ninf ∧ evalF .log pinf b c = pinf ∧
     evalF .rsqrt 0 b c = pinf ∧ evalF .rsqrt nzero b c = ninf ∧ evalF .rsqrt pinf b c = 0 ∧ evalF .sqrt nzero b c = nzero ∧
     evalF .tanh pinf b c = one ∧ evalF .tanh ninf b c = neg1 ∧ evalF .tanh 0 b c = 0 ∧ evalF .tanh nzero b c = nzero ∧
     evalF .sigmoid ninf b c = 0 ∧ evalF .sigmoid pinf b c = one ∧
     (∀ op ∈ [VOp.gelu, .silu], evalF op ninf b c = nzero ∧ evalF op pinf b c = pinf ∧ evalF op 0 b c = 0 ∧ evalF op nzero b c = nzero) ∧
     evalF .max 0 nzero c = 0 ∧ evalF .max nzero 0 c = 0 ∧ evalF .min 0 nzero c = nzero ∧ evalF .min nzero 0 c = nzero ∧
     evalF .cmpEq 0 nzero c = 1 ∧ evalF .cmpLt nzero 0 c = 0 ∧ evalF .cvtF2i pinf b c = 0x7FFFFFFF#32 ∧ evalF .cvtF2i ninf b c = 0x80000000#32 ∧
     evalF .add pinf ninf c = f32NaN ∧ evalF .mul 0 pinf c = f32NaN ∧ evalF .div pinf ninf c = f32NaN ∧ evalF .div 0 nzero c = f32NaN ∧
     evalF .div one 0 c = pinf ∧ evalF .recip nzero b c = ninf) ∧
    ((f32 a).isNaN = false → evalF .copy a b c = a ∧ evalF .abs a b c = a &&& 0x7FFFFFFF#32 ∧ evalF .neg a b c = a ^^^ 0x80000000#32)

/-- The elementwise operations (R95, R125 to R132, R136 to R138, R152), none of whose elements an earlier slug holds back. When no position
faults, every active position's result is stored at its
element of the destination, later writes over earlier ones, no other byte changes, and the slug completes with the elements of its
destination; where operands, mask and destination are plain memory, the results are those of the operation on what memory holds. A slug
with a GALLEY source waits for its first entry. -/
def Obligations.elementwise_slugs_store_their_results : Prop :=
  ∀ (s : State) (e : EngineNo) (src : SlugSrc) (c1 : Chip) (ent : QEntry) (v : VSlug), Runs s e src .vector c1 ent →
    slugClass ent.slug = 2 → ent.prog = {} → checkVector c1.selfId (c1.engine e.toNat) ent = .ok v → v.op.isReduction = false →
    (∀ d, v.usesGalley = false → (∀ i, i < d.count → Reached c1 e ent (ent.vecUsesAt e.toNat d i)) → regUe (c1.engine e.toNat) ent.slug v.op v.chain = false → v.dst = some d →
      (∀ rs c2 good, Chip.vecElems e.toNat ent v v.fixedInt d v.keepMask
          ((List.range d.count).map fun i => (i, coordsOf d.ext i, CVal.f 0)) c1 = (rs, c2) → Chip.goodPrefix rs = (good, none) → c1.ue = [] →
        ∃ t, exec (vectorInstr e src v.op) s = .next t ∧ Completed t e ent .success d.count ∧ MemAfter c1 (good.map (·.2.2)) t) ∧
      ((∀ td ∈ v.tdSrcs ++ v.mask.toList, PlainRead c1 e td) → PlainWrite c1 e d → (v.op = .dropout → v.dst2 = none) →
        ∃ t, exec (vectorInstr e src v.op) s = .next t ∧ Completed t e ent .success d.count ∧
          MemAfter c1 ((List.range d.count).flatMap fun i =>
            let cs := coordsOf d.ext i
            if memMask c1 cs v.mask then
              [Chip.elemWrite ent d v.ks2 cs (Chip.resultAt (c1.engine e.toNat) ent v v.fixedInt (indexOf d.ext cs)
                (v.srcs.map (memSrc c1 v.fixedInt cs))).1]
            else []) t)) ∧
    (v.usesGalley = true → exec (vectorInstr e src v.op) s =
      withChip s ((c1.updEntry e.toNat .vector { ent with prog := { ent.prog with phase := 1 } }).pumpE e.toNat))

/-- The reductions (R95, R133 to R135, R152), none of whose outputs an earlier slug holds back. When no output faults, the outputs fill the destination register from lane 0, its other lanes zero
and other registers unchanged, or the destination's elements in memory; bytes of its staging region aside, no other byte changes. Over
plain memory, without a mask and without a start from the destination, each output is the reduction of what memory holds along RED_DIM. -/
def Says.reductions_give_their_outputs : Prop :=
  ∀ (s : State) (e : EngineNo) (src : SlugSrc) (c1 : Chip) (ent : QEntry) (v : VSlug) (a : TD), Runs s e src .vector c1 ent →
    slugClass ent.slug = 2 → ent.prog = {} → checkVector c1.selfId (c1.engine e.toNat) ent = .ok v → v.op.isReduction = true →
    regUe (c1.engine e.toNat) ent.slug v.op v.chain = false → v.srcs.head? = some (.td a) →
    (∀ d i, v.dst = some d → i < (redExt a v.redDim).foldl (· * ·) 1 → Reached c1 e ent (ent.redUsesAt e.toNat a d v.redDim i)) →
    ((c1.engine e.toNat).vregs.map (·.1)).Pairwise (· < ·) →
    let ext := redExt a v.redDim
    let n := ext.foldl (· * ·) 1
    (∀ rs c2 vals, Chip.redOutputs e.toNat ent v v.fixedInt a ((List.range n).map fun i => (i, coordsOf ext i)) c1 = (rs, c2) →
      Chip.allOk rs = .ok vals →
      (∀ r, v.regDst = some r → ∃ t, exec (vectorInstr e src v.op) s = .next t ∧ Completed t e ent .success vals.length ∧
        (∀ i, i < 128 → Tab.get 0 (t.chip.engine e.toNat).vregs (128 * r + i) = ((vals.map CVal.bits)[i]?).getD 0) ∧
        (∀ k, k / 128 ≠ r → Tab.get 0 (t.chip.engine e.toNat).vregs k = Tab.get 0 (c1.engine e.toNat).vregs k) ∧
        ∀ b, (v.redDim = 0 ∨ ¬ inStage e v.stage v.blocks b) → t.chip.mem.get b = c1.mem.get b) ∧
      (∀ d, v.regDst = none → v.dst = some d → PlainWrite c1 e d → ∃ t, exec (vectorInstr e src v.op) s = .next t ∧
        Completed t e ent .success vals.length ∧ ∀ b, (v.redDim = 0 ∨ ¬ inStage e v.stage v.blocks b) → t.chip.mem.get b =
          (cellAt b (Chip.cellsOf c1.mem.get (vals.zipIdx.map fun (x, i) => Chip.elemWrite ent d v.ks2 (coordsOf ext i) x))).getD (c1.mem.get b))) ∧
    (∀ r, v.regDst = some r → v.mask = none → v.fromDst = false → (∀ td ∈ v.tdSrcs, PlainRead c1 e td) →
      ∃ t, exec (vectorInstr e src v.op) s = .next t ∧ Completed t e ent .success n ∧ ∀ i, i < n →
        let run (j : Nat) : List (Option W32) := (List.range (a.ext.getD v.redDim 1)).map fun k =>
          some ((v.srcs.map (memSrc c1 v.fixedInt ((coordsOf ext i).set v.redDim k))).getD j (.f 0)).bits
        Tab.get 0 (t.chip.engine e.toNat).vregs (128 * r + i) = (Chip.runChain (c1.engine e.toNat) v (CVal.ofBits (v.op.resultInt v.fixedInt)
          (redEval v.op v.sat v.fixedInt 0 (run 0) (run (if v.op = .redSumsq then 0 else 1))))).bits)

/-- Taking an entry of the galley (R129, R138, R139, R141). The head entry of the producer a consumer names is freed: its active positions are
stored as the elementwise rules say, and in the keep mask of DROPOUT over product 0 too; the slug counts the tile, and it completes once LAST has been freed for every product of its set; an ABORT entry of
its producer ends it with UPSTREAM_ABORT. -/
def Says.galley_entries_are_consumed : Prop :=
  ∀ (s : State) (e : EngineNo) (c1 : Chip) (ent : QEntry) (v : VSlug) (g : GEntry) (rest : List GEntry), Runs s e .queued .vector c1 ent →
    slugClass ent.slug = 2 → ent.prog.drain = none → checkVector c1.selfId (c1.engine e.toNat) ent = .ok v → v.usesGalley = true →
    v.op.isReduction = false → (c1.engine e.toNat).galley = g :: rest → (c1.engine e.toNat).aborts = [] → g.seq.toNat = v.seq →
    (g.abort = true → ∃ t r, exec (.galleyConsume e) s = .next t ∧ (t.chip.engine e.toNat).galley = rest ++ r ∧ t.chip.mem = c1.mem ∧
      Completed t e ent .upstreamAbort (Chip.matrixDetail ent.prog.done0 ent.prog.done1)) ∧
    (∀ d rs c2 good, g.abort = false → bit (BitVec.ofNat 2 v.prods) g.product = true → v.takes g = true → v.prodDst g.product = some d →
      g.ue = [] → regUe (c1.engine e.toNat) ent.slug v.op v.chain = false → c1.ue = [] →
      Chip.vecElems e.toNat ent v (v.entryInt g) d (if g.product = 0 then v.keepMask else none) (Chip.tilePositions g d) c1 = (rs, c2) → Chip.goodPrefix rs = (good, none) →
      let done0 := ent.prog.done0 + (if g.product = 0 then 1 else 0)
      let done1 := ent.prog.done1 + (if g.product = 0 then 0 else 1)
      let fin0 := ent.prog.fin0 || (g.last && g.product == 0)
      let fin1 := ent.prog.fin1 || (g.last && g.product != 0)
      ∃ t r, exec (.galleyConsume e) s = .next t ∧ (t.chip.engine e.toNat).galley = rest ++ r ∧ MemAfter c1 (good.map (·.2.2)) t ∧
        ((v.prods % 2 = 0 ∨ fin0 = true) ∧ (v.prods / 2 % 2 = 0 ∨ fin1 = true) → Completed t e ent .success (Chip.matrixDetail done0 done1)) ∧
        (¬ ((v.prods % 2 = 0 ∨ fin0 = true) ∧ (v.prods / 2 % 2 = 0 ∨ fin1 = true)) →
          ∃ q ∈ (t.chip.engine e.toNat).qVector, q.id = ent.id ∧ q.prog.done0 = done0 ∧ q.prog.done1 = done1 ∧ q.prog.fin0 = fin0 ∧ q.prog.fin1 = fin1))

/-! ### Fused kernels -/

/-- The row of a kernel. -/
def kernelInstr (e : EngineNo) (src : SlugSrc) : Kernel → Instr
  | .layernormFwd => .layernormFwd e src | .layernormBwd => .layernormBwd e src | .rmsnormFwd => .rmsnormFwd e src
  | .rmsnormBwd => .rmsnormBwd e src | .softmaxFwd => .softmaxFwd e src | .softmaxBwd => .softmaxBwd e src
  | .softmaxFwdMm => .softmaxFwdMm e src | .softmaxBwdMm => .softmaxBwdMm e src | .xent => .xent e src

/-- The fused kernels (R95, R143 to R150), none of whose rows an earlier slug holds back. When no row faults, a kernel without column outputs leaves memory as its rows do, staging aside; the
backward normalisations then store their column sums; XENT stores its loss and delivers it to the engine's loss accumulator; each completes
with the elements of its row tensor. The kernels that take the galley wait for their first entry. -/
def Obligations.fused_kernels_store_their_rows : Prop :=
  ∀ (s : State) (e : EngineNo) (src : SlugSrc) (c1 : Chip) (ent : QEntry) (f : FSlug), Runs s e src .vector c1 ent →
    slugClass ent.slug = 3 → ent.prog = {} → checkFused c1.selfId ent = .ok f →
    (f.kern.isMm = true → exec (kernelInstr e src f.kern) s =
      withChip s ((c1.updEntry e.toNat .vector { ent with prog := { ent.prog with phase := 1 } }).pumpE e.toNat)) ∧
    (∀ rows c2, f.kern.isMm = false → (∀ x r, f.rowTd = some x → r < f.rows → Reached c1 e ent (ent.fusedUsesAt e.toNat x r)) →
      Chip.fusedRows e.toNat ent f (List.range f.rows) [] (c1.addSteps e.toNat ((f.n + 127) / 128 * f.rows * f.cost)) = (none, rows, c2) →
      rows.any (·.range) = false →
      let elsewhere (t : State) (c : Chip) : Prop := ∀ b, ¬ inStage e f.stage f.blocks b → t.chip.mem.get b = c.mem.get b
      ((f.kern ≠ .layernormBwd ∧ f.kern ≠ .rmsnormBwd ∧ f.kern ≠ .xent) → ∃ t, exec (kernelInstr e src f.kern) s = .next t ∧
        Completed t e ent .success (f.n * f.rows) ∧ elsewhere t c2) ∧
      (∀ dg c3, f.kern = .rmsnormBwd → f.out 1 = some dg → c2.columnOut e.toNat ent f dg (rows.map (·.prod)) = (none, c3) →
        ∃ t, exec (kernelInstr e src f.kern) s = .next t ∧ Completed t e ent .success (f.n * f.rows) ∧ elsewhere t c3) ∧
      (∀ dg db c3 c4, f.kern = .layernormBwd → f.out 1 = some dg → f.out 2 = some db →
        c2.columnOut e.toNat ent f dg (rows.map (·.prod)) = (none, c3) → c3.columnOut e.toNat ent f db (rows.map (·.dy)) = (none, c4) →
        ∃ t, exec (kernelInstr e src f.kern) s = .next t ∧ Completed t e ent .success (f.n * f.rows) ∧ elsewhere t c4) ∧
      (∀ dl, f.kern = .xent → f.out 2 = some dl → PlainWrite c2 e dl → ∃ t, exec (kernelInstr e src f.kern) s = .next t ∧
        Completed t e ent .success (f.n * f.rows) ∧ (t.chip.engine e.toNat).loss.count = (c2.engine e.toNat).loss.count + 1 ∧
        ∀ b, ¬ inStage e f.stage f.blocks b → t.chip.mem.get b = (cellAt b (Chip.cellsOf c2.mem.get
          [Chip.elemWrite ent dl false (coordsOf dl.ext 0) (.f (Chip.lossOf rows))])).getD (c2.mem.get b)))

/-- One row of plain memory, unmasked, through the forward kernels and SOFTMAX_BWD (R145, R147): the row's results, and its statistics, are
those of the kernel's arithmetic on what memory holds. -/
def Obligations.forward_kernels_compute_a_row : Prop :=
  ∀ (s : State) (e : EngineNo) (src : SlugSrc) (c1 : Chip) (ent : QEntry) (f : FSlug) (d : TD), Runs s e src .vector c1 ent →
    slugClass ent.slug = 3 → ent.prog = {} → checkFused c1.selfId ent = .ok f → f.rows = 1 → f.mask = none → f.causal = false → f.out 0 = some d →
    (∀ x, f.rowTd = some x → Reached c1 e ent (ent.fusedUsesAt e.toNat x 0)) → (∀ td ∈ f.ins, PlainRead c1 e td) → (∀ td ∈ f.outs, PlainWrite c1 e td) →
    let row (i : Nat) : Row := (f.inp i).toList.flatMap fun td => (List.range f.n).map fun k =>
      some (Chip.asF32 (loadElem td.fmt (c1.rawAt td (td.broadcast (k :: List.replicate 5 0)))))
    let x := (row 0)
    let res : Option (Row × List W32) := match f.kern with
      | .layernormFwd => let (y, m, r) := layernormFwd x (row 1) (row 2) f.immA; some (y, [m, r])
      | .rmsnormFwd => let (y, r) := rmsnormFwd x (row 1) f.immA; some (y, [r])
      | .softmaxFwd => let (y, m, z) := softmaxFwd x f.immA; some (y, [m, z])
      | .softmaxBwd => some (softmaxBwd x (row 1) f.immA, [])
      | _ => none
    ∀ y stats, res = some (y, stats) → ∃ t, exec (kernelInstr e src f.kern) s = .next t ∧ Completed t e ent .success f.n ∧
      ∀ b, ¬ inStage e f.stage f.blocks b → t.chip.mem.get b = (cellAt b (Chip.cellsOf c1.mem.get
        ((y.zipIdx.flatMap fun (w, k) => w.toList.map fun w => Chip.elemWrite ent d false (k :: List.replicate 5 0) (.f w)) ++
         (stats.zipIdx.flatMap fun (w, k) => (f.out 1).toList.map fun td => Chip.elemWrite ent td false (k :: coordsOf td.ext.tail 0) (.f w))))).getD
          (c1.mem.get b)

/-! ### The control core -/

/-- The control core takes `ent`, the slug `it` at the front of the stream, on the chip `c2`: the slug has been issued, admission has
proceeded and is open, and the slug has left the stream in its own session (R157, R158, R164, R344). -/
def TakesCore (s : State) (e : EngineNo) (src : SlugSrc) (c2 : Chip) (it : StreamItem) (ent : QEntry) : Prop :=
  s.chip.formesUp = true ∧ s.chip.engines.length = 64 ∧ ∃ c1 rest q0, c1 = (s.chip.issueFirst e.toNat src.word).pumpE e.toNat ∧
    (c1.engine e.toNat).stream = it :: rest ∧ c1.admits e.toNat = true ∧ (c1.popStream e.toNat).makeEntry e.toNat it = (q0, c2) ∧
    c2.sessionError q0 = none ∧ ent = { q0 with began := true }

/-- A slug of the control core ends with SUCCESS on the chip `c`, and admission proceeds. -/
def coreEnds (s : State) (e : EngineNo) (ent : QEntry) (c : Chip) : Host.Outcome State Fault Refusal :=
  withChip s ((c.finishNow e.toNat ent .success).pumpE e.toNat)

/-- What LIST admits from the bytes it has read (R157, R179). -/
def listItems (ent : QEntry) (n : Nat) (bs : List Byte) : List StreamItem :=
  (Chip.words64 n bs).map fun w => { slug := w, origin := if ent.origin = .ring ∨ ent.origin = .list then .list else ent.origin,
                                     depth := ent.depth + 1, call := ent.call }

/-- CONTROL slugs (R95, R177 to R179, R181). NOP ends at once. TD_LOAD copies the TDs it reads into the engine's table from the entry it names.
LIST puts the slugs it reads before every later slug. CRING_SET zeroes the ring's consumed-count word and places the ring, once no earlier slug
holds the word. A TD_LOAD, LIST or CRING_SET that waits goes on when it can, unless its engine is parked (R419). -/
def Says.control_slugs_act_at_the_stream_head : Prop :=
  ∀ (s : State) (e : EngineNo) (src : SlugSrc) (c2 : Chip) (it : StreamItem) (ent : QEntry),
    let sl := ent.slug
    let loads (c : Chip) (bs : List Byte) := c.onEngine e.toNat fun x =>
      { x with tds := (Chip.words64 (fld sl 87 78) bs).zipIdx.foldl (fun t (w, i) => Tab.set (fld sl 77 68 + i) w t) x.tds }
    let lists (c : Chip) (bs : List Byte) := c.onEngine e.toNat fun x => { x with
      stream := listItems ent (fld sl 223 192) bs ++ x.stream,
      calls := x.calls.map fun k => if some k.id = ent.call then { k with left := k.left + fld sl 223 192 } else k }
    let zeroes (c c3 : Chip) : Prop :=
      c.writeLocal (e.toNat / 16) (some e.toNat) (Chip.cellsAt (fld sl 191 128 - 8) (toBytes 8 0)) = .ok c3
    let rings (c : Chip) := c.onEngine e.toNat fun x => { x with cring := { base := fld sl 191 128, log2 := fld sl 196 192, dflt := false } }
    (TakesCore s e src c2 it ent → slugClass it.slug = 9 → Chip.checkControl sl = .ok () →
      (slugOp sl = 0 → exec (.nop e src) s = coreEnds s e ent c2) ∧
      (slugOp sl = 1 → ∀ bs c3, c2.coreRead e.toNat ent (fld sl 89 88) (fld sl 191 128) (64 * fld sl 87 78) = (.ok (some bs), c3) →
        exec (.tdLoad e src) s = withChip s (((loads c3 bs).coreDone e.toNat ent .success).pumpE e.toNat)) ∧
      (slugOp sl = 3 → Chip.tooDeep ent = false → ∀ bs c3, c2.coreRead e.toNat ent (fld sl 89 88) (fld sl 191 128) (64 * fld sl 223 192) = (.ok (some bs), c3) →
        exec (.list e src) s = withChip s (((lists c3 bs).coreDone e.toNat ent .success).pumpE e.toNat)) ∧
      (slugOp sl = 4 → 8 ≤ fld sl 191 128 → c2.coreBlocked e.toNat ent (fld sl 191 128 - 8) 8 true = false → ∀ c3, zeroes c2 c3 →
        exec (.cringSet e src) s = withChip s (((rings c3).coreDone e.toNat ent .success).pumpE e.toNat)) ∧
      (slugOp sl = 4 → c2.coreBlocked e.toNat ent (fld sl 191 128 - 8) 8 true = true →
        exec (.cringSet e src) s = withChip s ((c2.hold e.toNat ent).pumpE e.toNat))) ∧
    (s.chip.formesUp = true → (s.chip.engine e.toNat).parked = true → (s.chip.engine e.toNat).core = some ent → slugClass sl = 9 →
      (slugOp sl = 1 → exec (.tdLoad e .queued) s = .next s) ∧ (slugOp sl = 3 → exec (.list e .queued) s = .next s) ∧
      (slugOp sl = 4 → exec (.cringSet e .queued) s = .next s)) ∧
    (s.chip.formesUp = true → (s.chip.engine e.toNat).parked = false → (s.chip.engine e.toNat).core = some ent → slugClass sl = 9 → s.chip.sessionError ent = none →
      (slugOp sl = 1 → ∀ bs c3, s.chip.coreRead e.toNat ent (fld sl 89 88) (fld sl 191 128) (64 * fld sl 87 78) = (.ok (some bs), c3) →
        exec (.tdLoad e .queued) s = withChip s (((loads c3 bs).coreDone e.toNat ent .success).pumpE e.toNat)) ∧
      (slugOp sl = 3 → ∀ bs c3, s.chip.coreRead e.toNat ent (fld sl 89 88) (fld sl 191 128) (64 * fld sl 223 192) = (.ok (some bs), c3) →
        exec (.list e .queued) s = withChip s (((lists c3 bs).coreDone e.toNat ent .success).pumpE e.toNat)) ∧
      (slugOp sl = 4 → 8 ≤ fld sl 191 128 → s.chip.coreBlocked e.toNat ent (fld sl 191 128 - 8) 8 true = false → ∀ c3, zeroes s.chip c3 →
        exec (.cringSet e .queued) s = withChip s (((rings c3).coreDone e.toNat ent .success).pumpE e.toNat)))

/-- QUOIN and WAIT (R95, R173 to R176, R205, R317, R331, R332, R419). Each holds the control core, and so every later slug. A QUOIN completes once no earlier
slug runs and, in the scopes from BROADSHEET on, the writes of those before it are performed there, its flag written where it names one; in
HOST scope it waits for the host and writes every modified host line back first. A WAIT completes when its word meets the condition, and with WAIT_TIMEOUT when its timeout comes first;
completing, each invalidates the engine's SNAPSHOT lines and frees the core. A parked engine's holds still, and a word that an earlier slug
holds is not read. -/
def Says.quoin_and_wait_hold_the_stream : Prop :=
  ∀ (s : State) (e : EngineNo) (ent : QEntry),
    (∀ src c2 it, TakesCore s e src c2 it ent → slugClass it.slug = 4 → Chip.checkQuoin ent.slug = .ok () →
      (slugOp ent.slug = 0 → exec (.quoin e src) s = withChip s (c2.onEngine e.toNat fun x => { x with core := some ent })) ∧
      (slugOp ent.slug = 1 → exec (.wait e src) s = withChip s (c2.onEngine e.toNat fun x => { x with core := some ent }))) ∧
    (s.chip.formesUp = true → s.chip.engines.length = 64 → (s.chip.engine e.toNat).core = some ent → slugClass ent.slug = 4 →
      (s.chip.engine e.toNat).parked = true → exec (.quoinComplete e) s = .next s ∧ exec (.waitSatisfied e) s = .next s ∧ exec (.waitTimeout e) s = .next s) ∧
    (s.chip.formesUp = true → s.chip.engines.length = 64 → (s.chip.engine e.toNat).core = some ent → slugClass ent.slug = 4 →
      ent.began = true → (s.chip.engine e.toNat).parked = false →
      let freed (t : State) (st : Status) : Prop := Completed t e ent st 0 ∧ (t.chip.engine e.toNat).core = none ∧
        ∀ l ∈ (t.chip.engine e.toNat).cache, l.state ≠ .snapshot
      let a := fld ent.slug 191 128
      (slugOp ent.slug = 0 → s.chip.sessionError ent = none → (s.chip.engine e.toNat).earlierRuns ent.id = false →
        (fld ent.slug 70 68 < 3 ∨ s.chip.farPending e.toNat ent.id = false) → fld ent.slug 70 68 ≠ 5 →
        (bit ent.slug 71 = false → ∃ t, exec (.quoinComplete e) s = .next t ∧ freed t .success ∧ t.chip.mem = s.chip.mem) ∧
        (bit ent.slug 71 = true → fld ent.slug 73 72 = 0 → s.chip.ue = [] →
          (∀ b ∈ addrRange a 8, s.chip.accessError (e.toNat / 16) b = none) → ∃ t, exec (.quoinComplete e) s = .next t ∧ freed t .success ∧
            t.chip.mem.read a 8 = fld ent.slug 255 192 ∧ ∀ b, b < a ∨ a + 8 ≤ b → t.chip.mem.get b = s.chip.mem.get b)) ∧
      (slugOp ent.slug = 0 → s.chip.sessionError ent = none → (s.chip.engine e.toNat).earlierRuns ent.id = false →
        s.chip.farPending e.toNat ent.id = false → fld ent.slug 70 68 = 5 →
        (s.chip.ringAvail e.toNat = false → exec (.quoinComplete e) s = .next s) ∧
        (s.chip.ringAvail e.toNat = true → bit ent.slug 71 = false →
          exec (.quoinComplete e) s = withChip s ((s.chip.hostFlush fun _ => true).endCore e.toNat ent .success))) ∧
      (slugOp ent.slug = 0 → s.chip.sessionError ent = none → ((s.chip.engine e.toNat).earlierRuns ent.id = true ∨
        (3 ≤ fld ent.slug 70 68 ∧ s.chip.farPending e.toNat ent.id = true)) → exec (.quoinComplete e) s = .next s) ∧
      (slugOp ent.slug = 1 → s.chip.ue = [] → (∀ b ∈ addrRange a 8, s.chip.accessError (e.toNat / 16) b = none) →
        let met : Bool := !s.chip.coreBlocked e.toNat ent a 8 false && if bit ent.slug 74 then s.chip.seenWord a 8 == fld ent.slug 255 192 else decide (fld ent.slug 255 192 ≤ s.chip.seenWord a 8)
        (met = true → (∃ t, exec (.waitSatisfied e) s = .next t ∧ freed t .success ∧ t.chip.mem = s.chip.mem) ∧ exec (.waitTimeout e) s = .next s) ∧
        (met = false → exec (.waitSatisfied e) s = .next s ∧ (fld ent.slug 95 80 ≠ 0 → ∃ t, exec (.waitTimeout e) s = .next t ∧
          freed t .waitTimeout ∧ t.chip.mem = s.chip.mem))))

/-- The row of an operator. -/
def callInstr (e : EngineNo) (src : SlugSrc) : Operator → Instr
  | .linearFwd => .linearFwd e src | .linearBwd => .linearBwd e src | .attentionFwd => .attentionFwd e src
  | .attentionBwd => .attentionBwd e src | .normFwd => .normFwd e src | .normBwd => .normBwd e src | .xent => .xentCall e src

/-- CALL (R157, R187 to R190). An operator the firmware carries is expanded into blocks, which are dealt in turn to the engines in service of
its span: the leader's own share stands before every later slug of its stream, each other share is a part that its member runs between two
of its own slugs. What a block's slugs are is the model's choice (log entry 15). -/
def Obligations.calls_are_expanded_and_dealt : Prop :=
  ∀ (s : State) (e : EngineNo),
    (∀ src c2 it ent op blocks, TakesCore s e src c2 it ent → isCall op it.slug = true → Chip.checkControl ent.slug = .ok () →
      fld ent.slug 91 84 = 1 → Chip.tooDeep ent = false → expandCall op ent = .ok blocks →
      let es := c2.spanEngines e.toNat (fld ent.slug 93 92)
      let shares := es.zipIdx.map fun (m, i) => (m, Chip.shareOf blocks m i es.length)
      let id := (c2.engine e.toNat).nextCall
      let mine := ((shares.filter fun p => p.1 == e.toNat).flatMap (·.2)).map fun it => { it with depth := ent.depth + 1, call := some id }
      let others := shares.filter fun p => p.1 != e.toNat && !p.2.isEmpty
      let dealt := others.foldl (fun c (m, l) => c.onEngine m fun x =>
        { x with callParts := x.callParts ++ [{ leader := e.toNat, id, entry := ent, items := l }] }) c2
      (mine ≠ [] ∨ others ≠ [] → exec (callInstr e src op) s = withChip s ((dealt.onEngine e.toNat fun x => { x with
        nextCall := id + 1, calls := x.calls ++ [{ id, entry := ent, left := mine.length, parts := others.map (·.1) }],
        stream := mine ++ x.stream }).pumpE e.toNat)) ∧
      (mine = [] → others = [] → exec (callInstr e src op) s = coreEnds s e ent c2)) ∧
    (∀ p rest, s.chip.formesUp = true → (s.chip.engine e.toNat).callParts = p :: rest → s.chip.admits e.toNat = true →
      exec (.callPart e) s = withChip s ((s.chip.onEngine e.toNat fun x => { x with
        callParts := rest, nextCall := x.nextCall + 1,
        calls := x.calls ++ [{ id := x.nextCall, entry := p.entry, left := p.items.length, leader := some (p.leader, p.id) }],
        stream := p.items.map (fun it => { it with depth := 1, call := some x.nextCall }) ++ x.stream }).pumpE e.toNat))

/-- The completion of a slug (R180, R181, R183 to R185, R337). Without a record to write it leaves the slugs that have ended, and admission
goes on; a record goes to the engine's ring in 16 bytes with its phase bit, or to the host ring, whose count advances once the line is written; a full ring holds
every completion that needs a record, and no other, and CRING_SPACE takes them up; a fault that the slug does not CONTINUE over is recorded at its severity and halts the
engine, whose waiting slugs are flushed. -/
def Obligations.slugs_complete_with_their_records : Prop :=
  ∀ (s : State) (e : EngineNo) (f : Finish) (rest : List Finish), s.chip.formesUp = true → s.chip.engines.length = 64 →
    (s.chip.engine e.toNat).finishing = f :: rest → f.entry.call = none → (s.chip.engine e.toNat).parked = false →
    let r := (s.chip.engine e.toNat).cring
    let dropped (c : Chip) : Chip := c.onEngine e.toNat fun x => { x with finishing := x.finishing.drop 1 }
    (f.status = .success → slugCmpl f.entry.slug = false → exec (.slugComplete e) s = withChip s ((dropped s.chip).pumpE e.toNat)) ∧
    (f.status = .success → slugCmpl f.entry.slug = true → f.entry.mute = false → f.entry.ring = false → r.broken = false → s.chip.ue = [] →
      let a := r.base + 16 * (r.head % 2 ^ r.log2)
      (r.head - r.seen < 2 ^ r.log2 → (∀ b ∈ addrRange a 16, s.chip.accessError (e.toNat / 16) b = none) →
        ∃ t l, exec (.slugComplete e) s = .next t ∧ t.chip.mem.read a 16 = (Chip.recordWord e.toNat f + (1 - (r.head >>> r.log2) % 2) <<< 127) % 2 ^ 128 ∧
          (∀ b, b < a ∨ a + 16 ≤ b → t.chip.mem.get b = s.chip.mem.get b) ∧ (t.chip.engine e.toNat).cring = { r with head := r.head + 1 } ∧
          (t.chip.engine e.toNat).finishing = rest ++ l) ∧
      (∀ n, 2 ^ r.log2 ≤ r.head - r.seen → s.chip.readConsumed e.toNat r = .ok n → 2 ^ r.log2 ≤ r.head - n →
        let full := s.chip.onEngine e.toNat fun x => { x with cring := { r with seen := n } }
        ((∀ g ∈ rest, g.needsRecord = true ∧ g.entry.ring = false) → exec (.slugComplete e) s = withChip s full) ∧
        (∀ g more, rest = g :: more → g.status = .success → slugCmpl g.entry.slug = false → g.entry.call = none → g.entry.id ≠ f.entry.id →
          exec (.slugComplete e) s = withChip s ((full.onEngine e.toNat fun x => { x with finishing := f :: more }).pumpE e.toNat)))) ∧
    (∀ h, f.status = .success → slugCmpl f.entry.slug = true → f.entry.mute = false → f.entry.ring = true →
      (s.chip.engine e.toNat).ring = some h → s.chip.host.inForce = true → f.entry.session = s.chip.host.session → s.chip.hostAvail = true →
      (h.cqWritten - h.cqConsumed).toNat ≠ 2 ^ h.cqLog2 → s.chip.hostShut e.toNat = false → s.chip.host.closing = false →
      let wrote := s.chip.hostCtlWrite (h.cqBase + 16 * (h.cqWritten.toNat % 2 ^ h.cqLog2))
        (toBytes 16 (Chip.phased h.cqWritten.toNat h.cqLog2 (Chip.recordWord e.toNat f)))
      (wrote.1 = false → rest = [] → exec (.slugComplete e) s = withChip s wrote.2) ∧
      (wrote.1 = true → ∃ t l, exec (.slugComplete e) s = .next t ∧
        (t.chip.engine e.toNat).ring.map (·.cqWritten) = some (h.cqWritten + 1) ∧ (t.chip.engine e.toNat).finishing = rest ++ l ∧ t.chip.mem = s.chip.mem)) ∧
    (f.status ≠ .success → f.entry.mute = true → slugContinue f.entry.slug = false → s.chip.episodes = [] → ∃ t ev l, exec (.slugComplete e) s = .next t ∧
      t.chip.evq = s.chip.evq ++ ev :: l ∧ ev.code = f.status.code ∧ ev.sev = f.status.severity ∧ (t.chip.engine e.toNat).halted = (s.chip.engine e.toNat).halted) ∧
    (f.status ≠ .success → f.entry.mute = false → slugContinue f.entry.slug = false → f.entry.ring = false → r.broken = false →
      r.head - r.seen < 2 ^ r.log2 → s.chip.ue = [] →
      (∀ b ∈ addrRange (r.base + 16 * (r.head % 2 ^ r.log2)) 16, s.chip.accessError (e.toNat / 16) b = none) → (s.chip.engine e.toNat).ring = none →
      ∃ t ev, exec (.slugComplete e) s = .next t ∧ (t.chip.engine e.toNat).halted = true ∧ ev ∈ t.chip.evq ∧ ev.code = f.status.code ∧
        ev.sev = f.status.severity ∧ ∀ ent ∈ (s.chip.engine e.toNat).qMove, ent.began = false → isConsumer ent.slug = false →
          ent.id ∉ (t.chip.engine e.toNat).qMove.map QEntry.id ∧
          ∃ g ∈ (t.chip.engine e.toNat).finishing, g.entry.id = ent.id ∧ g.status = .flushed) ∧
    (rest = [] → exec (.cringSpace e) s = exec (.slugComplete e) s)

/-! ### FABRIC slugs -/

/-- The TD's elements may be read in LOCAL memory by the forme's fabric unit. -/
def FabReads (c : Chip) (e : EngineNo) (t : TD) : Prop :=
  c.ue = [] ∧ ∀ i, i < t.count → ∀ b ∈ addrRange (t.addr (coordsOf t.ext i)) t.elemBytes, c.accessError (e.toNat / 16) b = none

/-- Element `i`'s raw bits in memory. -/
def rawElem (c : Chip) (t : TD) (i : Nat) : Nat := c.rawAt t (coordsOf t.ext i)

/-- PUT and GET (R28, R52, R305, R306). A PUT to the device's own address converts and stores every element at once and completes; one to
other devices sends its WRITE frames and waits for their RESPONSEs, and then writes what NOTIFY names and its flag. A GET whose bytes have
all come, or are the device's own, stores every element; otherwise it asks for the missing ones and waits. -/
def Says.puts_and_gets_move_tensors : Prop :=
  ∀ (s : State) (e : EngineNo) (src : SlugSrc) (c1 : Chip) (ent : QEntry) (a d : TD) (x : Option TD), Runs s e src .fabric c1 ent →
    slugClass ent.slug = 5 → checkFabric ent = .ok (some a, d, x) →
    let plain : Prop := fabNotify ent.slug = false ∧ fabFlagEn ent.slug = false
    (slugOp ent.slug = 0 → Untouched c1 e ent →
      let ent1 := { ent with prog := { ent.prog with phase := 1 } }
      (∀ c2, FabReads c1 e a → c1.fabPutCells e.toNat ent.id 1 (fabRole ent.slug) (Chip.cellsOf (fun _ => 0)
          (Chip.fabConvert ent a d ((List.range a.count).map (rawElem c1 a)))) = .ok c2 →
        (c2.fabWaiting e.toNat ent.id = true → exec (.put e src) s = withChip s (((c2.updEntry e.toNat .fabric ent1).updEntry e.toNat .fabric ent1).pumpE e.toNat)) ∧
        (c2.fabWaiting e.toNat ent.id = false → c2.fabAnswers e.toNat ent.id = [] → plain →
          exec (.put e src) s = endsOn s e .fabric ent1 0 (c2.updEntry e.toNat .fabric ent1))) ∧
      (FabReads c1 e a → plain → fabRole ent.slug = false → d.fmt ≠ .int4 → c1.fab.idValid = true →
        (∀ i, i < d.count → ∀ b ∈ addrRange (d.addr (coordsOf d.ext i)) d.elemBytes, b >>> 48 = c1.fab.deviceId ∧
          c1.broadsheetOk (b % 2 ^ 48) = true ∧ c1.accessError (e.toNat / 16) (b % 2 ^ 48) = none) →
        ∃ t, exec (.put e src) s = .next t ∧ Completed t e ent .success 0 ∧
          MemAfter c1 ((Chip.fabConvert ent a d ((List.range a.count).map (rawElem c1 a))).map fun w => { w with addr := w.addr % 2 ^ 48 }) t)) ∧
    (slugOp ent.slug = 0 → ent.prog.phase = 1 → c1.fabWaiting e.toNat ent.id = false → (∀ r ∈ c1.fabAnswers e.toNat ent.id, ∃ bs, r.answer = some (.success, bs)) →
      (plain → exec (.put e src) s = endsOn s e .fabric ent 0 c1) ∧
      (fabNotify ent.slug = false → fabFlagEn ent.slug = true → c1.ue = [] → (∀ b ∈ addrRange (fabFlagAddr ent.slug) 8, c1.accessError (e.toNat / 16) b = none) →
        ∃ t, exec (.put e src) s = .next t ∧ Completed t e ent .success 0 ∧
          t.chip.mem.read (fabFlagAddr ent.slug) 8 = fld ent.slug 447 384 ∧
          ∀ b, b < fabFlagAddr ent.slug ∨ fabFlagAddr ent.slug + 8 ≤ b → t.chip.mem.get b = c1.mem.get b) ∧
      (fabNotify ent.slug = true → fabFlagEn ent.slug = false → fabRole ent.slug = false → c1.fab.idValid = true → d.base >>> 48 = c1.fab.deviceId →
        c1.ue = [] → let n := fabOp0 ent.slug % 2 ^ 48; n + 8 ≤ 2 ^ 48 →
        (∀ b ∈ addrRange n 8, c1.broadsheetOk b = true ∧ c1.accessError (e.toNat / 16) b = none) →
        ∃ t, exec (.put e src) s = .next t ∧ Completed t e ent .success 0 ∧ t.chip.mem.read n 8 = fabOp1 ent.slug ∧
          ∀ b, b < n ∨ n + 8 ≤ b → t.chip.mem.get b = c1.mem.get b)) ∧
    (slugOp ent.slug = 1 → ent.prog.drain = none → ∀ ent1 c2 got, c1.absorb e.toNat ent = (ent1, none, c2) →
      let bytes := sortAddrs (a.addrs.flatMap fun x => addrRange x a.elemBytes)
      c2.fabOwnBytes e.toNat (fabRole ent.slug) bytes ent1.prog.gotB = .ok got →
      let ent2 := { ent1 with prog := { ent1.prog with gotB := got } }
      let raw := (List.range a.count).map fun i =>
        let v := ofBytes ((addrRange (a.addr (coordsOf a.ext i)) a.elemBytes).map fun b => (cellAt b got).getD 0)
        if a.fmt = .int4 then (if a.high (coordsOf a.ext i) then v / 16 else v % 16) else v
      ((bytes.all fun b => (cellAt b got).isSome) = true → fabFlagEn ent.slug = false → PlainWrite c2 e d →
        ∃ t, exec (.get e src) s = .next t ∧ Completed t e ent .success 0 ∧ MemAfter c1 (Chip.fabConvert ent2 a d raw) t) ∧
      ((bytes.all fun b => (cellAt b got).isSome) = false → exec (.get e src) s =
        withChip s (((c2.updEntry e.toNat .fabric ent2).fabReads e.toNat ent2 (fabRole ent.slug) bytes).pumpE e.toNat)))

/-- ATOMIC and MGMT_SEND (R28, R305 to R307, R319, R538). An atomic of one word on the device's own memory leaves the new word, puts the old one where
TD_AUX says, and completes; atomics on other devices are sent in element order and waited for, and the slug completes when every one has
succeeded, or with the fault of an operand once those sent have their RESPONSEs. MGMT_SEND sends the 64-byte message with the next sequence number, and completes with the response at its destination; where the
message's destination and type lie is the model's choice (log entry 17). -/
def Says.atomics_and_messages_are_sent : Prop :=
  ∀ (s : State) (e : EngineNo) (src : SlugSrc) (c1 : Chip) (ent : QEntry), Runs s e src .fabric c1 ent → slugClass ent.slug = 5 →
    (∀ a d x, slugOp ent.slug = 2 → checkFabric ent = .ok (a, d, x) →
      (Untouched c1 e ent → a = none → d.count = 1 → fabRole ent.slug = false → fabFlagEn ent.slug = false → c1.fab.idValid = true → c1.ue = [] →
        let n := Chip.atomicSize (fabAtype ent.slug)
        let w := wordAddr d n 0
        let b := w % 2 ^ 48
        let old := c1.seenWord b n
        let new := if fabAtype ent.slug = 3 ∧ old ≠ fabOp0 ent.slug then c1.mem.read b n
          else Chip.atomicNew (fabAtype ent.slug) old (fabOp0 ent.slug) (fabOp1 ent.slug) % 2 ^ (8 * n)
        w >>> 48 = c1.fab.deviceId → (∀ i ∈ addrRange b n, c1.broadsheetOk i = true ∧ c1.accessError (e.toNat / 16) i = none) →
        (∀ y, x = some y → y.count = 1 → (∀ i ∈ addrRange (wordAddr y n 0) n, c1.accessError (e.toNat / 16) i = none) →
          wordAddr y n 0 + n ≤ b ∨ b + n ≤ wordAddr y n 0 → ∃ t, exec (.atomic e src) s = .next t ∧ Completed t e ent .success 0 ∧
            t.chip.mem.read b n = new ∧
            t.chip.mem.read (wordAddr y n 0) n = old) ∧
        (x = none → ∃ t, exec (.atomic e src) s = .next t ∧ Completed t e ent .success 0 ∧
          t.chip.mem.read b n = new ∧
          ∀ i, i < b ∨ b + n ≤ i → t.chip.mem.get i = c1.mem.get i)) ∧
      (∀ k bad c2, ent.prog.drain = none → Chip.atomIssue e.toNat ent a d d.count ent.prog.done0 c1 = (k, bad, c2) →
        (c2.fabWaiting e.toNat ent.id = true → exec (.atomic e src) s =
          withChip s ((c2.updEntry e.toNat .fabric { ent with prog := { ent.prog with done0 := k, drain := bad } }).pumpE e.toNat)) ∧
        (∀ st, c2.fabWaiting e.toNat ent.id = false → bad = some st → x = none →
          ∃ t, exec (.atomic e src) s = .next t ∧ Completed t e ent st 0 ∧ t.chip.mem = c2.mem)) ∧
      (x = none → ent.prog.drain = none → ent.prog.done0 = d.count → fabFlagEn ent.slug = false → c1.fabWaiting e.toNat ent.id = false →
        (∀ i, i < d.count → ∃ r bs, c1.fab.reqs.find? (fun r => r.engine == e.toNat && r.entry == ent.id && r.key == Chip.atomKey i) = some r ∧
          r.answer = some (.success, bs)) → ∃ t, exec (.atomic e src) s = .next t ∧ Completed t e ent .success 0 ∧ t.chip.mem = c1.mem)) ∧
    (∀ a d, slugOp ent.slug = 7 → Chip.checkMgmt ent = .ok (a, d) →
      (ent.prog.phase = 0 → c1.ue = [] → (∀ b ∈ addrRange a.base 64, c1.accessError (e.toNat / 16) b = none) →
        let msg := BitVec.ofNat 512 (c1.seenWord a.base 64)
        ∃ t, exec (.mgmtSend e src) s = .next t ∧
          Sent.mgmt (fld (Config.mgmtHead msg) 15 0) (fld (Config.mgmtHead msg) 23 16) c1.fab.mgmtSeq 0 msg ∈ t.chip.sent ∧
          t.chip.fab.mgmtSeq = (c1.fab.mgmtSeq + 1) % 2 ^ 16 ∧ t.chip.mem = c1.mem) ∧
      (∀ r bs, ent.prog.phase = 1 → c1.fab.reqs.find? (fun r => r.engine == e.toNat && r.entry == ent.id && r.key == 5) = some r →
        r.answer = some (.success, bs) → fabFlagEn ent.slug = false → c1.ue = [] → (∀ b ∈ addrRange d.base bs.length, c1.accessError (e.toNat / 16) b = none) →
        ∃ t, exec (.mgmtSend e src) s = .next t ∧ Completed t e ent .success 0 ∧
          (∀ i, i < bs.length → t.chip.mem.get (d.base + i) = bs.getD i 0) ∧
          ∀ b, b < d.base ∨ d.base + bs.length ≤ b → t.chip.mem.get b = c1.mem.get b))

/-- The row of a collective, by OP. -/
def collInstr (e : EngineNo) (src : SlugSrc) : Nat → Instr
  | 4 => .reduceScatter e src | 5 => .allGather e src | _ => .allReduce e src

/-- Collectives (R72, R75, R308 to R312). A call whose group can be read and reached is counted under its tag and begins with its contributions; the
owner of a shard stores, once every group's sum is there, the sums in increasing group order, converted as its destination says; a call
whose outputs are stored, whose sums are led and whose requests are answered completes, its staging undefined. -/
def Says.collectives_begin_and_complete : Prop :=
  ∀ (s : State) (e : EngineNo) (src : SlugSrc) (c1 : Chip) (ent : QEntry) (a d x : TD), Runs s e src .fabric c1 ent → slugClass ent.slug = 5 →
    (slugOp ent.slug = 4 ∨ slugOp ent.slug = 5 ∨ slugOp ent.slug = 6) → checkColl ent = .ok (a, d, x) →
    let row := collInstr e src (slugOp ent.slug)
    let staging (b : Nat) : Prop := ∃ i, i < x.count ∧ b = x.addr (coordsOf x.ext i)
    (∀ g, Untouched c1 e ent → c1.readGroup e.toNat ent.slug = .ok g → collShape (slugOp ent.slug) g a d = .ok () →
      (g.members.any c1.unreachable) = false → FabReads c1 e a →
      exec row s = withChip s ((c1.beginColl e.toNat ent a d g ((List.range a.count).map (rawElem c1 a))).pumpE e.toNat)) ∧
    (∀ k, ent.prog.phase = 1 → c1.collOf e.toNat ent.id = some k → c1.callEntry e.toNat ent.id = some { ent with began := true } →
      k.engine = e.toNat → k.entry = ent.id → k.op = slugOp ent.slug →
      k.contribs = [] → k.led = ledCount k.members.length k.elems k.rank → fabFlagEn ent.slug = false → c1.fabWaiting e.toNat ent.id = false → c1.fabAnswers e.toNat ent.id = [] →
      (k.stage = 2 → ∃ t, exec row s = .next t ∧ Completed t e ent .success 0 ∧ t.chip.collOf e.toNat ent.id = none ∧
        ∀ b, ¬ staging b → t.chip.mem.get b = c1.mem.get b) ∧
      (k.op = 4 → k.stage = 0 → Chip.ownReady k = true → PlainWrite c1 e d → (shardOf k.members.length k.elems k.rank).length = d.count →
        ∃ t, exec row s = .next t ∧ Completed t e ent .success 0 ∧
          let lo := shardLo k.members.length k.elems k.rank
          ∀ b, ¬ staging b → t.chip.mem.get b = (cellAt b (Chip.cellsOf c1.mem.get ((List.range d.count).map fun j =>
            { addr := d.addr (coordsOf d.ext j), fmt := d.fmt, high := d.high (coordsOf d.ext j),
              bits := storeSum d.fmt (Chip.ctlOf ent d j)
                (sumGroups k.int ((List.range (groupsOf k.members.length)).map fun g => Tab.get 0 k.gsums (4096 * (lo + j) + g))) }))).getD (c1.mem.get b)))

/-- DISPATCH and COMBINE (R308, R313 to R316). An all-to-all whose group can be read and reached is counted under its tag and registered, and its
rows are sent, in the order of its routing index or of its held roles; once its marks are out and all it waits for have come, it completes
and is forgotten. -/
def Says.all_to_alls_begin_and_complete : Prop :=
  ∀ (s : State) (e : EngineNo) (src : SlugSrc) (c1 : Chip) (ent : QEntry) (t0 : A2ATds), Runs s e src .fabric c1 ent → slugClass ent.slug = 5 →
    slugOp ent.slug = 3 → checkA2A ent = .ok t0 →
    let row := if fabCombine ent.slug then Instr.combine e src else Instr.dispatch e src
    (∀ g, ent.prog = {} → c1.readGroup e.toNat ent.slug = .ok g → (g.members.any c1.unreachable) = false →
      let count := Tab.get 0 c1.fab.calls g.tag
      let k : A2A := { engine := e.toNat, entry := ent.id, combine := fabCombine ent.slug, members := g.members, rank := g.rank, tag := g.tag, count,
                       sig := Chip.a2aSig g ent.slug t0.src.fmt (rowLen t0.src.fmt (t0.src.ext.headD 0)), first := fabFirst ent.slug, roles := fabRoles ent.slug }
      let cA := c1.onFab fun f => { f with calls := Tab.set g.tag (count + 1) f.calls, a2as := f.a2as ++ [k] }
      let goesOn (c2 : Chip) := withChip s ((((c2.updEntry e.toNat .fabric { ent with prog := { ent.prog with phase := 1 } }).takeEarlyMarks g.tag).tidyA2a
        e.toNat ent.id).pumpE e.toNat)
      (∀ ix w c2, fabCombine ent.slug = false → t0.idx = some ix → cA.readIndex e.toNat ent.slug ix = .ok w →
        cA.dispatchSend e.toNat ent k t0 g (Chip.routeRows (fabTopk ent.slug) w).1 (Chip.routeRows (fabTopk ent.slug) w).2 = .ok c2 →
        exec row s = goesOn c2) ∧
      (∀ rows c2, fabCombine ent.slug = true → cA.combineRows e.toNat ent.slug t0 g = .ok rows → cA.combineSend e.toNat k t0 g rows = .ok c2 →
        exec row s = goesOn c2)) ∧
    (∀ k, ent.prog.phase = 2 → c1.a2aOf e.toNat ent.id = some k → c1.marksDone k = true → fabFlagEn ent.slug = false →
      c1.fabWaiting e.toNat ent.id = false → c1.fabAnswers e.toNat ent.id = [] →
      ∃ t, exec row s = .next t ∧ Completed t e ent .success 0 ∧ t.chip.a2aOf e.toNat ent.id = none ∧ t.chip.mem = c1.mem)

/-! ### HOST slugs -/

/-- HOST slugs (R328, R329, R334). WRITEBACK sends the MODIFIED lines of its tensor to host memory, WRITEBACK_ALL every MODIFIED line; each is
left SHARED, and its bytes stand in host memory, poisoned where the line holds an uncorrectable error. DROP does as WRITEBACK and then drops the tensor's lines that are not pinned, with their
platen copies. A HOST slug waits while no CXL.cache request can be issued. -/
def Says.host_slugs_write_back_and_drop : Prop :=
  (∀ (s : State) (e : EngineNo) (src : SlugSrc) (c1 : Chip) (ent : QEntry) (t : Option TD), Runs s e src .host c1 ent →
    slugClass ent.slug = 6 → Chip.checkHost ent = .ok t → (∀ td, t = some td → ∀ l ∈ Chip.hostLinesOf td, l < 2 ^ 46) → c1.formeDown = [] →
    let row : Instr := match slugOp ent.slug with | 0 => .writeback e src | 1 => .writebackAll e src | _ => .hostDrop e src
    (c1.hostAvail = false → exec row s = withChip s ((c1.updEntry e.toNat .host ent).pumpE e.toNat)) ∧
    (c1.hostAvail = true →
      (slugOp ent.slug = 1 → exec row s = endsOn s e .host ent 0 (c1.hostFlush fun _ => true)) ∧
      (∀ td, t = some td → slugOp ent.slug = 0 → exec row s = endsOn s e .host ent 0 (c1.hostFlush (Chip.hostLinesOf td).contains)) ∧
      (∀ td, t = some td → slugOp ent.slug = 2 → (c1.host.lines.map (·.1)).Pairwise (· < ·) → ∃ c2, exec row s = endsOn s e .host ent 0 c2 ∧
        c2.mem = c1.mem ∧ c2.host.mem = (c1.hostFlush (Chip.hostLinesOf td).contains).host.mem ∧
        c2.host.lines = (c1.hostFlush (Chip.hostLinesOf td).contains).host.lines.filter (fun p => p.2.pinned || !(Chip.hostLinesOf td).contains p.1) ∧
        ∀ x, x < 64 → ∀ l ∈ (c2.engine x).cache, ¬ (l.space.toNat = 2 ∧ (l.addr / 64 ∈ Chip.hostLinesOf td ∨ l.addr / 64 + 1 ∈ Chip.hostLinesOf td))))) ∧
  (∀ (c : Chip) (sel : Nat → Bool), (c.host.lines.map (·.1)).Pairwise (· < ·) →
    let c2 := c.hostFlush sel
    c2.host.lines = c.host.lines.map (fun p => if p.2.state == .modified && sel p.1 then (p.1, { p.2 with state := .shared }) else p) ∧
    (∀ p ∈ c.host.lines, p.2.state = .modified → sel p.1 = true → ∀ i, i < 64 → c2.hostByte (64 * p.1 + i) = BitVec.ofNat 8 (p.2.data.toNat >>> (8 * i))) ∧
    (∀ p ∈ c.host.lines, p.2.state = .modified → sel p.1 = true → p.2.ue = true → p.1 ∈ c2.host.poison) ∧
    (∀ a, (∀ p ∈ c.host.lines, p.2.state = .modified → sel p.1 = true → p.1 ≠ a / 64) → c2.hostByte a = c.hostByte a) ∧
    c2.mem = c.mem ∧ c2.engines = c.engines)

/-! ### The spike and the proofreader -/

/-- Records on the spike (R217 to R225). A PUSH that finds room in the spike part places its record, the header and the packed elements of the
source, on top of its frame; without room it begins spills and waits. Each record that is spilled is the bottommost resident record of the
most recently opened frame that has one (R222). A POP whose frame's top record matches its destination stores the
record's elements as a COPY would and removes the record; a DROP removes it; an empty frame is an underflow. A spill that is acknowledged has
its record's bytes in HBM, and FILL_BACK brings the topmost spilled record of the earliest opened frame back, unless its write is still on
the way. -/
def Says.records_are_pushed_popped_and_spilled : Prop :=
  (∀ (s : State) (e : EngineNo) (src : SlugSrc) (c1 : Chip) (ent : QEntry), Runs s e src .spike c1 ent → slugClass ent.slug = 7 →
    c1.checkFrame e.toNat ent.slug = .ok () → ent.prog = {} →
    let f := fld ent.slug 81 78
    let recs := (c1.frameOf e.toNat f).recs
    let kept (t : State) : Prop := ((c1.spikeOf e.toNat).frame.map (·.1)).Pairwise (· < ·) → ∀ g, g ≠ f → t.chip.frameOf e.toNat g = c1.frameOf e.toNat g
    (∀ td, slugOp ent.slug = 0 → Untouched c1 e ent → ent.tdReq (fld ent.slug 77 68) = .ok td → PlainRead c1 e td →
      let size := recordSize (payloadBytes td)
      (c1.partUsed e.toNat + size ≤ c1.partSize e.toNat → ∃ t, exec (.push e src) s = .next t ∧ Completed t e ent .success 0 ∧
        (t.chip.frameOf e.toNat f).recs =
          { header := spikeHeader (fld ent.slug 107 92) (fld ent.slug 91 82) (if recs = [] then 0 else (c1.frameOf e.toNat f).pushes) td,
            payload := packElems td.fmt ((List.range td.count).map fun i => c1.rawAt td (coordsOf td.ext i)) } :: recs ∧
        (t.chip.engine e.toNat).layer = fld ent.slug 91 82 ∧ t.chip.mem = c1.mem ∧ kept t) ∧
      (∀ c2, size ≤ c1.partSize e.toNat → c1.partSize e.toNat < c1.partUsed e.toNat + size →
        Chip.makeRoom ((c1.setLayer e.toNat ent.slug).recCount e.toNat + 1) e.toNat size (c1.setLayer e.toNat ent.slug) = some c2 →
        exec (.push e src) s = withChip s ((c2.updEntry e.toNat .spike ent).pumpE e.toNat))) ∧
    (∀ d r h payload, slugOp ent.slug = 1 → Untouched c1 e ent → ent.tdReq (fld ent.slug 77 68) = .ok d → PlainWrite c1 e d →
      (c1.setLayer e.toNat ent.slug).topRecord e.toNat ent.slug = .ok (r, h, payload) → fld h 32 30 = d.ndim →
      (∀ i, i < 6 → fld h (151 + 24 * i) (128 + 24 * i) = d.ext.getD i 1) → (c1.setLayer e.toNat ent.slug).recordBad e.toNat r = none →
      ∃ t, exec (.pop e src) s = .next t ∧ Completed t e ent .success 0 ∧ (t.chip.frameOf e.toNat f).recs = recs.tail ∧ kept t ∧
        MemAfter c1 ((List.range d.count).map fun i =>
          { addr := d.addr (coordsOf d.ext i), fmt := d.fmt, high := d.high (coordsOf d.ext i),
            bits := convElem ((Fmt.ofCode (fld h 29 26)).getD .fp32) d.fmt (Chip.ctlOf ent d i)
              (unpackElem ((Fmt.ofCode (fld h 29 26)).getD .fp32) payload i) }) t) ∧
    (∀ x, slugOp ent.slug = 2 → (c1.setLayer e.toNat ent.slug).topRecord e.toNat ent.slug = .ok x →
      exec (.spikeDrop e src) s = endsOn s e .spike ent 0 ((c1.setLayer e.toNat ent.slug).dropTop e.toNat f)) ∧
    (recs = [] → (slugOp ent.slug = 2 ∨ (slugOp ent.slug = 1 ∧ ∃ d, ent.tdReq (fld ent.slug 77 68) = .ok d)) →
      ∃ t, exec (if slugOp ent.slug = 2 then .spikeDrop e src else .pop e src) s = .next t ∧ Completed t e ent .spikeUnderflow 0 ∧ t.chip.mem = c1.mem)) ∧
  (∀ (s : State) (e : EngineNo), s.chip.formesUp = true → s.chip.engines.length = 64 →
    (∀ f i r a c2, s.chip.spillingRec e.toNat = some (f, i, r) → r.spill = some a →
      s.chip.writeLocal (e.toNat / 16) (some e.toNat) (Chip.cellsAt a (recordBytes r.header r.payload)) = .ok c2 →
      (s.chip.engine e.toNat).retired = true ∨ (s.chip.engine e.toNat).qSpike = [] → s.chip.admits e.toNat = false →
      exec (.spillDone e) s = withChip s (c2.onFrame e.toNat f fun fr =>
        { fr with recs := modifyAt (fun r => { r with header := 0, payload := [], acked := true }) fr.recs i })) ∧
    (∀ f i r a, s.chip.fillFrame e.toNat = some f → (s.chip.frameOf e.toNat f).recs.zipIdx.find? (fun (r, _) => r.spill.isSome) = some (r, i) →
      r.spill = some a → r.acked = true → r.lost = false → s.chip.partUsed e.toNat + s.chip.recSize r ≤ s.chip.partSize e.toNat → s.chip.ue = [] →
      (∀ b ∈ addrRange a (s.chip.recSize r), s.chip.accessError (e.toNat / 16) b = none) →
      let h := BitVec.ofNat 512 (s.chip.mem.read a 64)
      exec (.fillBack e) s = withChip s ((s.chip.recordFetch e.toNat r).onFrame e.toNat f fun fr => { fr with recs := modifyAt (fun r => { r with
        header := h, payload := (addrRange (a + 64) (fld h 127 64)).map s.chip.mem.get, spill := none, acked := true, ue := false }) fr.recs i })) ∧
    (∀ f r i, s.chip.fillFrame e.toNat = some f → (s.chip.frameOf e.toNat f).recs.zipIdx.find? (fun (r, _) => r.spill.isSome) = some (r, i) →
      r.acked = false → exec (.fillBack e) s = .next s)) ∧
  (∀ (c : Chip) (e : Nat), c.engines.length = 64 → e < 64 → ((c.spikeOf e).frame.map (·.1)).Pairwise (· < ·) →
    let frames := (c.spikeOf e).frame
    (∀ fuel need c2, c.partSize e < c.partUsed e - c.freeing e + need → Chip.makeRoom fuel e need c = some c2 →
      ∃ f c1, c.spillFrame e = some f ∧ c.startSpill e f = some c1) ∧
    (∀ f, c.spillFrame e = some f → ∃ fr, (f, fr) ∈ frames ∧ (∃ r ∈ fr.recs, r.spill = none) ∧
      ∀ p ∈ frames, (∃ r ∈ p.2.recs, r.spill = none) → p.2.opened ≤ fr.opened) ∧
    (∀ f c1, c.startSpill e f = some c1 → ∃ i r, (c.frameOf e f).recs[i]? = some r ∧ r.spill = none ∧
      (∀ j x, i < j → (c.frameOf e f).recs[j]? = some x → x.spill ≠ none) ∧
      (c1.frameOf e f).recs = (c.frameOf e f).recs.set i { r with spill := some (c.shareBase e f + c.spilledBytes (c.frameOf e f)), acked := false } ∧
      ∀ g, g ≠ f → c1.frameOf e g = c.frameOf e g) ∧
    (∀ f, c.fillFrame e = some f → ∃ fr, (f, fr) ∈ frames ∧ (∃ r ∈ fr.recs, r.spill ≠ none ∧ r.acked = true) ∧
      ∀ p ∈ frames, (∃ r ∈ p.2.recs, r.spill ≠ none ∧ r.acked = true) → fr.opened ≤ p.2.opened))

/-- The spike's settings and the proofreader (R227, R228, R234 to R237). SPILL_SET places the spill region, LAYER_SET sets the current layer,
CLEAR empties every frame, LOSS_CLEAR zeroes the loss accumulator. LOSS_TEST tests the accumulated loss, clearing the accumulator, or the loss
its TD names: a loss within the limit moves the mean and the variance, and any other is a spike, recorded with HOLD set under RECORD_HOLD. -/
def Says.layers_losses_and_frames_are_set : Prop :=
  (∀ (s : State) (e : EngineNo) (src : SlugSrc) (c1 : Chip) (ent : QEntry), Runs s e src .spike c1 ent → slugClass ent.slug = 7 →
    Chip.spikeReserved ent.slug = false →
    let sl := ent.slug
    (slugOp sl = 3 → c1.recCount e.toNat = 0 →
      (fld sl 207 192 = 0 ∨ (fld sl 191 128 % 0x100000 = 0 ∧ fld sl 191 128 + (fld sl 113 110 + 1) * fld sl 207 192 * 0x100000 ≤ hbmTop)) →
      exec (.spillSet e src) s = endsOn s e .spike ent 0 (c1.onEngine e.toNat fun x => { x with spike := { x.spike with
        frames := fld sl 113 110 + 1, base := if fld sl 207 192 = 0 then 0 else fld sl 191 128, shareMib := fld sl 207 192 } })) ∧
    (slugOp sl = 4 → exec (.layerSet e src) s = endsOn s e .spike ent 0 (c1.onEngine e.toNat fun x => { x with layer := fld sl 91 82 })) ∧
    (slugOp sl = 5 → bit sl 109 = false →
      let l := (c1.engine e.toNat).loss
      (l.count = 0 → exec (.lossTest e src) s = endsOn s e .spike ent 0 c1) ∧
      (l.count ≠ 0 → exec (.lossTest e src) s = endsOn s e .spike ent 0 ((c1.onEngine e.toNat fun x => { x with loss := {} }).testLoss e.toNat
        (fld sl 319 256) (divF (addGroup l.acc (l.group.map f32)) (natF l.count))))) ∧
    (slugOp sl = 5 → bit sl 109 = true → ∀ td v c2, ent.tdReq (fld sl 77 68) = .ok td → td.fmt = .fp32 → td.count = 1 → td.space = .lcl →
      c1.loadAt e.toNat ent td (coordsOf td.ext 0) = (.ok v, c2) →
      exec (.lossTest e src) s = endsOn s e .spike ent 0 (c2.testLoss e.toNat (fld sl 319 256) v.bits)) ∧
    (slugOp sl = 6 → exec (.lossClear e src) s = endsOn s e .spike ent 0 (c1.onEngine e.toNat fun x => { x with loss := {} })) ∧
    (slugOp sl = 7 → exec (.clear e src) s = endsOn s e .spike ent 0 (c1.onEngine e.toNat fun x => { x with spike := { x.spike with frame := [] } }))) ∧
  (∀ (c : Chip) (e step : Nat) (x : W32),
    let p := c.prf
    let r := Chip.lossTest c.imp.prfK c.imp.prfAlphaLog2 c.imp.prfWarmup p.mean p.var p.n x
    let nf := p.nfAsSpike && c.grown
    (∀ m v n, nf = false → r = some (m, v, n) → c.testLoss e step x = { c with prf := { p with seen := c.nonFinite, mean := m, var := v, n } }) ∧
    (nf = true ∨ r = none → let c2 := c.testLoss e step x
      c2.prf = { p with seen := c.nonFinite, spiked := true, hold := p.hold || p.action } ∧ c2.engines = c.engines ∧ c2.mem = c.mem ∧
      ∃ ev, c2.evq = c.evq ++ [ev] ∧ ev.code = evLossSpike ∧ ev.sev = .deferred ∧
        ev.detail = [BitVec.ofNat 64 step, x.setWidth 64, p.mean.setWidth 64, p.var.setWidth 64, BitVec.ofNat 64 e, BitVec.ofNat 64 nf.toNat]) ∧
    (((f32 x).isNaN = true ∨ (f32 x).isInf = true) → r = none) ∧
    ((f32 x).isNaN = false → (f32 x).isInf = false → p.n.toNat < c.imp.prfWarmup →
      let d := subF x p.mean
      let alpha := if p.n.toNat + 1 < 2 ^ c.imp.prfAlphaLog2 then divF f32One (natF (p.n.toNat + 1)) else toF32 (.fin false 1 (-(c.imp.prfAlphaLog2 : Int)))
      r = some (fmaF alpha d p.mean, mulF (subF f32One alpha) (fmaF (mulF alpha d) d p.var), if p.n = BitVec.allOnes 32 then p.n else p.n + 1)))

/-! ### The corrector -/

/-- An UPDATE slug goes on in its context `x` on the chip `c2`: the slug has been issued, admission has proceeded, the head of the queue is
the slug of the context, and it begins now or has begun (R250, R251). -/
def UpRuns (s : State) (e : EngineNo) (src : SlugSrc) (op : Nat) (c2 : Chip) (x : CorCtx) : Prop :=
  s.chip.formesUp = true ∧ s.chip.engines.length = 64 ∧ s.chip.cors.length = 4 ∧ slugOp x.entry.slug = op ∧ x.entry.began = true ∧
  (c2.ctxOf e.toNat = some x) ∧ ∃ c1 q rest, c1 = (s.chip.issueFirst e.toNat src.word).pumpE e.toNat ∧ (c1.engine e.toNat).qUpdate = q :: rest ∧
    q.slug = x.entry.slug ∧ c2 = c1.tryBegin e.toNat

/-- Consecutive bytes as element writes. -/
def byteWrites (a : Nat) (bs : List Byte) : List Chip.EWrite :=
  bs.zipIdx.map fun (b, i) => { addr := a + i, bits := b.toNat, fmt := .int8, high := false }

/-- No unit of memory is bad, the forme may write every byte of the writes, and none of them falls among the bytes `away`. -/
def Writable (c : Chip) (e : EngineNo) (ws : List Chip.EWrite) (away : List Nat) : Prop :=
  c.ue = [] ∧ (∀ a, (cellAt a (Chip.cellsOf c.mem.get ws)).isSome = true → c.accessError (e.toNat / 16) a = none) ∧
  ∀ a ∈ away, cellAt a (Chip.cellsOf c.mem.get ws) = none

/-- The descriptor's last fields as an UPDATE slug leaves them (R246). -/
def descWrites (ent : QEntry) (step fpW fpS : Nat) (ex : Int) : List Chip.EWrite :=
  byteWrites (upShard ent.slug + 64) (toBytes 8 step ++ toBytes 8 fpW ++ toBytes 8 fpS ++ toBytes 1 (bitsOfInt 8 ex))

/-- Writes to a TD that may be absent. -/
def optWrites (t : Option TD) (f : TD → List Chip.EWrite) : List Chip.EWrite := match t with | none => [] | some t => f t

/-- FP32 words of a TD in LOCAL memory, and of one that may be absent. -/
def memWords (c : Chip) (t : Option TD) : List W32 :=
  match t with | none => [] | some t => (List.range t.count).map fun i => BitVec.ofNat 32 (c.rawAt t (coordsOf t.ext i))

/-- Every TD of an UPDATE slug lies in LOCAL memory that its forme may read, the state in FP32. -/
def AllLocal (c : Chip) (e : EngineNo) (t : UTds) : Prop :=
  (∀ td ∈ t.all, td.space = .lcl ∧ FabReads c e td) ∧ ∀ td ∈ [t.grad, t.master, t.st0, t.st1].filterMap id, td.fmt = .fp32

/-- APPLY (R252, R255 to R257, R260, R263) and APPLY_DELTA (R261). An APPLY on LOCAL memory leaves the new moments or factors, the new master weights, their
working copy, the carried deltas with their header, the release flag and the descriptor, and completes with its chunks; a slow-tier APPLY
parks the first chunks that its parking area holds. The hyperparameter block and the shard descriptor are those that the slug read when it
began (R246, R254). An APPLY_DELTA whose header continues the shard subtracts the delta, and completes with the
descriptor written when the fingerprint agrees, and with REPLICA_DIVERGED otherwise. -/
def Obligations.apply_slugs_update_their_shard : Prop :=
  (∀ (s : State) (e : EngineNo) (src : SlugSrc) (c2 : Chip) (x : CorCtx), UpRuns s e src 0 c2 x → x.entry.prog = {} → Untouched c2 e x.entry →
    let ent := x.entry
    let t := Chip.ctxTds x
    let h := Hyper.read x.hyper
    (c2.slowTier 0 t = false → AllLocal c2 e t → (∀ g, t.grad = some g → g.count = Chip.masterCount t) →
      (∀ m, fld ent.slug 69 68 = 0 → t.st0 = some m → m.count = Chip.masterCount t) →
      let ncol := (t.master.map fun m => m.ext.headD 0).getD 0
      let nrow := (t.master.map fun m => m.ext.getD 1 1).getD 0
      let grad := memWords c2 t.grad
      let w := memWords c2 t.master
      let f := factors h ncol nrow grad (memWords c2 t.st0) (memWords c2 t.st1)
      let mom : Bool := fld ent.slug 69 68 == 0
      let o := if mom then applyMomentum h (upCarry ent.slug) x.e (grad.zip (w.zip (memWords c2 t.st0)))
        else applyFactored h (upCarry ent.slug) x.e ncol nrow f.1 f.2 (grad.zipIdx.zip w |>.map fun ((g, i), w) => (i, g, w))
      let n0 := if mom then o.m else f.1
      let n1 := if mom then [] else f.2
      let fpW := fingerprint o.w
      let ws := (if bit ent.slug 85 then byteWrites (upAux ent.slug) (toBytes 8 h.step) else []) ++
        optWrites t.st0 (fun td => Chip.wordWrites td 0 n0) ++ (if n1 = [] then [] else optWrites t.st1 fun td => Chip.wordWrites td 0 n1) ++
        optWrites t.master (fun td => Chip.wordWrites td 0 o.w) ++ optWrites t.work (fun td => Chip.workWrites ent td 0 o.w) ++
        optWrites t.delta (fun td => (o.c.zipIdx.map fun (v, i) => { addr := td.addr (coordsOf td.ext i), bits := v, fmt := td.fmt, high := false }) ++
          byteWrites (td.base - 64) (toBytes 64 (c2.deltaHeader ent x.desc x.e h.step fpW).toNat)) ++
        descWrites ent h.step fpW (fingerprint (n0 ++ n1)) x.e
      Writable c2 e ws [] →
      ∃ u, exec (.applyStep e src) s = .next u ∧ Completed u e ent .success (chunksOf (Chip.masterCount t)) ∧ MemAfter c2 ws u) ∧
    (∀ c3, c2.slowTier 0 t = true → x.fail = false → 0 < Chip.masterCount t →
      (∀ ent1 c0, x.started = false → fld ent.slug 69 68 = 0 → c2.gather e.toNat .update ent [] t.work.toList 256 (Chip.corUnit e.toNat) = (.ready, ent1, c0) →
        Chip.parkChunks 64 e.toNat ent1 t (c0.onCtx e.toNat fun x => { x with started := true, row := [], col := [], entry := ent1 }) = .ok c3 →
        exec (.applyStep e src) s = withChip s (c3.pumpE e.toNat)) ∧
      (x.started = true → Chip.parkChunks 64 e.toNat ent t c2 = .ok c3 → exec (.applyStep e src) s = withChip s (c3.pumpE e.toNat)))) ∧
  (∀ (s : State) (e : EngineNo) (src : SlugSrc) (c2 : Chip) (x : CorCtx), UpRuns s e src 1 c2 x → x.entry.prog = {} → Untouched c2 e x.entry →
    let ent := x.entry
    let t := Chip.ctxTds x
    let d := x.desc
    ∀ dt, t.delta = some dt → dt.count = Chip.masterCount t → AllLocal c2 e t → FabReads c2 e (Chip.headerTd dt) →
    let h := BitVec.ofNat 512 (c2.seenWord (dt.base - 64) 64)
    let ex := signedOf 8 (fld h 49 42)
    fld h 31 0 = descShard d → descStep d < fld h 127 64 → fld h 53 50 = dt.fmt.code → dt.fmt ≠ .int4 → 64 ≤ dt.base →
    let w1 := ((memWords c2 t.master).zip ((List.range (Chip.masterCount t)).map fun i => c2.rawAt dt (coordsOf dt.ext i))).map fun (w, b) =>
      toF32 (FVal.sub (f32 w) ((dt.fmt.decode b).scale (-ex)))
    let ws := (if bit ent.slug 85 then byteWrites (upAux ent.slug) (toBytes 8 (fld h 127 64)) else []) ++
      optWrites t.master (fun td => Chip.wordWrites td 0 w1) ++ optWrites t.work (fun td => Chip.workWrites ent td 0 w1)
    (fingerprint w1 = fld h 191 128 → Writable c2 e (ws ++ descWrites ent (fld h 127 64) (fingerprint w1) (descFpS d) ex) [] →
      ∃ u, exec (.applyDelta e src) s = .next u ∧ Completed u e ent .success (chunksOf (Chip.masterCount t)) ∧
        MemAfter c2 (ws ++ descWrites ent (fld h 127 64) (fingerprint w1) (descFpS d) ex) u) ∧
    (fingerprint w1 ≠ fld h 191 128 → Writable c2 e ws [] →
      ∃ u, exec (.applyDelta e src) s = .next u ∧ Completed u e ent .replicaDiverged (chunksOf (Chip.masterCount t)) ∧ MemAfter c2 ws u))

/-- FP_EXCHANGE and REPAIR (R265 to R270). FP_EXCHANGE writes its record to the peer's inbox, then the seal, each once the write before it has
succeeded, and waits; a sealed record of the same step that agrees completes it, one that does not is a divergence, another step or shard is
FP_RECORD_MISMATCH, an older seal leaves it waiting, and the timeout ends it with FP_TIMEOUT. A REPAIR whose copy of the peer's shard has the
fingerprints of the peer's descriptor leaves that shard, its working copy and its descriptor here; a copy that has not is REPAIR_UNSTABLE. -/
def Says.fingerprints_are_exchanged_and_shards_repaired : Prop :=
  (∀ (s : State) (e : EngineNo) (src : SlugSrc) (c2 : Chip) (x : CorCtx), UpRuns s e src 2 c2 x →
    let ent := x.entry
    let d := x.desc
    let inbox := upPeer ent.slug * 2 ^ 48 + upAux ent.slug
    let sends (c : Chip) (p : Nat) (a : Nat) (bs : List Byte) : Chip :=
      let ent1 := { ent with prog := { ent.prog with phase := p } }
      ((c.onCtx e.toNat fun x => { x with entry := ent1 }).updEntry e.toNat .update ent1).request e.toNat ent.id 1 (a >>> 48)
        { opcode := opWrite, dst := a >>> 48, addr := a % 2 ^ 48, unit := Chip.corUnit e.toNat } bs
    let record (w sp : Nat) : List Byte := toBytes 56 (descStep d + descShard d <<< 64 + c2.fab.deviceId <<< 96 + w <<< 128 + sp <<< 192)
    let answered : Prop := c2.fabWaiting e.toNat ent.id = false ∧ ∀ r ∈ c2.fabAnswers e.toNat ent.id, ∃ bs, r.answer = some (.success, bs)
    (ent.prog.phase = 0 → bit ent.slug 86 = false → exec (.fpExchange e src) s = withChip s ((sends (c2.onCtx e.toNat fun x =>
      { x with fpW := BitVec.ofNat 64 (descFpW d), fpS := BitVec.ofNat 64 (descFpS d) }) 1 inbox (record (descFpW d) (descFpS d))).pumpE e.toNat)) ∧
    (ent.prog = {} → bit ent.slug 86 = true → upPeer ent.slug ≠ c2.fab.deviceId → Untouched c2 e ent → AllLocal c2 e (Chip.ctxTds x) → c2.ue = [] →
      let t := Chip.ctxTds x
      let w := fingerprint (memWords c2 t.master)
      let sp := fingerprint (memWords c2 t.st0 ++ memWords c2 t.st1)
      ∃ u x1, exec (.fpExchange e src) s = .next u ∧ u.chip.ctxOf e.toNat = some x1 ∧ x1.fpW = BitVec.ofNat 64 w ∧ x1.fpS = BitVec.ofNat 64 sp ∧
        x1.entry.prog.phase = 1 ∧ (∃ r ∈ u.chip.fab.reqs, r.engine = e.toNat ∧ r.entry = ent.id ∧ r.payload = record w sp) ∧ u.chip.mem = c2.mem ∧
        ((w ≠ descFpW d ∨ sp ≠ descFpS d) → ∃ ev ∈ u.chip.evq, ev.code = evStateChanged ∧ ev.sev = .deferred)) ∧
    (ent.prog.phase = 1 → answered → exec (.fpExchange e src) s =
      withChip s ((sends (c2.clearReqs e.toNat ent.id) 2 (inbox + 56) (toBytes 8 (descStep d))).pumpE e.toNat)) ∧
    (ent.prog.phase = 2 → answered → let ent1 := { ent with prog := { ent.prog with phase := 3 } }
      exec (.fpExchange e src) s = withChip s ((((c2.clearReqs e.toNat ent.id).onCtx e.toNat fun x => { x with entry := ent1, waitPeer := true }).updEntry
        e.toNat .update ent1).pumpE e.toNat))) ∧
  (∀ (s : State) (e : EngineNo) (x : CorCtx), s.chip.formesUp = true → s.chip.engines.length = 64 → s.chip.ctxOf e.toNat = some x → x.waitPeer = true →
    s.chip.ue = [] → (∀ b ∈ addrRange (upAux x.entry.slug) 64, s.chip.accessError (e.toNat / 16) b = none) →
    let ent := x.entry
    let d := x.desc
    let r := BitVec.ofNat 512 (s.chip.seenWord (upAux ent.slug) 64)
    let same : Prop := fld r 511 448 = descStep d ∧ fld r 63 0 = descStep d ∧ fld r 95 64 = descShard d
    let agrees : Prop := fld r 191 128 = x.fpW.toNat ∧ (descLockstep d = false ∨ fld r 255 192 = x.fpS.toNat)
    let read := s.chip.corTouch e.toNat (upAux ent.slug) 64
    (fld r 511 448 < descStep d → exec (.fpRecordArrived e) s = withChip s read ∧
      exec (.fpTimeout e) s = withChip s (s.chip.endUpdate e.toNat ent .fpTimeout 0)) ∧
    (descStep d ≤ fld r 511 448 → exec (.fpTimeout e) s = .next s) ∧
    (descStep d ≤ fld r 511 448 → ¬ same → exec (.fpRecordArrived e) s = withChip s (read.endUpdate e.toNat ent .fpRecordMismatch 0)) ∧
    (same → agrees → exec (.fpRecordArrived e) s = withChip s (read.endUpdate e.toNat ent .success 0)) ∧
    (same → ¬ agrees → ent.began = true → ∃ u, exec (.fpRecordArrived e) s = .next u ∧ Completed u e ent .replicaDiverged 0 ∧ u.chip.mem = s.chip.mem)) ∧
  (∀ (s : State) (e : EngineNo) (src : SlugSrc) (c2 : Chip) (x : CorCtx), UpRuns s e src 3 c2 x → x.entry.prog = {} →
    let ent := x.entry
    let t := Chip.ctxTds x
    let peer := upPeer ent.slug
    let far (o : Option TD) : Option TD := o.map (Chip.onPeer peer)
    let pd := Chip.descTd peer (upShard ent.slug)
    (∀ td ∈ t.all, td.space = .lcl) → t.park = none →
    ∀ ent1 c3 hb w s0 s1 c4, c2.gather e.toNat .update ent (pd :: ([far t.master, far t.st0, far t.st1].filterMap id)) t.work.toList 256 (Chip.corUnit e.toNat) = (.ready, ent1, c3) →
      c3.corBytes e.toNat ent1 pd 0 128 = .ok hb → c3.shardWords e.toNat ent1 (far t.master) (far t.st0) (far t.st1) = .ok (w, s0, s1, c4) →
      c3.fabWaiting e.toNat ent.id = false → c3.fabAnswers e.toNat ent.id = [] →
      let r : Desc := BitVec.ofNat 1024 (ofBytes hb)
      let ex := signedOf 8 (fld r 711 704)
      let ws := optWrites t.master (fun td => Chip.wordWrites td 0 w) ++ optWrites t.st0 (fun td => Chip.wordWrites td 0 s0) ++
        optWrites t.st1 (fun td => Chip.wordWrites td 0 s1) ++ optWrites t.work (fun td => Chip.workWrites ent1 td 0 w)
      let agree : Prop := descFpW r = fingerprint w ∧ descFpS r = fingerprint (s0 ++ s1)
      (agree → Writable c3 e (ws ++ descWrites ent (descStep r) (descFpW r) (descFpS r) ex) [] →
        ∃ u, exec (.repair e src) s = .next u ∧ Completed u e ent .success (chunksOf (Chip.masterCount t)) ∧
          MemAfter c3 (ws ++ descWrites ent (descStep r) (descFpW r) (descFpS r) ex) u ∧
          u.chip.layerOf (e.toNat / 16) (upLayer ent.slug) = { e := ex, s := BitVec.ofNat 64 (descStep r), lmax := none }) ∧
      (¬ agree → Writable c3 e ws [] → ∃ u, exec (.repair e src) s = .next u ∧ Completed u e ent .repairUnstable (chunksOf (Chip.masterCount t))))

/-- Images, chunks and the beginning of UPDATE slugs (R250, R251, R257, R258, R263, R271, R272). An EXPORT on LOCAL memory leaves the header and the payload in
its image; an IMPORT whose image matches leaves the shard, its working copy, its exponent and its descriptor. A forme's corrector begins the
head that its checks and gates pass, under the exponent of its layer, and none under HOLD. A slow-tier chunk whose state has come is
computed and put back; one whose puts are acknowledged frees its slot, and the next chunks are parked. -/
def Says.images_chunks_and_the_begin_of_updates : Prop :=
  (∀ (s : State) (e : EngineNo) (src : SlugSrc) (c2 : Chip) (x : CorCtx), UpRuns s e src 4 c2 x → x.entry.prog = {} → Untouched c2 e x.entry →
    let ent := x.entry
    let t := Chip.ctxTds x
    let w := memWords c2 t.master
    let s0 := memWords c2 t.st0
    let s1 := memWords c2 t.st1
    ∀ img, t.delta = some img → AllLocal c2 e t →
      let bytes := toBytes 128 (Chip.imageHeader x.desc t (fingerprint w) (fingerprint (s0 ++ s1))).toNat ++ wordBytes (w ++ s0 ++ s1)
      let ws : List Chip.EWrite := bytes.zipIdx.map fun (b, i) => { addr := img.addr (coordsOf img.ext i), bits := b.toNat, fmt := .int8, high := false }
      Writable c2 e ws [] → img.fmt = .int8 → ∃ u, exec (.exportImage e src) s = .next u ∧
        Completed u e ent .success (chunksOf (Chip.masterCount t)) ∧ MemAfter c2 ws u) ∧
  (∀ (s : State) (e : EngineNo) (src : SlugSrc) (c2 : Chip) (x : CorCtx), UpRuns s e src 5 c2 x → x.entry.prog = {} → Untouched c2 e x.entry →
    let ent := x.entry
    let t := Chip.ctxTds x
    ∀ img, t.delta = some img → AllLocal c2 e t → img.fmt = .int8 → 128 + imagePayload t ≤ img.count →
      let image (i n : Nat) : List Byte := (List.range n).map fun k => BitVec.ofNat 8 (c2.rawAt img (coordsOf img.ext (i + k)))
      let h : Desc := BitVec.ofNat 1024 (ofBytes (image 0 128))
      let ex := signedOf 8 (fld h 711 704)
      let size (td : Option TD) : Nat := match td with | none => 0 | some td => td.count
      let words (i n : Nat) : List W32 := (List.range n).map fun k => BitVec.ofNat 32 (ofBytes (image (i + 4 * k) 4))
      let w := words 128 (size t.master)
      let s0 := words (128 + 4 * size t.master) (size t.st0)
      let s1 := words (128 + 4 * size t.master + 4 * size t.st0) (size t.st1)
      let ws := optWrites t.master (fun td => Chip.wordWrites td 0 w) ++ optWrites t.st0 (fun td => Chip.wordWrites td 0 s0) ++
        optWrites t.st1 (fun td => Chip.wordWrites td 0 s1) ++ optWrites t.work (fun td => Chip.workWrites ent td 0 w)
      Chip.imageMatches h x.desc t = true →
      (descFpW h = fingerprint w → descFpS h = fingerprint (s0 ++ s1) →
        Writable c2 e (ws ++ descWrites ent (descStep h) (descFpW h) (descFpS h) ex) [] → ∃ u, exec (.importImage e src) s = .next u ∧
          Completed u e ent .success (chunksOf (Chip.masterCount t)) ∧
          MemAfter c2 (ws ++ descWrites ent (descStep h) (descFpW h) (descFpS h) ex) u ∧
          u.chip.layerOf (e.toNat / 16) (upLayer ent.slug) = { e := ex, s := BitVec.ofNat 64 (descStep h), lmax := none }) ∧
      (¬ (descFpW h = fingerprint w ∧ descFpS h = fingerprint (s0 ++ s1)) → Writable c2 e ws [] →
        ∃ u, exec (.importImage e src) s = .next u ∧ Completed u e ent .imageCorrupt (chunksOf (Chip.masterCount t)))) ∧
  (∀ (s : State) (f : FormeNo), s.chip.formesUp = true → s.chip.cors.length = 4 →
    (s.chip.prf.hold = true → exec (.updateBegin f) s = .next s) ∧
    (∀ e q t d h ex c1, e / 16 = f.toNat → (s.chip.cor f.toNat).turn = (e + 15) % 16 → (s.chip.cor f.toNat).ctxs = [] → s.chip.formeDown = [] →
      s.chip.prf.hold = false → s.chip.slotRoom (Chip.corUnit e) ≠ 0 → s.chip.readyHead e .update = some q → let ent := { q with began := true }
      s.chip.sessionError ent = none → checkUpdate s.chip e ent = .ok (t, d) → s.chip.gateMet e ent.slug = .ok true → slugOp ent.slug = 0 →
      s.chip.readHyper e ent.slug = .ok h → s.chip.beginApply f.toNat (upLayer ent.slug) (upCarry ent.slug) (Hyper.read h).step = some (ex, c1) →
      exec (.updateBegin f) s = withChip s (((c1.beginReads e ent.slug).updEntry e .update ent).onCor f.toNat fun k =>
        { k with ctxs := [{ engine := e, entry := ent, remote := s.chip.slowTier 0 t, e := ex, desc := d, hyper := h }], turn := e })) ∧
    (∀ l carry step, let x := s.chip.layerOf f.toNat l
      s.chip.beginApply f.toNat l 0 step = some (0, s.chip) ∧
      (carry ≠ 0 → step < x.s.toNat → s.chip.beginApply f.toNat l carry step = none) ∧
      (carry ≠ 0 → step = x.s.toNat → s.chip.beginApply f.toNat l carry step = some (x.e, s.chip)) ∧
      (∀ m, carry ≠ 0 → x.s.toNat < step → x.lmax = some m → (s.chip.beginApply f.toNat l carry step).map (·.1) =
        some (max (-128) (min 127 ((if carry = 1 then 64 else 14) - m)))))) ∧
  (∀ (s : State) (e : EngineNo) (x : CorCtx) (k : CorChunk), s.chip.formesUp = true → s.chip.ctxOf e.toNat = some x → x.fail = false →
    let ent := x.entry
    let t := Chip.ctxTds x
    let gk := Chip.getKey k.idx
    let pk := Chip.putKey k.idx
    (x.chunks.find? (fun k => !k.puts && s.chip.keyDone e.toNat ent.id (Chip.getKey k.idx)) = some k → s.chip.keyBad e.toNat ent.id gk = none →
      ∀ c1, s.chip.chunkCompute e.toNat ent t x k = .ok c1 → exec (.chunkStateArrived e) s = withChip s c1) ∧
    (s.chip.slowTier (slugOp ent.slug) t = true → x.chunks.find? (fun k => k.puts && s.chip.keyDone e.toNat ent.id (Chip.putKey k.idx)) = some k →
      s.chip.keyBad e.toNat ent.id pk = none → x.doneCh + 1 < chunksOf (Chip.masterCount t) →
      let c1 := (s.chip.dropKey e.toNat ent.id pk).onCtx e.toNat fun x => { x with doneCh := x.doneCh + 1, chunks := x.chunks.filter fun q => q.idx != k.idx }
      ∀ c2, Chip.parkChunks 64 e.toNat ent t c1 = .ok c2 → exec (.chunkPutAck e) s = withChip s c2))

/-- A chunk's arithmetic (R252, R255, R263): the state that its gets brought is put into its slot, which holds its gradient, and changes nothing
else; its elements are stepped as an APPLY steps them, and the working copy and the master weights and moments are written, remote ones as
puts of the chunk, which the chunk then awaits. -/
def Says.a_slow_chunk_is_stepped_like_an_apply : Prop :=
  ∀ (c c0 c1 : Chip) (e : EngineNo) (ent : QEntry) (t : UTds) (x : CorCtx) (k : CorChunk), c.chunkCompute e.toNat ent t x k = .ok c1 →
    fld ent.slug 69 68 = 0 → c.ctxOf e.toNat = some x → k ∈ x.chunks → t.delta = none → (∀ td, t.work = some td → td.space = .lcl) →
    let n := Chip.masterCount t
    let entG := { ent with prog := { ent.prog with gotB := c.chunkCells e.toNat ent.id (Chip.getKey k.idx) } }
    ∀ m st p w s0 gs, t.master = some m → t.st0 = some st → t.park = some p →
      (∀ td ∈ [m, st], td.space = .broadsheet ∧ ∀ i, td.addr (coordsOf td.ext i) >>> 48 ≠ c.fab.deviceId) →
      c.corWords e.toNat entG m (Chip.chunkIdx n k.idx) = .ok w → c.corWords e.toNat entG st (Chip.chunkIdx n k.idx) = .ok s0 →
      c.slotState e.toNat t 0 k.slot w s0 = .ok c0 → c0.slotGrad e.toNat t 0 k.slot (Chip.chunkIdx n k.idx).length = .ok gs →
      let o := applyMomentum (Hyper.read x.hyper) (upCarry ent.slug) x.e (gs.zip (w.zip s0))
      (∀ a, (∀ i, i < 0xC000 → a ≠ p.addr [0xC000 * k.slot + i]) → c0.mem.get a = c.mem.get a) ∧
      (∀ a, c1.mem.get a = (cellAt a (Chip.cellsOf c0.mem.get (optWrites t.work fun td => Chip.workWrites ent td (k.idx * 4096) o.w))).getD (c0.mem.get a)) ∧
      (∃ x1, c1.ctxOf e.toNat = some x1 ∧ (∀ q ∈ x1.chunks, q.idx = k.idx → q.puts = true) ∧
        (∀ i, i < o.w.length → Tab.find? (k.idx * 4096 + i) x1.outW = o.w[i]?)) ∧
      (∀ r ∈ c1.keyReqs e.toNat ent.id (Chip.getKey k.idx), False)

/-! ### The data service -/

/-- A job row performs job `j` of slot `sl` on the chip `c1`: a job handed over has been placed, `j` is the ring's oldest begun job, it has no
encoding fault, and it is running now (R356, R357). -/
def JobRuns (s : State) (ring : BitVec 2) (src : JobSrc) (sl : Nat) (j : Job) (c1 : Chip) : Prop :=
  let c0 := s.chip.placeJob ring.toNat src.word
  s.chip.formesUp = true ∧ c0.nextJob ring.toNat = some (sl, j) ∧ Tab.find? sl c0.ds.jobs = some j ∧ c0.ds.stopped = false ∧
  c0.jobError j.word = none ∧ c1 = c0.onJob sl fun j => { j with stage := .running }

/-- The jobs that talk to targets (R360 to R364). JOB_NOP ends at once. CONNECT reads the target descriptor and opens the admin queue pair on the
lowest port up; DISCONNECT closes the controller when its reads have finished. READ asks for the namespace's block size at its first use and
otherwise sends Read commands on I/O queue pairs that together cover every byte of the run, each to its place; ADMIN sends its command with
CDW10 to CDW13 unchanged. Ending a job changes only its stage. -/
def Says.jobs_reach_their_targets : Prop :=
  ∀ (s : State) (ring : BitVec 2) (src : JobSrc) (sl : Nat) (j : Job) (c1 : Chip), JobRuns s ring src sl j c1 →
    let w := j.word
    let k := jobCtrl w
    (jobOp w = 0 → exec (.jobNop ring src) s = withChip s (c1.endJob sl)) ∧
    (∀ bs p ps, jobOp w = 1 → Tab.find? k c1.ds.ctrls = none → c1.readLocal 3 (addrRange (jobAddrA w) 288) = .ok bs →
      c1.upPorts (fld w 199 196) = p :: ps → (c1.ds.ctrls.map fun q => q.2.numIoq).sum + fld w 206 200 ≤ 64 →
      let x : Ctrl := { target := BitVec.ofNat 2304 (ofBytes bs), portMask := fld w 199 196, numIoq := fld w 206 200, qdepth := 2 ^ fld w 209 207,
                        qps := [{ port := p, depth := 2 ^ fld w 209 207 }] }
      exec (.connect ring src) s = withChip s (((c1.onDs fun d => { d with ctrls := Tab.set k x d.ctrls }).send (.qpOpen k 0 p
          (BitVec.ofNat 128 (fld x.target 2175 2048)) (fld x.target 2191 2176))).issueCmd k 0
        (.connect 0 (2 ^ fld w 209 207) 0xFFFF c1.imp.dsHostNqn ((toBytes 256 (fld x.target 2047 0)).takeWhile (· != 0))) 0 0 [] (some sl) .staging)) ∧
    (jobOp w = 1 → (Tab.find? k c1.ds.ctrls).isSome = true → exec (.connect ring src) s = withChip s (c1.rejectJob sl .channelBusy)) ∧
    (∀ bs, jobOp w = 1 → Tab.find? k c1.ds.ctrls = none → c1.readLocal 3 (addrRange (jobAddrA w) 288) = .ok bs →
      (c1.upPorts (fld w 199 196) = [] ∨ 64 < (c1.ds.ctrls.map fun q => q.2.numIoq).sum + fld w 206 200) →
      exec (.connect ring src) s = withChip s (c1.rejectJob sl .connectFailed)) ∧
    (∀ x, jobOp w = 2 → Tab.find? k c1.ds.ctrls = some x →
      let c2 := c1.onCtrl k fun x => { x with closing := true }
      let busy := c1.ds.cmds.any (fun q => q.ctrl == k && q.slot.isSome) || c1.ds.waits.any (fun q => q.ctrl == k)
      (busy = true → exec (.disconnect ring src) s = withChip s c2) ∧
      (busy = false → exec (.disconnect ring src) s = withChip s ((c2.dropCtrl k).endJob sl))) ∧
    (∀ x, jobOp w = 3 → c1.rangeMapped (jobAddrA w) (fld w 415 384) = true → Tab.find? k c1.ds.ctrls = some x → x.phase = .live → x.closing = false →
      (Tab.find? (jobNsid w) x.blocks = none → exec (.read ring src) s = withChip s ((c1.onDs fun d => { d with waits := d.waits ++
        [{ slot := sl, ctrl := k, nsid := jobNsid w, off := fld w 383 320, len := fld w 415 384, dest := .local_ (jobAddrA w) 0 (fld w 415 384) }] }).issueCmd
          k 0 (.identify 0) (jobNsid w) 4096 [] (some sl) .staging)) ∧
      (∀ log2, Tab.find? (jobNsid w) x.blocks = some log2 → 0 < x.numIoq → ∃ t, exec (.read ring src) s = .next t ∧ t.chip.mem = c1.mem ∧
        (Tab.find? sl t.chip.ds.jobs).map Job.stage = some .running ∧
        ∀ i, i < fld w 415 384 → ∃ q ∈ t.chip.ds.cmds, ∃ first n a skip len, q.slot = some sl ∧ q.ctrl = k ∧ 1 ≤ q.qp ∧ q.qp ≤ x.numIoq ∧
          q.cmd.op = .read first n ∧ q.cmd.nsid = jobNsid w ∧ q.cmd.len = n * 2 ^ log2 ∧ q.dest = .local_ a skip len ∧
          a ≤ jobAddrA w + i ∧ jobAddrA w + i < a + len ∧ first * 2 ^ log2 + skip + (jobAddrA w + i - a) = fld w 383 320 + i)) ∧
    (∀ x, jobOp w = 4 → Tab.find? k c1.ds.ctrls = some x → x.phase ≠ .connecting → x.closing = false →
      let cdw := (List.range 4).map fun i => BitVec.ofNat 32 (w.toNat >>> (416 + 32 * i))
      (fld w 211 210 = 0 → c1.rangeMapped (jobAddrA w) 4096 = true → exec (.adminIdentify ring src) s =
        withChip s (c1.issueCmd k 0 (.identify (fld w 423 416)) (jobNsid w) 4096 cdw (some sl) (.local_ (jobAddrA w) 0 4096))) ∧
      (fld w 211 210 = 1 → logBytes w ≤ 65536 → c1.rangeMapped (jobAddrA w) (logBytes w) = true → exec (.adminGetLogPage ring src) s =
        withChip s (c1.issueCmd k 0 .getLogPage (jobNsid w) (logBytes w) cdw (some sl) (.local_ (jobAddrA w) 0 (logBytes w)))))

/-- Channels, samples and the end of jobs (R357, R358, R367, R369). CHANNEL_OPEN gives a channel its descriptor and its reader; CHANNEL_CLOSE without DRAIN ends it at once,
and with DRAIN once nothing of it is queued. LOAD_SAMPLES reads its table's entry for the shuffled position and asks for the sample, which
joins the channel's queue once every byte has landed. A job that has ended writes its record and then its flag, and frees its slot for the
next job. A CHANNEL_OPEN waits while CD-READ is in reset (R417), and where one LOAD_SAMPLES gives way the others go on (R357). -/
def Says.samples_are_loaded_and_jobs_complete : Prop :=
  (∀ (s : State) (ring : BitVec 2) (src : JobSrc) (sl : Nat) (j : Job) (c1 : Chip), JobRuns s ring src sl j c1 →
    let w := j.word
    let ch := jobChannel w
    let alone : Prop := ∀ p ∈ c1.ds.jobs, p.1 ≠ sl → jobOp p.2.word = 5 → p.2.stage ≠ .running
    (jobOp w = 6 → c1.domDown.contains 20 = true → exec (.channelOpen ring src) s =
      withChip s ((c1.notePath (some 20)).onJob sl fun j => { j with stage := .begun })) ∧
    (∀ bs, jobOp w = 6 → c1.domDown.contains 20 = false → c1.chan? ch = none → jobAddrA w % 64 = 0 → c1.readLocal 3 (addrRange (jobAddrA w) 128) = .ok bs →
      let desc : BitVec 1024 := BitVec.ofNat 1024 (ofBytes bs)
      let r := if bit w 204 then c1.leastReader else fld w 203 201
      descOk c1 desc = true → c1.readerLoad r < 64 → exec (.channelOpen ring src) s =
        withChip s ((c1.onDs fun d => { d with chans := Tab.set ch { desc, reader := r } d.chans }).endJob sl)) ∧
    (∀ x, jobOp w = 7 → c1.chan? ch = some x → x.closing = none → (∀ p ∈ c1.ds.jobs, Chip.loadNames p.2 ch = true → p.2.stage ≠ .running) →
      let c2 := c1.onChan ch fun x => { x with closing := some (sl, bit w 205) }
      (bit w 205 = false → exec (.channelClose ring src) s = withChip s (((c2.onDs fun d => { d with chans := Tab.erase ch d.chans }).endJob sl).advanceLoads)) ∧
      (bit w 205 = true → (x.samples ≠ [] ∨ x.waiting ≠ []) → exec (.channelClose ring src) s = withChip s c2.advanceLoads)) ∧
    (∀ x i k, jobOp w = 7 → c1.chan? ch = some x → x.closing = none → Tab.find? i c1.ds.jobs = some k → Chip.loadNames k ch = true → k.stage = .running →
      k.status = .success → ∃ t k2, exec (.channelClose ring src) s = .next t ∧ Tab.find? i t.chip.ds.jobs = some k2 ∧ k2.status = .channelLost ∧
        ((∀ q ∈ c1.ds.cmds, q.slot = some i → q.sent = false) → k2.stage = .ended)) ∧
    (∀ y log2, jobOp w = 5 → j.status = .success → j.load = .next → j.pos = 0 → 0 < jobCount w → 0 < jobChCount w → jobTableNvme w = true →
      c1.jobBusy sl = false → (∀ i, i < jobChCount w → c1.chanOpen (ch + i) = true) → Tab.find? (jobTableCtrl w) c1.ds.ctrls = some y → y.phase = .live →
      y.closing = false → Tab.find? (jobNsid w) y.blocks = some log2 →
      let m := shuffleIndex (jobJ0 w) (jobN w) (jobSeed w) (jobEpoch w)
      ∃ t j2, exec (.loadSamples ring src) s = .next t ∧ Tab.find? sl t.chip.ds.jobs = some j2 ∧ j2.stage = .running ∧ j2.load = .entry ∧ (alone → t.chip.mem = c1.mem) ∧
        ∀ i, i < 32 → ∃ q ∈ t.chip.ds.cmds, ∃ first n pos skip len, q.slot = some sl ∧ q.ctrl = jobTableCtrl w ∧ q.cmd.nsid = jobNsid w ∧
          q.cmd.op = .read first n ∧ q.dest = .entry pos skip len ∧ pos ≤ i ∧ i < pos + len ∧
          first * 2 ^ log2 + skip + (i - pos) = jobAddrA w + 32 * m + i) ∧
    (∀ bs x y log2, jobOp w = 5 → j.status = .success → j.load = .next → j.pos = 0 → 0 < jobCount w → 0 < jobChCount w → jobTableNvme w = false →
      c1.jobBusy sl = false → (∀ i, i < jobChCount w → c1.chanOpen (ch + i) = true) →
      let m := shuffleIndex (jobJ0 w) (jobN w) (jobSeed w) (jobEpoch w)
      c1.readLocal 3 (addrRange (jobAddrA w + 32 * m) 32) = .ok bs → c1.chan? ch = some x →
      let ent : BitVec 256 := BitVec.ofNat 256 (ofBytes bs)
      let d := ChanDesc.read x.desc
      Chip.entryBad ent d.inBytes = false → c1.ds.jobs.all (fun p => decide (j.order ≤ p.2.order)) = true →
      x.inWr - x.inRd + fld ent 95 64 ≤ d.inBytes → x.samples.length < 64 → Tab.find? (fld ent 131 128) c1.ds.ctrls = some y → y.phase = .live →
      y.closing = false → Tab.find? (fld ent 127 96) y.blocks = some log2 →
      ∃ t j2, exec (.loadSamples ring src) s = .next t ∧ Tab.find? sl t.chip.ds.jobs = some j2 ∧ j2.stage = .running ∧ j2.load = .reading ∧
        j2.entry = ent ∧ j2.pos = 0 ∧ (∃ q ∈ t.chip.ds.cmds, q.slot = some sl ∧ q.ctrl = fld ent 131 128 ∧ q.cmd.nsid = fld ent 127 96) ∧
        (alone → t.chip.mem = c1.mem))) ∧
  (∀ (s : State) (slot : BitVec 6) (j : Job), s.chip.formesUp = true → Tab.find? slot.toNat s.chip.ds.jobs = some j → s.chip.ds.held = [] →
    let w := j.word
    (∀ x, jobOp w = 5 → j.stage = .running → j.load = .reading → j.status = .success → s.chip.jobBusy slot.toNat = false →
      let ch := Chip.loadChannel j
      let len := fld j.entry 95 64
      s.chip.chan? ch = some x → ∃ t y j2, exec (.sampleQueued slot) s = .next t ∧ t.chip.chan? ch = some y ∧
        y.samples = x.samples ++ [{ j := jobJ0 w + j.pos, s := Chip.loadSample j, len }] ∧ y.inWr = x.inWr + len ∧
        Tab.find? slot.toNat t.chip.ds.jobs = some j2 ∧ j2.queued = j.queued + 1 ∧ j.pos + 1 ≤ j2.pos) ∧
    (j.stage = .ended →
      let recorded : Prop := j.status ≠ .success ∨ jobCmpl w = true
      let flagged (c : Chip) : Chip := if jobFlag w && jobFlagAddr w % 8 == 0 then c.dsStore none (Chip.cellsAt (jobFlagAddr w) (toBytes 8 (jobFlagValue w))) else c
      let freed (c : Chip) : Chip :=
        let c1 := if j.status = .success then c else c.raise j.status.code j.status.severity srcData .device (s.chip.jobDetail j)
        Chip.beginJobs 64 (c1.onDs fun d => { d with jobs := Tab.erase slot.toNat d.jobs })
      (¬recorded → exec (.jobComplete slot) s = withChip s (freed (flagged s.chip))) ∧
      (recorded → (s.chip.ring j.ring).space = 2 → (s.chip.host.inForce = false ∨ j.session ≠ s.chip.host.session) →
        exec (.jobComplete slot) s = withChip s (freed (flagged { s.chip with host := { s.chip.host with
          recordsDiscarded := bump48 s.chip.host.recordsDiscarded 1 } }))) ∧
      (recorded → (s.chip.ring j.ring).space = 2 → s.chip.host.inForce = true → j.session = s.chip.host.session → s.chip.hostAvail = true →
        let q := s.chip.ring j.ring
        let n := q.cqWritten.toNat
        ((q.cqWritten - q.cqConsumed).toNat = 2 ^ q.log2 → exec (.jobComplete slot) s = .next s) ∧
        ((q.cqWritten - q.cqConsumed).toNat ≠ 2 ^ q.log2 →
          let wrote := s.chip.hostCtlWrite (q.cq + 16 * (n % 2 ^ q.log2)) (toBytes 16 (Chip.jobRecord j (1 - (n >>> q.log2) % 2)))
          (wrote.1 = false → exec (.jobComplete slot) s = withChip s wrote.2) ∧
          (wrote.1 = true → exec (.jobComplete slot) s = withChip s
            (freed (flagged ((wrote.2.onJRing j.ring fun q => { q with cqWritten := q.cqWritten + 1 }).writeJobLine1 j.ring)))))) ∧
      (∀ bs, recorded → (s.chip.ring j.ring).space = 0 → s.chip.readLocal 3 (addrRange ((s.chip.ring j.ring).base - 128) 8) = .ok bs →
        let q := s.chip.ring j.ring
        let c0 := s.chip.onJRing j.ring fun q => { q with cqConsumed := BitVec.ofNat 32 (ofBytes bs >>> 32) }
        let n := q.cqWritten.toNat
        j.ring < s.chip.ds.rings.length →
        (((c0.ring j.ring).cqWritten - (c0.ring j.ring).cqConsumed).toNat = 2 ^ q.log2 → exec (.jobComplete slot) s = withChip s c0) ∧
        (((c0.ring j.ring).cqWritten - (c0.ring j.ring).cqConsumed).toNat ≠ 2 ^ q.log2 →
          exec (.jobComplete slot) s = withChip s (freed (flagged (((c0.dsStore none (Chip.cellsAt (q.cq + 16 * (n % 2 ^ q.log2))
            (toBytes 16 (Chip.jobRecord j (1 - (n >>> q.log2) % 2))))).onJRing j.ring fun q => { q with cqWritten := q.cqWritten + 1 }).writeJobLine1 j.ring)))))))

/-- The order of samples (R366): over the N positions of an epoch the shuffle gives every sample once. -/
def Obligations.the_shuffle_is_a_permutation : Prop :=
  ∀ (n seed epoch : Nat), 0 < n → n ≤ 2 ^ 48 →
    (∀ j, j < n → shuffleIndex j n seed epoch < n) ∧
    (∀ i j, i < n → j < n → shuffleIndex i n seed epoch = shuffleIndex j n seed epoch → i = j) ∧
    (∀ k, k < n → ∃ j, j < n ∧ shuffleIndex j n seed epoch = k)

/-- What targets and the network bring (R352, R361 to R363). A command's success counts its bytes, and its job ends when nothing of it is
outstanding; a Read that fails with DNR 0 is issued once more, and any other failure is CONNECT_FAILED for a CONNECT and STORAGE_ERROR for another
job, with the status field. A lost connection
closes the queue pairs and keeps what is outstanding, which a reconnect issues again; at the deadline the jobs of the controller end with
TARGET_LOST, once nothing of them is outstanding elsewhere. RDMA data under a live key lands where its command's bytes belong; other data is refused and fails the queue pair. Every live
controller gets a Keep Alive. An up Ethernet port answers ARP and neighbour solicitations for its own address, obeys a PFC frame of its priority, slows the queue pair that a congestion notification names
(by how much is left open, log entry 26), and counts what it discards. -/
def Says.targets_and_the_network_answer : Prop :=
  ∀ (s : State) (ctrl : BitVec 4), s.chip.formesUp = true → (s.chip.ds.jobs.map (·.1)).Nodup →
    let c := s.chip
    let quiet : Prop := ∀ p ∈ c.ds.jobs, jobOp p.2.word = 5 → p.2.stage ≠ .running
    (∀ (cid : BitVec 16) (status : BitVec 15) (result : BitVec 64) (k : NCmd) (sl : Nat) (j : Job) (first n : Nat),
      c.ds.cmds.find? (fun k => k.ctrl == ctrl.toNat && k.cmd.cid == cid.toNat && k.sent) = some k → k.slot = some sl →
      Tab.find? sl c.ds.jobs = some j → j.stage = .running → j.status = .success → jobOp j.word = 3 → k.cmd.op = .read first n →
      let gone : Chip := c.onDs fun d => { d with cmds := d.cmds.filter fun x => x.num != k.num }
      (∀ a skip len, status = 0 → k.dest = .local_ a skip len → ∃ t j2, exec (.nvmeCompletion ctrl cid status result) s = .next t ∧
        Tab.find? sl t.chip.ds.jobs = some j2 ∧ j2.bytes = j.bytes + len ∧ j2.status = .success ∧
        (quiet → t.chip.mem = c.mem ∧ ∀ q ∈ t.chip.ds.cmds, q.num ≠ k.num) ∧ (j2.stage = if gone.jobBusy sl then .running else .ended)) ∧
      (status ≠ 0 → status.getLsbD 14 = false → k.retried = false → exec (.nvmeCompletion ctrl cid status result) s =
        withChip s ((gone.onDs fun d => { d with cmds := d.cmds ++ [{ k with sent := false, retried := true, buf := [] }] }).drainCmds)) ∧
      (status ≠ 0 → (status.getLsbD 14 = true ∨ k.retried = true) → ∃ t j2, exec (.nvmeCompletion ctrl cid status result) s = .next t ∧
        Tab.find? sl t.chip.ds.jobs = some j2 ∧ j2.status = .storageError ∧ j2.nvme = status.toNat ∧ (quiet → t.chip.mem = c.mem))) ∧
    (∀ (cid : BitVec 16) (status : BitVec 15) (result : BitVec 64) (k : NCmd) (sl : Nat) (j : Job),
      c.ds.cmds.find? (fun k => k.ctrl == ctrl.toNat && k.cmd.cid == cid.toNat && k.sent) = some k → k.slot = some sl →
      Tab.find? sl c.ds.jobs = some j → j.stage = .running → j.status = .success → jobOp j.word = 1 → jobCtrl j.word = ctrl.toNat →
      (∀ first n, k.cmd.op ≠ .read first n) → status ≠ 0 → ∃ t j2, exec (.nvmeCompletion ctrl cid status result) s = .next t ∧
        Tab.find? sl t.chip.ds.jobs = some j2 ∧ j2.status = .connectFailed ∧ j2.nvme = status.toNat ∧ j2.stage = .ended ∧
        Tab.find? ctrl.toNat t.chip.ds.ctrls = none ∧ (quiet → t.chip.mem = c.mem)) ∧
    (∀ x, Tab.find? ctrl.toNat c.ds.ctrls = some x →
      (x.phase = .live → exec (.connectionLost ctrl) s = withChip s ((c.onDs fun d => { d with
        ctrls := Tab.set ctrl.toNat { x with phase := .reconnecting, qps := [] } d.ctrls,
        cmds := d.cmds.filterMap fun k => if k.ctrl ≠ ctrl.toNat then some k else if k.slot.isNone then none else some { k with sent := false, buf := [] } }).send
          (.nvmeClose ctrl.toNat))) ∧
      (∀ sl j, x.phase = .connecting → Tab.find? sl c.ds.jobs = some j → jobOp j.word = 1 → jobCtrl j.word = ctrl.toNat → j.stage = .running →
        j.status = .success → ∃ t j2, exec (.connectionLost ctrl) s = .next t ∧ Tab.find? ctrl.toNat t.chip.ds.ctrls = none ∧
          Tab.find? sl t.chip.ds.jobs = some j2 ∧ j2.status = .connectFailed ∧ j2.stage = .ended) ∧
      (∀ p ps, x.phase = .reconnecting → c.upPorts x.portMask = p :: ps →
        (exec (.reconnectAttempt ctrl false) s = withChip s (((c.send (.qpOpen ctrl.toNat 0 p (BitVec.ofNat 128 (fld x.target 2175 2048))
            (fld x.target 2191 2176))).send (.nvme ctrl.toNat 0 p c.imp.dsPfcPrio 2 { cid := c.freeCid, op := c.connectOp x 0 })).onDs
          fun d => { d with nextCid := (c.freeCid + 1) % 2 ^ 16 })) ∧
        ∃ t x2, exec (.reconnectAttempt ctrl true) s = .next t ∧ Tab.find? ctrl.toNat t.chip.ds.ctrls = some x2 ∧ x2.phase = .live ∧
          x2.qps.length = x.numIoq + 1 ∧ t.chip.ds.cmds.map (·.num) = c.ds.cmds.map (·.num) ∧ t.chip.ds.jobs = c.ds.jobs ∧ t.chip.mem = c.mem ∧
          ∀ q ∈ t.chip.ds.cmds, q.ctrl = ctrl.toNat → q.qp ≤ x.numIoq → (∀ r ∈ c.ds.cmds, r.num = q.num → r.sent = false) →
            ((∀ b ∈ c.ds.paused, b = false) → q.sent = true ∨
              x.qdepth ≤ (t.chip.ds.cmds.filter fun r => r.ctrl == ctrl.toNat && r.qp == q.qp && r.sent).length) ∧
            (q.sent = true → q.cmd.len ≠ 0 → (∀ r ∈ c.ds.cmds, r.cmd.key < c.ds.nextKey) → c.ds.nextKey + c.ds.cmds.length < 2 ^ 32 →
              c.ds.nextKey ≤ q.cmd.key)) ∧
      (x.phase = .reconnecting → ∃ t, exec (.targetLost ctrl) s = .next t ∧ Tab.find? ctrl.toNat t.chip.ds.ctrls = none ∧
        ∀ sl j, Tab.find? sl c.ds.jobs = some j → j.stage = .running → j.status = .success → jobUses j ctrl.toNat = true →
          ∃ j2, Tab.find? sl t.chip.ds.jobs = some j2 ∧ j2.status = .targetLost ∧
            ((∀ q ∈ c.ds.cmds, q.slot = some sl → q.ctrl = ctrl.toNat ∨ q.sent = false) → j2.stage = .ended))) ∧
    (∀ (qp : BitVec 7) (key off : BitVec 32) (data : List Byte),
      let live (k : NCmd) : Bool := k.ctrl == ctrl.toNat && k.qp == qp.toNat && k.sent && k.cmd.key == key.toNat &&
        decide (k.cmd.len ≠ 0 ∧ off.toNat + data.length ≤ k.cmd.len)
      (∀ k a skip len, c.ds.cmds.find? live = some k → k.dest = .local_ a skip len → c.ds.held = [] → c.ue = [] →
        (∀ b ∈ addrRange a len, c.accessError 3 b = none) → ∃ t, exec (.rdmaWrite ctrl qp key off data) s = .next t ∧
          (∀ i, i < data.length → skip ≤ off.toNat + i → off.toNat + i < skip + len → t.chip.mem.get (a + (off.toNat + i - skip)) = data.getD i 0) ∧
          (∀ b, (b < a ∨ a + len ≤ b) → t.chip.mem.get b = c.mem.get b) ∧ t.chip.ds = c.ds) ∧
      (c.ds.cmds.find? live = none → Tab.find? ctrl.toNat c.ds.ctrls = none → exec (.rdmaWrite ctrl qp key off data) s =
        withChip s ((c.onDs fun d => { d with rdmaRefused := bump48 d.rdmaRefused 1 }).send (.rdmaNak ctrl.toNat qp.toNat))) ∧
      (∀ x, c.ds.cmds.find? live = none → Tab.find? ctrl.toNat c.ds.ctrls = some x → x.phase = .live → ∃ t x2, exec (.rdmaWrite ctrl qp key off data) s = .next t ∧
        t.chip.ds.rdmaRefused = bump48 c.ds.rdmaRefused 1 ∧ Tab.find? ctrl.toNat t.chip.ds.ctrls = some x2 ∧ x2.phase = .reconnecting ∧
        t.chip.mem = c.mem)) ∧
    (∃ t, exec .keepAlive s = .next t ∧ t.chip.ds.jobs = c.ds.jobs ∧ t.chip.mem = c.mem ∧
      ∀ k x, (k, x) ∈ c.ds.ctrls → x.phase = .live → ∃ q ∈ t.chip.ds.cmds, q.ctrl = k ∧ q.qp = 0 ∧ q.cmd.op = .keepAlive) ∧
    (∀ (p : PortNo) (f : List Byte),
      (c.ethPortUp p.toNat = false → exec (.ethFrame p f) s = .next s) ∧
      (c.ethPortUp p.toNat = true →
        (∀ bth, Chip.rocePayload f = some bth → c.toPort p.toNat f = true → (byteAt bth 0 < 32 → exec (.ethFrame p f) s = .next s) ∧
          (byteAt bth 0 = 0x81 → ∃ t, exec (.ethFrame p f) s = .next t ∧ t.chip.ds.ctrls.map (·.1) = c.ds.ctrls.map (·.1) ∧ t.chip.ds.jobs = c.ds.jobs ∧
            t.chip.mem = c.mem ∧ ∀ i x, (i, x) ∈ c.ds.ctrls → ∃ y, (i, y) ∈ t.chip.ds.ctrls ∧ y.qps.length = x.qps.length ∧ y.phase = x.phase ∧
              ∀ k q, x.qps[k]? = some q → ∃ r, y.qps[k]? = some r ∧ r.port = q.port ∧ r.depth = q.depth ∧
                (Chip.qpn i k = beAt bth 5 3 → 1 < q.rate → 1 ≤ r.rate ∧ r.rate < q.rate) ∧ (Chip.qpn i k ≠ beAt bth 5 3 → r = q))) ∧
        (Chip.rocePayload f = none → beAt f 12 2 = 0x0806 → 42 ≤ f.length → beAt f 20 2 = 1 → (c.dsIp p.toNat).1 = true →
          (f.drop 38).take 4 = (c.dsIp p.toNat).2.drop 12 → ∃ r, exec (.ethFrame p f) s = withChip s (c.send (.eth p.toNat r)) ∧
            r.take 6 = (f.drop 22).take 6 ∧ (r.drop 6).take 6 = c.dsMac p.toNat ∧ beAt r 12 2 = 0x0806 ∧ beAt r 20 2 = 2 ∧
            (r.drop 22).take 6 = c.dsMac p.toNat ∧ (r.drop 28).take 4 = (f.drop 38).take 4 ∧ (r.drop 32).take 10 = (f.drop 22).take 10) ∧
        (beAt f 12 2 = 0x86DD → byteAt f 20 = 58 → byteAt f 54 = 135 → (c.dsIp p.toNat).1 = false → (f.drop 62).take 16 = (c.dsIp p.toNat).2 →
          ∃ r, exec (.ethFrame p f) s = withChip s (c.send (.eth p.toNat r)) ∧ r.take 6 = (f.drop 6).take 6 ∧ (r.drop 6).take 6 = c.dsMac p.toNat ∧
            beAt r 12 2 = 0x86DD ∧ byteAt r 54 = 136 ∧ (r.drop 22).take 16 = (c.dsIp p.toNat).2 ∧ (r.drop 62).take 16 = (c.dsIp p.toNat).2 ∧
            (r.drop 80).take 6 = c.dsMac p.toNat) ∧
        (Chip.rocePayload f = none → beAt f 12 2 = 0x8808 → beAt f 14 2 = 0x0101 →
          (nbits (beAt f 16 2) c.imp.dsPfcPrio 1 = 0 → exec (.ethFrame p f) s = .next s) ∧
          (nbits (beAt f 16 2) c.imp.dsPfcPrio 1 = 1 → exec (.ethFrame p f) s = withChip s (c.onDs fun d => { d with
            paused := d.paused.set (p.toNat - 12) (beAt f (18 + 2 * c.imp.dsPfcPrio) 2 != 0) }).drainCmds)) ∧
        (((∃ bth, Chip.rocePayload f = some bth ∧ (c.toPort p.toNat f = false ∨ (32 ≤ byteAt bth 0 ∧ byteAt bth 0 ≠ 0x81))) ∨
            (Chip.rocePayload f = none ∧ beAt f 12 2 ≠ 0x0806 ∧ ¬(beAt f 12 2 = 0x86DD ∧ byteAt f 20 = 58 ∧ byteAt f 54 = 135) ∧
              ¬(beAt f 12 2 = 0x8808 ∧ beAt f 14 2 = 0x0101))) →
          exec (.ethFrame p f) s = withChip s (c.onDs fun d => { d with ethDiscard := bump48 d.ethDiscard 1 }))))

/-- Streams become tensors (R370 to R376, R417: not while CD-READ is in reset). The demultiplexer takes the next packet of a channel's sample, or spends a sample that has no whole
packet left; a reader decodes the next access unit of the channel it serves, dropping pictures before a random access point, and a picture due
for output becomes a FRAME record; waiting records are written, payload, header and then WRITTEN, while there are slots. -/
def Says.streams_become_records : Prop :=
  ∀ (s : State), s.chip.formesUp = true → s.chip.ds.stopped = false →
    (s.chip.domDown.contains 20 = true → (∀ n, exec (.demuxPacket n) s = .next s) ∧ ∀ r us, exec (.readerTurn r us) s = .next s) ∧
    (∀ (n : BitVec 9) x sm rest bs, s.chip.domDown.contains 20 = false → s.chip.chan? n.toNat = some x → x.samples = sm :: rest → x.used < sm.len →
      let d := ChanDesc.read x.desc
      s.chip.readLocal 3 ((List.range (sm.len - x.used)).map fun i => d.inAddr + (x.inRd + (x.used + i)) % d.inBytes) = .ok bs →
      let lead := (bs.takeWhile (· ≠ 0x47)).length
      let p := (bs.drop lead).take 188
      (p.length = 188 → exec (.demuxPacket n) s = withChip s (((s.chip.onChan n.toNat fun x => { x with used := x.used + lead + 188 }).takePacket n.toNat x p).settleSample n.toNat)) ∧
      (p.length < 188 → exec (.demuxPacket n) s = withChip s ((s.chip.onChan n.toNat fun x => { x with used := sm.len }).settleSample n.toNat)) ∧
      (p.length = 188 → x.skip = false → x.used + lead + 188 < sm.len → byteAt p 1 < 128 → byteAt p 3 < 64 → x.demux.video = some (beAt p 1 2 % 8192) →
        beAt p 1 2 % 8192 ≠ 0 → x.demux.pmtPid ≠ some (beAt p 1 2 % 8192) → exec (.demuxPacket n) s = withChip s (s.chip.onChan n.toNat fun x =>
          Chip.videoPacket { x with used := x.used + lead + 188 } (byteAt p 3 % 16) (nbits (byteAt p 1) 6 1 == 1) (tsPayload p)))) ∧
    (∀ (r : BitVec 3) (u : DecUnit) (n : Nat) x au aus sm rest, n < 512 → s.chip.domDown.contains 20 = false → s.chip.ds.lastChan.getD r.toNat 511 = (n + 511) % 512 → s.chip.chan? n = some x →
      x.reader = r.toNat → s.chip.eligible x = true → x.units = au :: aus → x.samples = sm :: rest → x.used < sm.len → x.skip = false →
      let d := ChanDesc.read x.desc
      unitSupported d x.demux.codec u = true → x.outs = 0 → cropFits d u.pic = true → d.split = false → 0 < d.weight →
      (((x.dropping = true ∧ isRap x.demux.codec au.data = false) ∨ u.damaged = true ∨ (x.leading = true ∧ isRasl x.demux.codec au.data = true)) →
        u.release = 0 → ∃ t y, exec (.readerTurn r [u]) s = .next t ∧ t.chip.chan? n = some y ∧ y.units = aus ∧
        y.decoded = x.decoded + 1 ∧ y.dropped = x.dropped + 1 ∧ y.held = x.held ∧ y.records = x.records ∧ y.waiting = x.waiting ∧ t.chip.mem = s.chip.mem) ∧
      (isRap x.demux.codec au.data = true → u.damaged = false → (x.leading = false ∨ isRasl x.demux.codec au.data = false) → u.release = 1 → x.held = [] → x.frames = 0 → d.maxFrames ≠ 1 →
        ∃ t y, exec (.readerTurn r [u]) s = .next t ∧ t.chip.chan? n = some y ∧ y.units = aus ∧ y.held = [] ∧ y.dropping = false ∧
          y.decoded = x.decoded + 1 ∧ y.dropped = x.dropped ∧ y.outs = 1 ∧ y.frames = 1 ∧
          y.records + y.waiting.length = x.records + x.waiting.length + 1)) ∧
    (∀ (n : BitVec 9) x hdr payload used, s.chip.chan? n.toNat = some x → x.closing = none →
      let d := ChanDesc.read x.desc
      x.waiting = [(hdr, payload)] → s.chip.ringConsumed d.ring = some used → x.records - used < d.nslots → s.chip.ds.held = [] → s.chip.ue = [] →
      let a := d.ring + x.records % d.nslots * d.slot
      hdr.length = 64 → 64 ≤ d.ring → (∀ b ∈ addrRange (d.ring - 64) 8 ++ addrRange a (64 + payload.length), s.chip.accessError 3 b = none) →
      ∃ t y, exec (.frameRingSpace n) s = .next t ∧ t.chip.chan? n.toNat = some y ∧ y.waiting = [] ∧ y.records = x.records + 1 ∧
        t.chip.mem.read (d.ring - 64) 8 = (x.records + 1) % 2 ^ 64 ∧
        (∀ i, i < 64 + payload.length → t.chip.mem.get (a + i) = (hdr ++ payload).getD i 0) ∧
        ∀ b, (b < a ∨ a + 64 + payload.length ≤ b) → (b < d.ring - 64 ∨ d.ring - 56 ≤ b) → t.chip.mem.get b = s.chip.mem.get b)

/-! ### Operand blocks, HBM banks and vertical connections -/

/-- Operand blocks and HBM banks (R95, R210). The slug at the head of a queue that waited for a block goes on as its own row runs it, and with no
head that may run only admission proceeds. A bank serves the engines and correctors in turn: a request of the unit whose turn it is completes, and
lets a held one take its place or frees the bank's count, and then a request of the unit that waited for a free slot joins its bank's queue while
that has room, and is held beyond; then fabric requests that waited for a slot are issued. -/
def Says.waiting_slugs_and_held_requests_go_on : Prop :=
  ∀ (s : State) (e : EngineNo), s.chip.formesUp = true →
    (∀ q, q ≠ .update → (s.chip.pumpE e.toNat).readyHead e.toNat q = none → exec (.operandBlockReady e q) s = withChip s (s.chip.pumpE e.toNat)) ∧
    ((s.chip.engine e.toNat).qUpdate = [] → exec (.operandBlockReady e .update) s = .next s) ∧
    (∀ q cls op ent (row : Instr), (s.chip.pumpE e.toNat).readyHead e.toNat q = some ent → slugClass ent.slug = cls → slugOp ent.slug = op →
      (q, cls, op, row) ∈ ([(.move, 0, 0, .moveCopy e .queued), (.move, 0, 1, .copyT e .queued), (.move, 0, 2, .prefetch e .queued), (.move, 0, 3, .set e .queued),
        (.matrix, 1, 0, .matmul e .queued), (.matrix, 1, 1, .matmulBwdPair e .queued),
        (.fabric, 5, 0, .put e .queued), (.fabric, 5, 1, .get e .queued), (.fabric, 5, 2, .atomic e .queued), (.fabric, 5, 4, .reduceScatter e .queued),
        (.fabric, 5, 5, .allGather e .queued), (.fabric, 5, 6, .allReduce e .queued), (.fabric, 5, 7, .mgmtSend e .queued),
        (.host, 6, 0, .writeback e .queued), (.host, 6, 1, .writebackAll e .queued), (.host, 6, 2, .hostDrop e .queued),
        (.spike, 7, 0, .push e .queued), (.spike, 7, 1, .pop e .queued), (.spike, 7, 2, .spikeDrop e .queued), (.spike, 7, 3, .spillSet e .queued),
        (.spike, 7, 4, .layerSet e .queued), (.spike, 7, 5, .lossTest e .queued), (.spike, 7, 6, .lossClear e .queued), (.spike, 7, 7, .clear e .queued)]
        : List (QId × Nat × Nat × Instr)) → exec (.operandBlockReady e q) s = exec row s) ∧
    (∀ ent, (s.chip.pumpE e.toNat).readyHead e.toNat .fabric = some ent → slugClass ent.slug = 5 → slugOp ent.slug = 3 →
      exec (.operandBlockReady e .fabric) s = exec (if fabCombine ent.slug then .combine e .queued else .dispatch e .queued) s) ∧
    (∀ ent, (s.chip.pumpE e.toNat).readyHead e.toNat .vector = some ent → exec (.operandBlockReady e .vector) s = withChip s
      ((if slugClass ent.slug = 3 then (s.chip.pumpE e.toNat).fusedRun e.toNat { ent with began := true }
        else (s.chip.pumpE e.toNat).vectorRun e.toNat { ent with began := true }).pumpE e.toNat)) ∧
    (∀ (who : BitVec 7) (m : BitVec 4) (ch bank : BitVec 6),
      let b := m.toNat * 4096 + ch.toNat * 64 + bank.toNat
      let u := who.toNat
      let k := Tab.get {} (s.chip.banksOf u) b
      let goes (f : Tab BankQ → Tab BankQ) : Host.Outcome State Fault Refusal :=
        withChip s (Chip.lateIssue { s.chip.onBanks u f with bankTurn := Tab.set b u s.chip.bankTurn } u).releaseReqs
      (∀ v, s.chip.bankNext b = some v → v < 68 ∧ 0 < (Tab.get {} (s.chip.banksOf v) b).queued ∧
        ∃ d, v = (Tab.get 67 s.chip.bankTurn b + 1 + d) % 68 ∧
          ∀ d', d' < d → (Tab.get {} (s.chip.banksOf ((Tab.get 67 s.chip.bankTurn b + 1 + d') % 68)) b).queued = 0) ∧
      (s.chip.bankNext b ≠ some u → exec (.hbmRequestDone who m ch bank) s = withChip s s.chip.releaseReqs) ∧
      (s.chip.bankNext b = some u → 0 < k.held → exec (.hbmRequestDone who m ch bank) s = goes (Tab.set b { k with held := k.held - 1 })) ∧
      (s.chip.bankNext b = some u → k.held = 0 → (1 < k.queued ∨ 0 < k.late) → exec (.hbmRequestDone who m ch bank) s = goes (Tab.set b { k with queued := k.queued - 1 })) ∧
      (s.chip.bankNext b = some u → k.held = 0 → k.queued = 1 → k.late = 0 → exec (.hbmRequestDone who m ch bank) s = goes (Tab.erase b)) ∧
      (∀ b' q, List.find? (fun p : Nat × BankQ => decide (0 < p.2.late)) (s.chip.banksOf u) = some (b', q) →
        s.chip.lateIssue u = if 0 < s.chip.bankRoom u then s.chip.onBanks u (Tab.set b' ({
          queued := if q.queued < 16 then q.queued + 1 else q.queued, held := if q.queued < 16 then q.held else q.held + 1, late := q.late - 1 } : BankQ)) else s.chip))

/-- The bonds (R384, R385, R389 to R394, R399). A discarded flit is counted and replayed, so that it arrives once. A pattern test finds a lane
failing where an error stands at its centre or its error-free window is below 10 %, and weak below 25 %. Failing lanes of a data bundle are mapped
out while the spares last; a bundle that has lost more goes to half its width, with BUNDLE_HALF raised, and one with too few lanes left retires its
engine; a weak lane is mapped out while a spare is free and BOND_PROACTIVE is 1, and otherwise stays in use, recorded once; no lane of the map
then in force fails. A burst of CRC failures is tested only above 16 within 1 ms, and a control bundle not in service. A parity error on a
control bundle is an error of its engine, which is reset and its control bundles tested; a failing lane is mapped out, and an error without one is
transient: the second within 24 hours maps out the lane in use with the narrowest window. Which connection has which bundle number is the
model's choice (log entry 27), and so is what a test that has not been made would measure (log entry 114). -/
def Says.bonds_are_tested_repaired_and_retired : Prop :=
  ∀ (s : State) (e : EngineNo), s.chip.formesUp = true → s.chip.engines.length = 64 → (s.chip.engine e.toNat).retired = false →
    let en := e.toNat
    let src := 74 + en / 16
    (∀ n : Nat, FlitLink.crcFail { next := n, got := n } = { next := n + 1, got := n + 1 }) ∧
    (∀ i : Byte, i.toNat < 180 → (bundleKind i.toNat).isCtl = false → (s.chip.bundle en i.toNat).lost = false →
      let b := s.chip.bundle en i.toNat
      exec (.flitCrcFail e i) s = withChip s { s.chip with bonds := (Tab.set (Chip.bundleKey en i.toNat)
        { b with crcFails := b.crcFails + 1, flits := b.flits.crcFail,
                 crcTimes := (s.chip.ovs.time :: b.crcTimes.filter fun t => decide (s.chip.ovs.time ≤ t + 200000)).take 17 } s.chip.bonds) }) ∧
    (∀ t : BundleTest, t.bundle.toNat < 180 → (s.chip.bundle en t.bundle.toNat).lost = false →
      let i := t.bundle.toNat
      let k := bundleKind i
      let b := s.chip.bundle en i
      let m := s.chip.measure en t
      let window (l : Nat) : Nat := (t.windows.getD l 100).toNat
      let failing := (List.range k.lanes).filter fun l => bit t.centre l || decide (window l < 10)
      let weak := (List.range k.lanes).filter fun l => !bit t.centre l && decide (10 ≤ window l ∧ window l < 25)
      let new := failing.filter fun l => !b.out.contains l
      let out := addLanes b.out new
      let b1 := { b with out, weak := b.weak.filter (fun l => !out.contains l), flits := b.flits.resume }
      (k.isCtl = true → exec (.bondTest e t) s = withChip s m ∧ exec (.crcBurst e t) s = .next s) ∧
      (k.isCtl = false →
        let recent := b.crcTimes.filter fun x => decide (s.chip.ovs.time ≤ x + 200000)
        (recent.length ≤ 16 → exec (.crcBurst e t) s = .next s) ∧
        (16 < recent.length → exec (.crcBurst e t) s = exec (.bondTest e t) { s with chip := { s.chip with
          bonds := Tab.set (Chip.bundleKey en i) { b with crcTimes := [] } s.chip.bonds } }) ∧
        (weak = [] → new = [] → exec (.bondTest e t) s = withChip s m) ∧
        (weak = [] → new ≠ [] → b.half = false → out.length ≤ 2 → exec (.bondTest e t) s = withChip s ((m.setBundle en i b1).raise
          evLaneRemapped .corrected src (.engine en) [])) ∧
        (weak = [] → new ≠ [] → b.half = false → 2 < out.length → k.halfNeeds ≤ k.lanes - out.length → s.chip.episodes = [] →
          ∃ u ev, exec (.bondTest e t) s = .next u ∧ u.chip.bundle en i = { b1 with half := true } ∧ u.chip.evq = s.chip.evq ++ [ev] ∧
            ev.code = evBundleHalf ∧ ev.sev = .deferred ∧ ev.dom = .engine en ∧ u.chip.engines = s.chip.engines ∧ u.chip.mem = s.chip.mem) ∧
        (weak = [] → new ≠ [] → b.half = true → k.halfNeeds ≤ k.lanes - out.length → exec (.bondTest e t) s = withChip s ((m.setBundle en i b1).raise
          evLaneRemapped .corrected src (.engine en) [])) ∧
        (weak = [] → new ≠ [] → (2 < out.length ∨ b.half = true) → k.lanes - out.length < k.halfNeeds → ∃ u ev, exec (.bondTest e t) s = .next u ∧
          (u.chip.bundle en i).lost = true ∧ (u.chip.engine en).retired = true ∧ (u.chip.engine en).retCause = k.cause ∧
          (s.chip.host.inForce = false → (u.chip.engine en).ring = (s.chip.engine en).ring) ∧ (u.chip.engine en).qMove = [] ∧
          (u.chip.engine en).cache = [] ∧ (∃ e1 ∈ u.chip.evq, e1.code = evEngineReset ∧ e1.dom = .engine en) ∧ ev ∈ u.chip.evq ∧ ev.code = evEngineRetired ∧
          ev.sev = .fatalEngine ∧ ev.detail = [BitVec.ofNat 64 en, BitVec.ofNat 64 i, BitVec.ofNat 64 (new.headD 0), BitVec.ofNat 64 k.cause]) ∧
        (∀ l, failing = [] → weak = [l] → b.out.contains l = false →
          (s.chip.imp.bondProactive = false ∨ 2 ≤ b.out.length → b.weak.contains l = false → exec (.bondTest e t) s = withChip s
            ((m.setBundle en i { b with weak := addLanes b.weak [l] }).raise evLaneWeak .note src (.engine en) [])) ∧
          (s.chip.imp.bondProactive = false ∨ 2 ≤ b.out.length → b.weak.contains l = true → exec (.bondTest e t) s = withChip s m) ∧
          (s.chip.imp.bondProactive = true → b.out.length < 2 → b.half = false → ∃ u, exec (.bondTest e t) s = .next u ∧
            (u.chip.bundle en i).out = addLanes b.out [l] ∧ u.chip.engines = s.chip.engines ∧ u.chip.mem = s.chip.mem)) ∧
        (∀ u, exec (.bondTest e t) s = .next u → u.chip.mapFails en i = [] ∨ (u.chip.engine en).retired = true))) ∧
    (∀ (i : Byte) (tests : List BundleTest), i.toNat < 180 → (bundleKind i.toNat).isCtl = true → (s.chip.bundle en i.toNat).lost = false →
      s.chip.episodes = [] → (∀ t ∈ tests, (bundleKind t.bundle.toNat).isCtl = true) →
      let m := tests.foldl (fun c t => c.measure en t) s.chip
      let b := s.chip.bundle en i.toNat
      (∀ j, j < 180 → lanesIn (m.condition en j) (bundleKind j) .weak = []) → (∀ j, j < 180 → (bundleKind j).isCtl = false → m.mapFails en j = []) →
      ((∀ j, j < 180 → m.mapFails en j = []) →
        (b.transient = none → ∃ u e1 e2, exec (.bondCtrlError e i tests) s = .next u ∧
          (u.chip.bundle en i.toNat).transient = some s.chip.ovs.time ∧ (u.chip.bundle en i.toNat).out = b.out ∧
          (u.chip.engine en).vregs = [] ∧ (u.chip.engine en).qMove = [] ∧ (u.chip.engine en).retired = false ∧
          e1 ∈ u.chip.evq ∧ e1.code = evBondCtrlError ∧ e1.sev = .fatalEngine ∧ e2 ∈ u.chip.evq ∧ e2.code = evBondCtrlTransient ∧ e2.sev = .note) ∧
        (∀ t0, b.transient = some t0 → s.chip.ovs.time ≤ t0 + 24 * 3600 * 200000000 → b.half = false → b.out.length < 2 →
          let l := narrowestLane (m.condition en i.toNat) ((List.range (bundleKind i.toNat).lanes).filter fun l => !b.out.contains l)
          ∃ u, exec (.bondCtrlError e i tests) s = .next u ∧ (u.chip.bundle en i.toNat).out = addLanes b.out [l] ∧
            (u.chip.engine en).qMove = [] ∧ (u.chip.engine en).retired = false)) ∧
      (∀ j, j < 180 → (bundleKind j).isCtl = true → m.mapFails en j ≠ [] → (∀ x, x < 180 → x ≠ j → m.mapFails en x = []) →
        (s.chip.bundle en j).lost = false → (s.chip.bundle en j).half = false →
        (addLanes (s.chip.bundle en j).out (m.mapFails en j)).length ≤ 2 → ∃ u, exec (.bondCtrlError e i tests) s = .next u ∧
          (u.chip.bundle en j).out = addLanes (s.chip.bundle en j).out (m.mapFails en j) ∧
          (u.chip.bundle en i.toNat).transient = b.transient ∧ (u.chip.engine en).qMove = [] ∧ (u.chip.engine en).retired = false)) ∧
    (∀ (t : BundleTest) (ls : List Nat) (l : Nat), l ∈ ls →
      let n := narrowestLane t ls
      n ∈ ls ∧ (t.windows.getD n 100).toNat ≤ (t.windows.getD l 100).toNat)

/-! ### Resets -/

/-- What a forme that goes down leaves (R420): its bed die is in reset, its reset waits for READY, and its engines in service are stopped,
parked and empty. -/
def FormeDown (c : Chip) (f : Nat) : Prop :=
  f ∈ c.formeDown ∧ (∀ r ∈ c.rst.formes, r.forme = f → r.stage = .waiting) ∧ ∀ e, e < 64 → e / 16 = f →
    (c.engine e).stopAdm = true ∧ (c.engine e).parked = true ∧
    ((c.engine e).retired = false → ∀ q, (c.engine e).queue q = [])

/-- No call among devices and no update is in progress, which a port that goes down could end. -/
def NothingShared (c : Chip) : Prop := c.fab.colls = [] ∧ c.fab.a2as = [] ∧ ∀ k ∈ c.cors, k.ctxs = []

/-- The engine reset (R119, R153, R164, R182, R211, R226, R416). An engine for which a reset is asked loses its TDs, registers, galley, records
and loss, its queues of face-die units are empty, its operand buffers and its completion ring's consumed count read zero, and no other byte
changes; the reset is recorded, and what asked for it is done. Before it takes slugs again its bundles are tested (R389): lanes that fail the test of
the map in force leave it. Without a request nothing happens. -/
def Obligations.an_engine_reset_empties_its_engine : Prop :=
  ∀ (s : State) (e : EngineNo), s.chip.formesUp = true → s.chip.engines.length = 64 →
    (s.chip.engineAsked e.toNat = false ∨ (s.chip.engine e.toNat).retired = true → exec (.engineReset e) s = .next s) ∧
    (s.chip.engineAsked e.toNat = true → (s.chip.engine e.toNat).retired = false → ∃ t, exec (.engineReset e) s = .next t ∧ e.toNat ∉ t.chip.rst.engines) ∧
    (∀ i w, s.chip.engineAsked e.toNat = true → (s.chip.engine e.toNat).retired = false → i < bundlesPerEngine →
      s.chip.lanes = [(Chip.bundleKey e.toNat i, w)] → (s.chip.bundle e.toNat i).lost = false →
      ((s.chip.bundle e.toNat i).repair (bundleKind i) (s.chip.mapFails e.toNat i)).2 = .remapped → lanesIn w (bundleKind i) .weak = [] →
      ∃ t, exec (.engineReset e) s = .next t ∧
        (t.chip.bundle e.toNat i).out = ((s.chip.bundle e.toNat i).repair (bundleKind i) (s.chip.mapFails e.toNat i)).1.out ∧ t.chip.mapFails e.toNat i = []) ∧
    (s.chip.engineAsked e.toNat = true → (s.chip.engine e.toNat).retired = false →
      (∀ i, i < bundlesPerEngine → s.chip.mapFails e.toNat i = [] ∧ lanesIn (s.chip.condition e.toNat i) (bundleKind i) .weak = []) →
      ∃ t ev, exec (.engineReset e) s = .next t ∧
      let x := t.chip.engine e.toNat
      let word := s.chip.imp.cringBase + e.toNat * 0x100000 + 0x38
      x.tds = [] ∧ x.vregs = [] ∧ x.galley = [] ∧ x.aborts = [] ∧ x.spike.frame = [] ∧ x.loss = {} ∧ x.cache = [] ∧ x.core = none ∧ x.halted = false ∧
      x.qMove = [] ∧ x.qMatrix = [] ∧ x.qVector = [] ∧ x.qSpike = [] ∧ (∀ ent ∈ x.qFabric ++ x.qHost ++ x.qUpdate, ent.began = true ∧ ent.mute = true) ∧
      x.split = (s.chip.engine e.toNat).split ∧ x.ticker = (s.chip.engine e.toNat).ticker ∧
      (∀ b, bufferOf e.toNat ≤ b → b < bufferOf e.toNat + 0x800000 → t.chip.mem.get b = 0) ∧
      (∀ b, (b < bufferOf e.toNat ∨ bufferOf e.toNat + 0x800000 ≤ b) → (b < word ∨ word + 8 ≤ b) → t.chip.mem.get b = s.chip.mem.get b) ∧
      e.toNat ∉ t.chip.rst.engines ∧ .handle .fatalEngine (.engine e.toNat) ∉ t.chip.handlings ∧
      ev ∈ t.chip.evq ∧ ev.code = evEngineReset ∧ ev.sev = .note ∧ ev.dom = .engine e.toNat)

/-- Bed-domain resets (R407, R417, R418, R424, R425, R483). A marked stack whose contents are kept goes into self-refresh and waits; one that is cleared loses its
contents, which are then undefined (log entry 5), and says so; a fabric unit's links come up empty; CD-READ closes the channels. The domain's lock
reads 0 until READY. At READY the domain's edge opens again, its lock reads 1, and the slugs held for it go on; the overseer then records the reset with
the number of requests that the domain has refused since the reset began. -/
def Says.bed_domains_are_reset_and_return : Prop :=
  ∀ (s : State) (d : BitVec 5), s.chip.formesUp = true →
    (s.chip.rst.beds.any (fun b => b.code == d.toNat && b.stage == .marked) = false → exec (.bedReset d) s = .next s) ∧
    (∀ b, s.chip.rst.beds.find? (fun b => b.code == d.toNat && b.stage == .marked) = some b →
      let waits (c : Chip) : Chip := { c with rst := { c.rst with
        locked := c.rst.locked &&& ~~~((1 : BitVec 25) <<< bedClk d.toNat),
        beds := c.rst.beds.map fun x => if x.code = d.toNat ∧ x.stage = .marked then { x with stage := .waiting } else x } }
      (d.toNat < 16 → b.clear = false → exec (.bedReset d) s = withChip s (waits ((s.chip.dropBanks d.toNat).refreshOf d.toNat 1 true))) ∧
      (d.toNat < 16 → b.clear = true → ∃ t ev n, exec (.bedReset d) s = .next t ∧ t.chip.rst.beds = (waits s.chip).rst.beds ∧ t.chip.rst.locked = (waits s.chip).rst.locked ∧
        (∀ a, a < hbmTop → stackOf a = d.toNat → t.chip.mem.get a = Config.freeByte n a) ∧
        (∀ a, (hbmTop ≤ a ∨ stackOf a ≠ d.toNat) → t.chip.mem.get a = s.chip.mem.get a) ∧
        ev ∈ t.chip.evq ∧ ev.code = evHbmContentLost ∧ ev.sev = .deferred ∧ ev.source = 74 + d.toNat / 4 ∧ ev.dom = .forme (d.toNat / 4) ∧ ev.detail = [BitVec.ofNat 64 d.toNat]) ∧
      (16 ≤ d.toNat → d.toNat < 20 → s.chip.fab.ports.length = 16 → (∀ e, e < 64 → e / 16 = d.toNat - 16 → (s.chip.engine e).qFabric = []) → s.chip.ds.ctrls = [] →
        NothingShared s.chip → s.chip.fab.roleAcks = [] →
        ∃ t, exec (.bedReset d) s = .next t ∧ t.chip.mem = s.chip.mem ∧ t.chip.rst.beds = (waits s.chip).rst.beds ∧
          t.chip.rst.locked = (waits s.chip).rst.locked ∧ ∀ i, i < 4 → let p := t.chip.port (4 * (d.toNat - 16) + i)
            p.state ≠ .up ∧ p.state ≠ .training ∧ p.retry = [] ∧ p.outq = [] ∧ p.badLanes = [] ∧ p.txSeq = 0 ∧ p.rxSeq = 0) ∧
      (d.toNat = 20 → exec (.bedReset d) s = withChip s (waits s.chip.closeChannels))) ∧
    (s.chip.rst.beds.any (fun b => b.code == d.toNat && b.stage == .waiting) = false → d.toNat < 21 → exec (.bedDomainReady (.bed d)) s = .next s) ∧
    (s.chip.rst.beds.any (fun b => b.code == d.toNat && b.stage == .waiting) = true → d.toNat < 21 → ∃ t, exec (.bedDomainReady (.bed d)) s = .next t ∧
      t.chip.domDown = s.chip.domDown.filter (· != d.toNat) ∧ t.chip.rst.locked.getLsbD (bedClk d.toNat) = true ∧
      t.chip.rst.beds = s.chip.rst.beds.map (fun b => if b.code = d.toNat ∧ b.stage = .waiting then { b with stage := .ready } else b) ∧
      (d.toNat < 16 → s.chip.pwr.stop ≠ .stopped → t.chip.pwr.selfRefresh.getD d.toNat false = false) ∧
      ∀ e, e < 64 → (t.chip.engine e).qMove = (s.chip.engine e).qMove.map fun ent => if ent.held = some d.toNat then { ent with held := none } else ent) ∧
    (∀ b, s.chip.rst.beds = [b] → b.code = d.toNat → b.stage = .ready → d.toNat < 20 → ∃ ev, ev ∈ s.chip.endBeds.evq ∧
      s.chip.endBeds.rst.beds = [] ∧ s.chip.endBeds.rst.done = true ∧ ev.code = evBedReset ∧ ev.sev = .note ∧
      ev.source = 74 + (bedForme d.toNat).getD 0 ∧ ev.dom = .forme ((bedForme d.toNat).getD 0) ∧ ev.detail = [BitVec.ofNat 64 d.toNat, if b.clear then 1 else 0,
        (Tab.get 0 s.chip.rst.pathCount d.toNat - b.before).setWidth 64])

/-- Forme and device resets (R420 to R424). An orderly reset first stops admission and waits; once its engines have drained, or the watchdog has forced it, the
forme goes down, keeping the contents of its stacks when nothing forced it, and losing those of its four stacks and of its platen scratch when it was forced.
A device reset takes the four formes together, ends the host's session as a loss and clears what R422 names; none of them comes up before all are down,
and the last one ends it. When the forme is up again its engines leave the parked state, its domains are locked, and its reset is recorded. -/
def Obligations.formes_and_the_device_are_reset : Prop :=
  ∀ (s : State) (f : FormeNo), s.chip.formesUp = true → s.chip.engines.length = 64 → s.chip.cors.length = 4 →
    (s.chip.rst.formes = [] → s.chip.handlings.contains (.handle .fatalForme (.forme f.toNat)) = false →
      exec (.formeReset f) s = .next s ∧ exec (.quiesceWatchdog f) s = .next s ∧ exec (.bedDomainReady (.forme f)) s = .next s) ∧
    (s.chip.rst.device = false → exec .deviceReset s = .next s) ∧
    (∀ r, s.chip.rst.formes = [r] → r.forme = f.toNat → s.chip.rst.device = false → s.chip.handlings = [] →
      (r.stage = .asked → r.forced = false → s.chip.drained f.toNat = false → exec (.formeReset f) s = withChip s { s.chip.stopForme f.toNat with
        rst := { s.chip.rst with formes := [{ r with stage := .quiescing }] } }) ∧
      (r.stage ≠ .waiting → r.forced = true ∨ s.chip.drained f.toNat = true → ∃ t, exec (.formeReset f) s = .next t ∧ FormeDown t.chip f.toNat) ∧
      (r.stage ≠ .waiting → r.forced = false → s.chip.drained f.toNat = true → NothingShared s.chip → s.chip.ds.chans = [] →
        s.chip.ds.jobs = [] → s.chip.ds.ctrls = [] → s.chip.fab.roleAcks = [] →
        (∀ b ∈ s.chip.rst.beds, b.clear = false) → ∃ t, exec (.formeReset f) s = .next t ∧ ∀ a, a < hbmTop →
          (∀ e, e / 16 = f.toNat → let w := s.chip.imp.cringBase + e * 0x100000 + 0x38; a < w ∨ w + 8 ≤ a) → t.chip.mem.get a = s.chip.mem.get a) ∧
      (r.stage = .quiescing → ∃ t, exec (.quiesceWatchdog f) s = .next t ∧ FormeDown t.chip f.toNat ∧ (∀ x ∈ t.chip.rst.formes, x.forced = true) ∧
        (NothingShared s.chip → s.chip.ds.chans = [] → s.chip.ds.jobs = [] → s.chip.ds.ctrls = [] → s.chip.fab.roleAcks = [] → s.chip.rst.beds = [] →
          let kept (a : Nat) : Prop := ∀ e, e / 16 = f.toNat → let w := s.chip.imp.cringBase + e * 0x100000 + 0x38; a < w ∨ w + 8 ≤ a
          (∀ i, i < 4 → ∃ n, ∀ a, a < hbmTop → stackOf a = 4 * f.toNat + i → kept a → t.chip.mem.get a = Config.freeByte n a) ∧
          ∃ n, ∀ a, sliceOf (16 * f.toNat) ≤ a → a < sliceOf (16 * f.toNat) + 16 * 0x2000000 → kept a → t.chip.mem.get a = Config.freeByte n a)) ∧
      (r.stage ≠ .quiescing → exec (.quiesceWatchdog f) s = .next s) ∧
      (r.stage = .waiting → ∃ t ev, exec (.bedDomainReady (.forme f)) s = .next t ∧ t.chip.formeDown = s.chip.formeDown.filter (· != f.toNat) ∧
        t.chip.rst.formes = [] ∧ (∀ e, e < 64 → e / 16 = f.toNat → (t.chip.engine e).stopAdm = (s.chip.pwr.stop != .none_) ∧
          (t.chip.engine e).parked = ((s.chip.formePower f.toNat).low || s.chip.pwr.stop == .stopped)) ∧
        t.chip.rst.locked &&& Chip.formeClocks f.toNat = Chip.formeClocks f.toNat ∧
        (s.chip.pwr.stop ≠ .stopped → ∀ i, i < 4 → t.chip.pwr.selfRefresh.getD (4 * f.toNat + i) false = false) ∧
        ev ∈ t.chip.evq ∧ ev.code = evFormeReset ∧ ev.dom = .forme f.toNat)) ∧
    (s.chip.rst.device = true → s.chip.rst.formes.any (fun r => r.stage != .waiting) = true → exec (.bedDomainReady (.forme f)) s = .next s) ∧
    (∀ r, s.chip.rst.device = true → s.chip.rst.formes = [r] → r.forme = f.toNat → r.stage = .waiting → ∃ t, exec (.bedDomainReady (.forme f)) s = .next t ∧
      t.chip.rst.device = false ∧ t.chip.rst.formes = [] ∧ t.chip.pwr.stop = .none_ ∧ t.chip.pwr.deviceStop = false ∧ t.chip.ds.stopped = false ∧
      ∀ e, e < 64 → e / 16 = f.toNat → (t.chip.engine e).stopAdm = false ∧ (t.chip.engine e).parked = (s.chip.formePower f.toNat).low) ∧
    (s.chip.rst.device = true → (∀ g, g < 4 → ∃ r ∈ s.chip.rst.formes, r.forme = g) → (s.chip.rst.formes.map FormeReset.forme).Nodup →
      (∀ r ∈ s.chip.rst.formes, r.forced = true ∧ r.stage ≠ .waiting ∧ r.forme < 4) → s.chip.pwr.stop = .none_ → ∃ t, exec .deviceReset s = .next t ∧
        (∀ g, g < 4 → FormeDown t.chip g) ∧ t.chip.host.inForce = false ∧ t.chip.seed = 0 ∧ t.chip.prf.mean = 0 ∧ t.chip.prf.var = 0 ∧ t.chip.prf.n = 0 ∧
        t.chip.prf.hold = false ∧ (∀ e, e < 64 → (t.chip.engine e).spike = {}) ∧ (∀ k ∈ t.chip.cors, k.layers = []))

/-! ### Power, the cold start and the warm restart -/

/-- The chip after a cold reset (R413): every register, queue, table and session is at its reset value, the overseer is at its mask ROM, and
what memory held is undefined (log entry 5). The host's memory and the board's switches are the world outside. -/
def ColdFrom (c t : Chip) : Prop :=
  t.engines = List.replicate 64 {} ∧ t.cors = List.replicate 4 {} ∧ t.dir = [] ∧ t.fab = {} ∧ t.ds = {} ∧ t.prf = {} ∧ t.rst = {} ∧ t.cnts = {} ∧
  t.evr = {} ∧ t.bonds = [] ∧ t.ue = [] ∧ t.evq = [] ∧ t.episodes = [] ∧ t.handlings = [] ∧ t.seed = 0 ∧ t.formesUp = false ∧ t.waitCold = true ∧
  t.ovs.state = .rom ∧ t.ovs.ospiLow = true ∧ t.ovs.time = 0 ∧ t.host.state = .detached ∧ t.host.lines = [] ∧ t.host.l0 = false ∧ t.host.mem = c.host.mem ∧
  ∃ n, ∀ a, a < bufferBase + 0x20000000 → t.mem.get a = Config.freeByte n a

/-- RESET_N, standby power and PWRGD (R413, R523, R526 to R528). RESET_N and the arrival or the loss of standby power leave a cold device; a record whose
mirroring the loss of power cuts short is left torn, and nothing else of the storage changes. When PWRGD falls the formes park, the clocks stop and
every volatile memory is lost, and the overseer runs on. -/
def Says.power_and_reset_pins : Prop :=
  ∀ (s : State),
    (s.chip.standby = false → exec .resetNAssert s = .next s ∧ (∀ b, exec (.standbyPowerOff b) s = .next s) ∧ exec .pwrgdFall s = .next s ∧
      ∃ t, exec .standbyPowerOn s = .next t ∧ ColdFrom s.chip t.chip ∧ t.chip.standby = true ∧ t.board = s.board) ∧
    (s.chip.standby = true → exec .standbyPowerOn s = .next s ∧
      (∃ t, exec .resetNAssert s = .next t ∧ ColdFrom s.chip t.chip ∧ t.chip.standby = true ∧ t.chip.pwr = { thermtrip := s.chip.pwr.thermtrip } ∧ t.board = s.board) ∧
      (∀ torn, ∃ t, exec (.standbyPowerOff torn) s = .next t ∧ ColdFrom s.chip t.chip ∧ t.chip.standby = false ∧ t.chip.pwr = {} ∧
        t.board.flash = s.board.flash ∧ t.board.fuses = s.board.fuses ∧
        (torn = false ∨ s.chip.folioOk = false ∨ s.chip.evr.mirror = [] → t.board = s.board) ∧
        (∀ w ws, torn = true → s.chip.folioOk = true → s.chip.evr.mirror = w :: ws → s.board.folio.first.length < 1024 →
          ∃ v, t.board.folio.first = s.board.folio.first ++ [v] ∧ recSeq v = recSeq w ∧ recCheck v ≠ recSeq v)) ∧
      (s.chip.waitCold = true → exec .pwrgdFall s = .next s) ∧
      (s.chip.waitCold = false → ∃ t n, exec .pwrgdFall s = .next t ∧ t.chip.formesUp = false ∧ t.chip.waitCold = true ∧
        t.chip.engines = s.chip.engines.map (fun x => { x with parked := true }) ∧ t.chip.rst.locked = 0 ∧ t.chip.host.l0 = false ∧
        t.chip.ovs = s.chip.ovs ∧ t.chip.evr = s.chip.evr ∧ t.chip.pwr = { s.chip.pwr with selfRefresh := List.replicate 16 false } ∧ t.board = s.board ∧
        (∀ p ∈ t.chip.fab.ports, p.state ≠ .up ∧ p.state ≠ .training) ∧
        ∀ a, a < bufferBase + 0x20000000 → t.chip.mem.get a = Config.freeByte n a))

/-- The cold start (R463, R466, R467, R182). It begins only where a cold reset waits for it. A flash that does not answer, or no image that
verifies, leads to RECOVERY with IMP_INVALID at FATAL_DEVICE, the formes in reset; otherwise the chosen slot's fields are in force, the owner's
key hash is fused where it was blank and never changed, retired engines stay retired, operand buffers read zero, and the overseer is RUNNING. Every bundle is
tested before slugs run (R389, R392): no lane in use of an engine in service fails. -/
def Obligations.the_cold_start_runs_the_chosen_image : Prop :=
  ∀ (s : State) (good : Bool),
    ((s.chip.standby && s.chip.waitCold) = false → exec (.coldStart good) s = .next s) ∧
    (s.chip.standby = true → s.chip.waitCold = true → (s.chip.ovs.state = .rom → s.chip.formesUp = false) →
      (good = false → ∃ t ev, exec (.coldStart good) s = .next t ∧ t.board = s.board ∧ t.chip.ovs.ospiLow = false ∧ t.chip.wear = s.board.folio.wear ∧ t.chip.ovs.state = .recovery ∧ t.chip.formesUp = false ∧
        t.chip.waitCold = false ∧ t.chip.ovs.boot = s.board.folio.boot + 1 ∧ t.chip.evr.nextSeq = s.board.folio.nextSeq ∧
        ev ∈ t.chip.evq ∧ ev.code = evImpInvalid ∧ ev.sev = .fatalDevice) ∧
      (∀ k, good = true → bootSlot s.board.fuses s.board.flash s.chip.flashOk = (k, none) → ∃ t ev, exec (.coldStart good) s = .next t ∧
        t.board = { s.board with flash := k.flash } ∧ t.chip.ovs.state = .recovery ∧ t.chip.formesUp = false ∧ t.chip.ovs.reverted = k.reverted ∧
        ev ∈ t.chip.evq ∧ ev.code = evImpInvalid ∧ ev.sev = .fatalDevice) ∧
      (∀ k slot img, good = true → bootSlot s.board.fuses s.board.flash s.chip.flashOk = (k, some (slot, img)) → ∃ t, exec (.coldStart good) s = .next t ∧
        t.chip.ovs.state = .running ∧ t.chip.formesUp = true ∧ t.chip.waitCold = false ∧ t.chip.ovs.slot = slot ∧ t.chip.ovs.svn = img.svn ∧
        t.chip.ovs.reverted = k.reverted ∧ t.chip.ovs.boot = s.board.folio.boot + 1 ∧ t.chip.imp = img.imp ∧ t.chip.fab.routes = img.routes ∧
        t.chip.pwr.eff = clampW img.imp.pwrDefaultW ∧ t.chip.wear = s.board.folio.wear ∧ t.board.folio = s.board.folio ∧
        t.board.fuses.ownerHash = some (s.board.fuses.ownerHash.getD (BitVec.ofNat 512 (ofBytes img.owner))) ∧
        (k.trial = false → t.board.flash = k.flash ∧ t.board.fuses.svnMin = s.board.fuses.svnMin) ∧
        (∀ a, bufferBase ≤ a → a < bufferBase + 0x20000000 → t.chip.mem.get a = 0) ∧
        (∀ e, e < 64 → ∀ i, i < bundlesPerEngine → (t.chip.engine e).retired = true ∨ (t.chip.bundle e i).lost = true ∨ t.chip.mapFails e i = []) ∧
        (s.chip.engines.length = 64 → ∀ e, e < 64 → (s.board.folio.retired.any (fun p => p.1 == e) = true → (t.chip.engine e).retired = true) ∧
          ((∀ i, i < bundlesPerEngine → lanesIn (s.chip.condition e i) (bundleKind i) .weak = [] ∧ ∀ l ∈ lanesIn (s.chip.condition e i) (bundleKind i) .failing,
              l ∈ (Tab.get {} (startMap s.board) (Chip.bundleKey e i)).out) →
            (t.chip.engine e).retired = s.board.folio.retired.any (fun p => p.1 == e)))))

/-- The warm restart (R456). Where the overseer's imposition store can be read, the digests of the image it holds still match, and no restart came within the last
second, it goes on after a gap of 5 ms with memory and sessions untouched, the engines having gone on, their tickers at 0.9 to 1.1 GHz; OVS_RESTART is recorded
and heartbeats leave at once. Otherwise the device is cold-reset. The length of the gap is the
manual's bound taken as its value (a choice of the model, log entry 36). -/
def Says.a_warm_restart_keeps_the_data_plane : Prop :=
  ∀ (s : State) (ok : Bool),
    (s.chip.ovs.state = .rom ∨ s.chip.standby = false → exec (.ovsRestart ok) s = .next s) ∧
    (s.chip.ovs.state ≠ .rom → s.chip.standby = true →
      (ok = false ∨ s.chip.storeOk = false ∨ (∃ w, s.chip.ovs.lastWarm = some w ∧ s.chip.ovs.time + 1000000 ≤ w + 200000000) →
        ∃ t, exec (.ovsRestart ok) s = .next t ∧ ColdFrom s.chip t.chip ∧ t.board = s.board) ∧
      (ok = true → s.chip.storeOk = true → (∀ w, s.chip.ovs.lastWarm = some w → w + 200000000 < s.chip.ovs.time + 1000000) →
        ∃ t ev, exec (.ovsRestart ok) s = .next t ∧ t.board = s.board ∧ t.chip.ovs.time = s.chip.ovs.time + 1000000 ∧
          t.chip.ovs.lastWarm = some t.chip.ovs.time ∧ t.chip.ovs.state = s.chip.ovs.state ∧ t.chip.mem = s.chip.mem ∧ t.chip.engines.length = s.chip.engines.length ∧
          (∀ (e : Nat) (x : Engine), s.chip.engines[e]? = some x → ∃ y : Engine, t.chip.engines[e]? = some y ∧
            { y with
              ticker := x.ticker, ticks := x.ticks, pacer := x.pacer, seen := x.seen, rested := x.rested, emptied := x.emptied,
              workSeen := x.workSeen, stalls := x.stalls } = x ∧
            (s.chip.formesUp = false ∨ x.retired = true → y = x) ∧
            (s.chip.formesUp = true → x.retired = false → ∃ n, 4500000 ≤ n ∧ n ≤ 5500000 ∧ y.ticker = x.ticker + BitVec.ofNat 64 n)) ∧
          (∃ c, t.chip = (if s.chip.formesUp then c.heartbeatSend else c) ∧ c.fab = s.chip.fab) ∧
          t.chip.host = s.chip.host ∧ t.chip.cors = s.chip.cors ∧ t.chip.formesUp = s.chip.formesUp ∧
          t.chip.evq = s.chip.evq ++ [ev] ∧ ev.code = evOvsRestart ∧ ev.sev = .deferred ∧
          t.chip.pwr.leases = s.chip.pwr.leases.map fun l => { l with left := l.left.map (· - 5), since := l.since + 5, wSum := l.wSum + 5 * s.chip.pwr.meas }))

/-! ### Temperature, supplies, clocks and power -/

/-- The hardware trip (R442, R446). A reading of 115 °C or more that the device does not ignore as faulty parks every engine, stops the clocks, loses the contents of HBM (log entry 5) and of nothing
else, takes the CXL link and the ports down and asserts THERMTRIP_N; it is latched, so later readings and readings below the threshold change nothing. -/
def Says.a_thermal_trip_stops_the_clocks : Prop :=
  ∀ (s : State) (i : BitVec 7) (r : BitVec 12),
    (s.chip.standby = false ∨ s.chip.pwr.thermtrip = true ∨ r.toNat < degrees 115 ∨ readingOk r.toNat = false ∨ i.toNat ∈ s.chip.pwr.badSensors →
      exec (.thermalTrip i r) s = .next s) ∧
    (s.chip.standby = true → s.chip.pwr.thermtrip = false → degrees 115 ≤ r.toNat → readingOk r.toNat = true → i.toNat ∉ s.chip.pwr.badSensors → ∃ t n, exec (.thermalTrip i r) s = .next t ∧
      t.chip.formesUp = false ∧ t.chip.engines = s.chip.engines.map (fun x => { x with parked := true }) ∧ t.chip.rst = { s.chip.rst with locked := 0 } ∧
      t.chip.host = { s.chip.host with l0 := false, training := false } ∧ t.chip.pwr.trip = some (i.toNat, r.toNat) ∧ t.chip.pwr.thermtrip = true ∧
      t.chip.sent = .thermtrip :: s.chip.sent ∧ t.chip.ovs = s.chip.ovs ∧ (∀ p ∈ t.chip.fab.ports, p.state ≠ .up ∧ p.state ≠ .training) ∧
      t.chip.fab = { s.chip.fab with ports := t.chip.fab.ports } ∧
      (∀ a, a < hbmTop → t.chip.mem.get a = Config.freeByte n a) ∧ (∀ a, hbmTop ≤ a → t.chip.mem.get a = s.chip.mem.get a))

/-- A stack's own sensor (R442, R444): the reading is kept, and refresh runs at twice its rate above 85 °C; a reading outside −40 to 150 °C, or of a sensor found
faulty, leaves the refresh rate. -/
def Says.a_hot_stack_is_refreshed_twice_as_often : Prop :=
  ∀ (s : State) (m : BitVec 4) (r : BitVec 12), s.chip.formesUp = true → s.chip.pwr.refresh2.length = 16 → s.chip.pwr.hbm.length = 16 →
    ∃ t, exec (.hbmStackTempRead m r) s = .next t ∧ t = { s with chip := { s.chip with pwr := { s.chip.pwr with hbm := t.chip.pwr.hbm, refresh2 := t.chip.pwr.refresh2 } } } ∧
      (∀ i, i < 16 → t.chip.pwr.refresh2.getD i false =
        if i = m.toNat ∧ readingOk r.toNat = true ∧ hbmSensor m.toNat ∉ s.chip.pwr.badSensors then decide (degrees 85 < r.toNat) else s.chip.pwr.refresh2.getD i false) ∧
      (∀ i, i < 16 → t.chip.pwr.hbm.getD i 0 = if i = m.toNat then r.toNat else s.chip.pwr.hbm.getD i 0)

/-- The deadline of an orderly stop (R445): what still runs is cut, no queue, core or galley holds anything, every MODIFIED host line of a session in
force is written back (read where no ring's control block is written afterwards), and THERM_STOP is recorded. A stop of R482 goes on to a device reset; any other
leaves the engines parked and the stacks in self-refresh. While MODIFIED lines cannot be written back, the stop waits (R327). Without a stop that drains, or with
the clocks stopped, nothing happens. -/
def Says.the_stop_deadline_cuts_what_runs : Prop :=
  ∀ s : State,
    (s.chip.pwr.stop ≠ .draining ∨ s.chip.formesUp = false → exec .thermDrainExpiry s = .next s) ∧
    (s.chip.pwr.stop = .draining → s.chip.formesUp = true → s.chip.engines.length = 64 → s.chip.stopWaits = true → ∃ t, exec .thermDrainExpiry s = .next t ∧
      t.chip.pwr.stop = .draining ∧ t.chip.host.lines = s.chip.host.lines ∧
      ∀ e, e < 64 → (∀ q, (t.chip.engine e).queue q = []) ∧ (t.chip.engine e).core = none) ∧
    (s.chip.pwr.stop = .draining → s.chip.formesUp = true → s.chip.engines.length = 64 → s.chip.stopWaits = false → ∃ t ev,
      exec .thermDrainExpiry s = .next t ∧ t.chip.pwr.stop = .stopped ∧
      (∀ e, e < 64 → (∀ q, (t.chip.engine e).queue q = []) ∧ (t.chip.engine e).core = none ∧ (t.chip.engine e).galley = [] ∧ (t.chip.engine e).finishing = []) ∧
      (s.chip.host.inForce = true → (s.chip.host.lines.map Prod.fst).Pairwise (· < ·) → (∀ e, e < 64 → (s.chip.engine e).ring = none) →
        ∀ x ∈ t.chip.host.lines, x.2.state ≠ .modified) ∧
      ev ∈ t.chip.evq ∧ ev.code = evThermStop ∧ ev.sev = .deferred ∧
      (s.chip.pwr.deviceStop = true → t.chip.rst.device = true) ∧
      (s.chip.pwr.deviceStop = false → t.chip.pwr.selfRefresh = List.replicate 16 true ∧ ∀ e, e < 64 → (t.chip.engine e).parked = true))

/-- The loss of a lock (R408). CLK_STATUS reads the domain unlocked and keeps the loss; CLK_LOCK_LOST names the domain. A bed domain is reset at once, for
a stack as under CLEAR; CD-CXL takes the host link down with its reference clock; CD-BASE and CD-PLT take the formes down, forced. A code that names no
domain changes nothing. -/
def Says.a_lost_lock_is_contained : Prop :=
  ∀ (s : State) (d : BitVec 5) (f : FormeNo), s.chip.formesUp = true → s.chip.engines.length = 64 → s.chip.cors.length = 4 →
    (d.toNat = 22 ∨ 24 < d.toNat → exec (.clkLockLost d f) s = .next s) ∧
    (d.toNat ≠ 22 → d.toNat ≤ 24 → s.chip.rst.formes = [] → s.chip.rst.device = false → s.chip.rst.beds = [] → s.chip.pwr.stop = .none_ →
      ∃ t ev, exec (.clkLockLost d f) s = .next t ∧ t.chip.rst.locked.getLsbD d.toNat = false ∧ t.chip.rst.lostLock.getLsbD d.toNat = true ∧
        ev ∈ t.chip.evq ∧ ev.code = evClkLockLost ∧ ev.detail = [BitVec.ofNat 64 d.toNat] ∧
        (1 ≤ d.toNat → d.toNat ≤ 20 → t.chip.domDown = s.chip.domDown ++ [d.toNat - 1] ∧
          t.chip.rst.beds = [{
            code := d.toNat - 1, clear := decide (d.toNat ≤ 16), stage := .marked, before := Tab.get 0 s.chip.rst.pathCount (d.toNat - 1) }] ∧ t.chip.mem = s.chip.mem) ∧
        (d.toNat = 24 → t.chip.domDown = s.chip.domDown ++ [20] ∧ t.chip.rst.beds = [{ code := 20, clear := false, stage := .marked, before := Tab.get 0 s.chip.rst.pathCount 20 }]) ∧
        (d.toNat = 21 → t.chip.host = { s.chip.host with l0 := false, training := false, refclk := false }) ∧
        (d.toNat = 0 → t.chip.rst.device = true ∧ ∀ g, g < 4 → FormeDown t.chip g) ∧
        (d.toNat = 23 → ∀ g, g < 4 → FormeDown t.chip g))

/-- Undervoltage (R405, R445). VDD_PRESS of a forme falls: its engines park, no other engine changes, and PRESS_LOW is recorded once at CORRECTED. When it has
recovered they go on, unless a reset, a trip or an orderly stop still holds the forme. -/
def Says.low_press_voltage_parks_a_forme : Prop :=
  ∀ (s : State) (f : FormeNo), s.chip.formesUp = true → s.chip.engines.length = 64 → s.chip.pwr.formes.length = 4 →
    ((s.chip.formePower f.toNat).low = true → exec (.pressLow f) s = .next s) ∧
    ((s.chip.formePower f.toNat).low = false → exec (.pressRecover f) s = .next s ∧
      (let c : Chip := { s.chip with
          pwr := { s.chip.pwr with formes := modifyAt (fun p => { p with low := true }) s.chip.pwr.formes f.toNat },
          engines := s.chip.engines.zipIdx.map (fun (x, e) => if e / 16 = f.toNat then { x with parked := true, rested := true } else x) };
        exec (.pressLow f) s = .next { s with chip := c.raise evPressLow .corrected (74 + f.toNat) (.forme f.toNat) [] }) ∧
      ∃ t ev, exec (.pressLow f) s = .next t ∧ (t.chip.formePower f.toNat).low = true ∧ t.chip.evq = s.chip.evq ++ [ev] ∧ ev.code = evPressLow ∧
        ev.sev = .corrected ∧ ev.dom = .forme f.toNat ∧ t.chip.mem = s.chip.mem ∧
        ∀ e, e < 64 → t.chip.engine e = if e / 16 = f.toNat then { s.chip.engine e with parked := true, rested := true } else s.chip.engine e) ∧
    ((s.chip.formePower f.toNat).low = true → ∃ t, exec (.pressRecover f) s = .next t ∧ (t.chip.formePower f.toNat).low = false ∧
      (f.toNat ∈ s.chip.formeDown ∨ s.chip.pwr.thermtrip = true ∨ s.chip.pwr.stop = .stopped → t = { s with chip := { s.chip with pwr := { s.chip.pwr with formes := modifyAt (fun p => { p with low := false }) s.chip.pwr.formes f.toNat } } }) ∧
      (f.toNat ∉ s.chip.formeDown → s.chip.pwr.thermtrip = false → s.chip.pwr.stop ≠ .stopped → ∀ e, e < 64 → e / 16 = f.toNat → (t.chip.engine e).parked = false))

/-- Droops (R437): each episode is counted, its stretch holds until its end, and nothing else of the machine changes. That the state holds the
number of stretched spines is the model's choice (log entry 95). -/
def Says.droops_are_counted_and_change_no_result : Prop :=
  ∀ s : State, s.chip.formesUp = true →
    exec .droopStretch s = .next { s with chip := { s.chip with
      rst := { s.chip.rst with stretched := s.chip.rst.stretched + 1, droops := s.chip.rst.droops + 1 } } } ∧
    exec .droopStretchEnd s = .next { s with chip := { s.chip with rst := { s.chip.rst with stretched := s.chip.rst.stretched - 1 } } }

/-- The fast loop (R435, R438, R440). Each forme's estimate is the sum of its events since the last loop, each times its coefficient, scaled by the square of its
voltage, and its leakage, by the tables in force (their units and the rounding are the model's choice, log entry 29). In NORMAL, and in MEASURED_ONLY once a
window, the cap level rises, never beyond 240, while the controlled
power is above its target, falls by at most 16 while it is below 97 % of it, and stays in between; in FLOOR it is 240. By how much it moves is left open (log
entry 6). -/
def Says.the_fast_loop_moves_the_cap : Prop :=
  ∀ (s : State) (counts : List (List (BitVec 32))), s.chip.formesUp = true →
    let est (f : Nat) (p : FormePower) : Nat :=
      let n := Chip.events (s.chip.activity f) p.seen ((counts.map fun l => l.map BitVec.toNat).getD f [])
      let v := 6000 + 125 * p.step
      (n.zipIdx.map fun (x, i) => x * Config.powerCoeff s.chip.pwrTable i).sum * v ^ 2 / (7500 ^ 2 * 2 ^ 20) +
        Config.powerLeakage s.chip.pwrTable p.step ((s.chip.highest (Chip.junctions f)).getD 0)
    let formes := s.chip.pwr.formes.zipIdx.map fun (p, f) => { p with est := est f p, seen := s.chip.activity f }
    let c : Chip := { s.chip with pwr := { s.chip.pwr with formes } }
    ∃ t, exec (.fastPowerLoop counts) s = .next t ∧ t.chip.pwr.formes = formes ∧ t.chip.mem = s.chip.mem ∧ t.chip.engines = s.chip.engines ∧
      t.chip.pwr.estCount = s.chip.pwr.estCount + 1 ∧ t.chip.pwr.estSum = s.chip.pwr.estSum + c.estimate ∧
      t.chip.pwr.capCount = s.chip.pwr.capCount + 1 ∧ t.chip.pwr.capSum = s.chip.pwr.capSum + t.chip.pwr.cap ∧
      (s.chip.pwr.mode = .floor → t.chip.pwr.cap = 240) ∧
      (s.chip.pwr.mode = .normal ∨ (s.chip.pwr.mode = .measuredOnly ∧ s.chip.pwr.window = true) →
        (c.aboveTarget = true → (s.chip.pwr.cap < 240 → s.chip.pwr.cap < t.chip.pwr.cap ∧ t.chip.pwr.cap ≤ 240) ∧
          (240 ≤ s.chip.pwr.cap → t.chip.pwr.cap = s.chip.pwr.cap)) ∧
        (c.aboveTarget = false → c.belowTarget 97 = true → 0 < s.chip.pwr.cap → t.chip.pwr.cap < s.chip.pwr.cap ∧ s.chip.pwr.cap ≤ t.chip.pwr.cap + 16) ∧
        (c.aboveTarget = false → c.belowTarget 97 = false → t.chip.pwr.cap = s.chip.pwr.cap)) ∧
      (s.chip.pwr.mode = .measuredOnly → s.chip.pwr.window = false → t.chip.pwr.cap = s.chip.pwr.cap)

/-- The end of a lease (R427). The lease that has run out is gone and LEASE_EXPIRED is recorded; the limit in force is the lowest of the live leases,
or PWR_DEFAULT_W when none is live, and never above LOCAL_CEIL_W, each clamped to 1,000 to 2,500 W. -/
def Says.an_expired_lease_frees_the_limit : Prop :=
  ∀ (s : State) (d : DeviceId), s.chip.formesUp = true →
    ((∀ l ∈ s.chip.pwr.leases, ¬(l.sender = d.toNat ∧ l.left = some 0)) → exec (.leaseExpired d) s = .next s) ∧
    ((∃ l ∈ s.chip.pwr.leases, l.sender = d.toNat ∧ l.left = some 0) → ∃ t ev, exec (.leaseExpired d) s = .next t ∧
      t.chip.pwr.leases = s.chip.pwr.leases.filter (fun l => !(l.sender == d.toNat && l.left == some 0)) ∧
      ev ∈ t.chip.evq ∧ ev.code = evLeaseExpired ∧ ev.sev = .note ∧ t.chip.mem = s.chip.mem ∧ t.chip.engines = s.chip.engines ∧
      1000 ≤ t.chip.pwr.eff ∧ t.chip.pwr.eff ≤ 2500 ∧ t.chip.pwr.eff ≤ clampW s.chip.pwr.localCeil ∧
      (∀ l ∈ t.chip.pwr.leases, l.left ≠ some 0 → t.chip.pwr.eff ≤ clampW l.limit) ∧
      ((∀ l ∈ t.chip.pwr.leases, l.left = some 0) → t.chip.pwr.eff = min (clampW s.chip.imp.pwrDefaultW) (clampW s.chip.pwr.localCeil)))

/-- Slack reports (R431): a live lease that asks for them gets its report when its period is over, under the next management sequence number, and its period
begins anew; otherwise nothing is sent. It carries the report's number, the milliseconds covered, the fraction of pacer cycles spent in FABRIC_RECV since
the last report, and the limit in force; a fraction of a whole or of no cycles is the model's free value (log entry 96). A message that no path carries is
not sent. -/
def Says.slack_reports_follow_their_period : Prop :=
  ∀ (s : State) (d : DeviceId), s.chip.formesUp = true →
    ((∀ l ∈ s.chip.pwr.leases, l.sender = d.toNat → l.left = some 0 ∨ l.slack = 0 ∨ l.since < l.slack) → exec (.slackReport d) s = .next s) ∧
    ((∃ l ∈ s.chip.pwr.leases, l.sender = d.toNat ∧ l.left ≠ some 0 ∧ l.slack ≠ 0 ∧ l.slack ≤ l.since) → ∃ t, exec (.slackReport d) s = .next t ∧
      (s.chip.fab.idValid = true → s.chip.unreachable d.toNat = false → ∃ p, t.chip.sent.head? = some (.mgmt d.toNat 0x12 s.chip.fab.mgmtSeq 0 p) ∧
        ∀ l, s.chip.pwr.leases = [l] → l.seq + 1 < 2 ^ 32 → s.chip.pwr.eff < 2 ^ 16 → fld p 31 0 = l.seq + 1 ∧ fld p 63 32 = l.since * 1000 % 2 ^ 32 ∧
          fld p 143 128 = s.chip.pwr.eff ∧
          (let k := Slack.since s.chip.pwr.slack l.slackAt
           k.recv < k.cycles → fld p 79 64 = k.recv * 65536 / k.cycles)) ∧
      (s.chip.fab.idValid = false ∨ s.chip.unreachable d.toNat = true → t.chip.sent = s.chip.sent) ∧ t.chip.fab.mgmtSeq = (s.chip.fab.mgmtSeq + 1) % p2 16 ∧
      t.chip.pwr.leases = s.chip.pwr.leases.map (fun l => if l.sender = d.toNat
        then { l with seq := l.seq + 1, since := 0, wSum := 0, slackAt := s.chip.pwr.slack } else l) ∧
      t.chip.mem = s.chip.mem ∧ t.chip.engines = s.chip.engines)

/-- PVID frames (R521): a frame that is not echoed is sent again at most three times; after that the forme is held at its last echoed step, and SENSOR_FAULT is
recorded. A forme with no frame outstanding, or held, sends nothing. -/
def Says.pvid_frames_are_resent_three_times : Prop :=
  ∀ (s : State) (f : FormeNo), s.chip.formesUp = true → s.chip.pwr.formes.length = 4 →
    let p := s.chip.formePower f.toNat
    let moved (g : FormePower → FormePower) : Chip := { s.chip with pwr := { s.chip.pwr with formes := modifyAt g s.chip.pwr.formes f.toNat } }
    (p.pvidTries = 0 ∨ p.heldAt = true → exec (.pvidResend f) s = .next s) ∧
    (p.pvidTries ≠ 0 → p.heldAt = false →
      (p.pvidTries < 4 → exec (.pvidResend f) s = .next { s with chip := { (moved fun p => { p with pvidTries := p.pvidTries + 1 }) with
          sent := .pvid f.toNat (pvidFrame p.step p.pvidSeq.toNat) :: s.chip.sent } }) ∧
      (4 ≤ p.pvidTries → exec (.pvidResend f) s = .next { s with
        chip := (moved fun p => { p with step := p.echoed, heldAt := true, pvidTries := 0 }).raise evSensorFault .deferred (74 + f.toNat) (.forme f.toNat) [] }) ∧
      (p.pvidTries < 4 → ∃ t, exec (.pvidResend f) s = .next t ∧ t.chip.sent = .pvid f.toNat (pvidFrame p.step p.pvidSeq.toNat) :: s.chip.sent ∧
        t.chip.formePower f.toNat = { p with pvidTries := p.pvidTries + 1 } ∧ t.chip.evq = s.chip.evq ∧
        ∀ g, g ≠ f.toNat → t.chip.formePower g = s.chip.formePower g) ∧
      (4 ≤ p.pvidTries → ∃ t ev, exec (.pvidResend f) s = .next t ∧ t.chip.sent = s.chip.sent ∧
        t.chip.formePower f.toNat = { p with step := p.echoed, heldAt := true, pvidTries := 0 } ∧ t.chip.evq = s.chip.evq ++ [ev] ∧
        ev.code = evSensorFault ∧ ev.sev = .deferred ∧ ∀ g, g ≠ f.toNat → t.chip.formePower g = s.chip.formePower g))

/-- CAP_UNMET and MEASURED_ONLY (R436, R441). Five consecutive windows set each, once, with its record at DEFERRED; fewer change nothing, and a mode other than
NORMAL does not go to MEASURED_ONLY. -/
def Says.five_windows_set_cap_unmet_and_measured_only : Prop :=
  ∀ s : State, s.chip.formesUp = true →
    (s.chip.pwr.unmetRun < 5 ∨ s.chip.pwr.unmet = true → exec .capUnmet s = .next s) ∧
    (5 ≤ s.chip.pwr.unmetRun → s.chip.pwr.unmet = false → ∃ t ev, exec .capUnmet s = .next t ∧ t.chip.pwr = { s.chip.pwr with unmet := true } ∧
      t.chip.evq = s.chip.evq ++ [ev] ∧ ev.code = evCapUnmet ∧ ev.sev = .deferred ∧ t.chip.engines = s.chip.engines ∧ t.chip.mem = s.chip.mem) ∧
    (s.chip.pwr.mode ≠ .normal ∨ s.chip.pwr.disagree < 5 → exec .measuredOnly s = .next s) ∧
    (s.chip.pwr.mode = .normal → 5 ≤ s.chip.pwr.disagree → ∃ t ev, exec .measuredOnly s = .next t ∧
      t.chip.pwr = { s.chip.pwr with mode := .measuredOnly, moEntered := true, disagree := 0 } ∧
      t.chip.evq = s.chip.evq ++ [ev] ∧ ev.code = evMeasuredOnly ∧ ev.sev = .deferred ∧ t.chip.engines = s.chip.engines ∧ t.chip.mem = s.chip.mem)

/-! ### Errors, and the overseer's own work -/

/-- The episode of a unit error (R477, R479 to R481), for an error of severity `sev` and domain `d` that counts under address `a`. -/
structure Nests (c t : Chip) (code : Nat) (sev : Severity) (d : Dom) (a : Option Nat) : Prop where
  /-- Outside an episode, one of DEFERRED or above opens an episode and asks for its handling. -/
  opens : c.covering d = none → ∃ ev, t.evq = c.evq ++ [ev] ∧ ev.code = code ∧ ev.sev = sev ∧ ev.dom = d ∧ ev.nested = false ∧ ev.episode = c.nextEpisode ∧
    t.nextEpisode = c.nextEpisode + 1 ∧ t.covering d ≠ none ∧
    t.handlings = if Severity.fatalEngine.le sev then c.handlings ++ [.handle sev d] else c.handlings
  /-- Within one, it is nested; an address that has counted changes nothing more. -/
  seen : ∀ ep w, c.covering d = some ep → a = some w → ep.addrs.contains w = true → ∃ ev, t.evq = c.evq ++ [ev] ∧ ev.code = code ∧ ev.nested = true ∧
    ev.episode = ep.num ∧ t.episodes = c.episodes ∧ t.handlings = c.handlings
  /-- Otherwise it counts: the third asks for a stop; one at least as severe as the episode raises it one level. -/
  counts : ∀ ep, c.covering d = some ep → (∀ w, a = some w → ep.addrs.contains w = false) → ∃ ev, t.evq = c.evq ++ [ev] ∧ ev.code = code ∧ ev.nested = true ∧
    ev.episode = ep.num ∧
    t.handlings = c.handlings ++ (if 3 ≤ ep.count + 1 then [.stop]
      else if ep.level.le sev then [.handle (nextLevel ep.level ep.dom) (spanOf (nextLevel ep.level ep.dom) ep.dom)] else [])

/-- Errors that units report (R118, R200, R477 to R482, R501, R535). A reported error of R502 nests or opens an episode; a corrected error is recorded at
CORRECTED, that of a word without an address too, and counted where a stack has it; an upset word holds an uncorrectable error until it is written; a bad cache line is dropped; one in a
register, a galley entry, a spike record or a MODIFIED host line stays with it. No error of this kind changes memory, and none is met while the formes are down,
but for one of a word of the overseer's SRAM, which is corrected, or stays bad (R454; log entry 116), where the overseer runs. -/
def Obligations.unit_errors_nest_and_stay : Prop :=
  ∀ (s : State), (s.chip.formesUp = false → ∀ x, (∀ m w b, x ≠ .ovsWord m w b) → exec (.unitError x) s = .next s) ∧
    (∀ m w b, s.chip.formesUp = false → s.chip.standby = false ∨ s.chip.ovs.state = .rom → exec (.unitError (.ovsWord m w b)) s = .next s) ∧
    (∀ m w, s.chip.formesUp = true ∨ (s.chip.standby = true ∧ s.chip.ovs.state ≠ .rom) →
      (∃ t ev, exec (.unitError (.ovsWord m w false)) s = .next t ∧ t = { s with chip := { s.chip with evq := s.chip.evq ++ [ev] } } ∧ ev.code = evEccCorrected ∧
        ev.sev = .corrected ∧ ev.source = srcOvs ∧ ev.dom = .device) ∧
      exec (.unitError (.ovsWord m w true)) s = .next { s with chip := { s.chip with ovs := { s.chip.ovs with
        badWords := if s.chip.ovs.badWords.contains (m, w.toNat) then s.chip.ovs.badWords else s.chip.ovs.badWords ++ [(m, w.toNat)] } } }) ∧
    (s.chip.formesUp = true →
      (∀ code src d a, unitSeverity code.toNat = none → exec (.unitError (.reported code src d a)) s = .next s) ∧
      (∀ code src d a sev, unitSeverity code.toNat = some sev → code.toNat ≠ evClkLockLost → ∃ t, exec (.unitError (.reported code src d a)) s = .next t ∧
        Nests s.chip t.chip code.toNat sev (errDom d) (a.map BitVec.toNat) ∧ t.chip.mem = s.chip.mem ∧ t.chip.engines = s.chip.engines) ∧
      (∀ a, placeOf a.toNat = .nowhere → exec (.unitError (.corrected a)) s = .next s ∧ exec (.unitError (.uncorrectable a)) s = .next s) ∧
      (∀ a, placeOf a.toNat ≠ .nowhere → ∃ t ev, exec (.unitError (.corrected a)) s = .next t ∧ t.chip.evq = s.chip.evq ++ [ev] ∧ ev.code = evEccCorrected ∧
        ev.sev = .corrected ∧ ev.detail = [BitVec.ofNat 64 (unitOf a.toNat)] ∧ t.chip.mem = s.chip.mem ∧ t.chip.ue = s.chip.ue ∧
        ∀ m, placeOf a.toNat = .hbm m → t.chip.cnts = { s.chip.cnts with hbmCe := modifyAt (fun n => bump48 n 1) s.chip.cnts.hbmCe (m / 4) }) ∧
      (∀ a, placeOf a.toNat ≠ .nowhere → exec (.unitError (.uncorrectable a)) s =
        withChip s { s.chip with ue := if s.chip.ue.contains (unitOf a.toNat) then s.chip.ue else s.chip.ue ++ [unitOf a.toNat] }) ∧
      (∀ (e : EngineNo) sp (a : BitVec 64), (s.chip.engine e.toNat).findLine sp.toNat (a.toNat / 128 * 128) = none →
        exec (.unitError (.cacheLine e sp a)) s = .next s) ∧
      (∀ (e : EngineNo) sp (a : BitVec 64) l, s.chip.engines.length = 64 → (s.chip.engine e.toNat).findLine sp.toNat (a.toNat / 128 * 128) = some l →
        ∃ t ev, exec (.unitError (.cacheLine e sp a)) s = .next t ∧ (t.chip.engine e.toNat).findLine sp.toNat (a.toNat / 128 * 128) = none ∧
          t.chip.evq = s.chip.evq ++ [ev] ∧ ev.code = evPlatenLineDropped ∧ ev.sev = .corrected ∧ t.chip.mem = s.chip.mem) ∧
      (∀ (e : EngineNo) w, s.chip.engines.length = 64 → ∃ t, exec (.unitError (.register e w)) s = .next t ∧ w.toNat ∈ (t.chip.engine e.toNat).vregUe ∧
        (t.chip.engine e.toNat).vregs = (s.chip.engine e.toNat).vregs ∧ t.chip.mem = s.chip.mem) ∧
      (∀ e : EngineNo, ∃ t ev, exec (.unitError (.correctedWord e)) s = .next t ∧ t.chip.evq = s.chip.evq ++ [ev] ∧ ev.code = evEccCorrected ∧
        ev.sev = .corrected ∧ ev.dom = .engine e.toNat ∧ t.chip.mem = s.chip.mem ∧ t.chip.engines = s.chip.engines) ∧
      (∀ (e : EngineNo) (i : BitVec 4) (w : BitVec 9), s.chip.engines.length = 64 → ∃ t, exec (.unitError (.galley e i w)) s = .next t ∧ t.chip.mem = s.chip.mem ∧
        (t.chip.engine e.toNat).galley.length = (s.chip.engine e.toNat).galley.length ∧
        ∀ k g, (s.chip.engine e.toNat).galley[k]? = some g → ∃ g2, (t.chip.engine e.toNat).galley[k]? = some g2 ∧ { g2 with ue := g.ue } = g ∧
          ∀ x, x ∈ g2.ue ↔ x ∈ g.ue ∨ (k = i.toNat ∧ x = w.toNat)) ∧
      (∀ (e : EngineNo) (f : BitVec 4) (i : BitVec 16), s.chip.engines.length = 64 → ∃ t, exec (.unitError (.spikeRecord e f i)) s = .next t ∧
        t.chip.mem = s.chip.mem ∧ ∀ r, ((Tab.get {} (t.chip.engine e.toNat).spike.frame f.toNat).recs)[i.toNat]? = some r → r.ue = true) ∧
      (∀ (l : BitVec 46), exec (.unitError (.hostLine l)) s = match Tab.find? l.toNat s.chip.host.lines with
        | some k => if k.state = .modified then withChip s { s.chip with host := { s.chip.host with lines := Tab.set l.toNat { k with ue := true } s.chip.host.lines } }
          else .next s
        | none => .next s))

/-- The recorder (R483 to R485): every event that waits takes the next SEQ in turn, and its record stands in the ring at SEQ mod 4,096 under the OVS_TIME
and BOOT of the moment; nothing waits any more. -/
def Obligations.events_are_recorded_in_order : Prop :=
  ∀ (c : Chip), c.evq.length ≤ 4096 →
    c.recordAll.evq = [] ∧ c.recordAll.evr.nextSeq = c.evr.nextSeq + c.evq.length ∧ c.recordAll.mem = c.mem ∧
    ∀ i ev, c.evq[i]? = some ev → Tab.find? ((c.evr.nextSeq + i) % p2 64 % 4096) c.recordAll.evr.ring =
      some (recordOfEvent ev (c.evr.nextSeq + i) c.ovs.time c.ovs.boot)

/-- The writes of the overseer's store that wait for their temperature (R447, R448, R490). Outside its bound nothing is written, and outside a run there is
no overseer to write. Within it, the last-run record is rewritten, every record that waits goes to the folio store in order, BOOT is written, and a bond map
that waits is written; a trial that waits is confirmed where the flash is within its own bound, which raises SVN_MIN where the image asks for it. -/
def Obligations.deferred_writes_reach_the_board : Prop :=
  ∀ s : State,
    (s.chip.standby = false ∨ s.chip.ovs.state = .rom → exec .lastRunWrite s = .next s ∧ exec .deferredWriteFlush s = .next s) ∧
    (s.chip.standby = true → s.chip.ovs.state ≠ .rom →
      (s.chip.folioOk = false → exec .lastRunWrite s = .next s) ∧
      (s.chip.folioOk = true → exec .lastRunWrite s = .next { s with board := { s.board with folio := { s.board.folio with
        lastRun := { s.board.folio.lastRun with
          boot := s.chip.ovs.boot, time := s.chip.ovs.time, tjMax := s.chip.pwr.tjMax,
          mode := Chip.pwrModeCode s.chip.pwr.mode, state := ovsStateCode s.chip.ovs.state } } } }) ∧
      (s.chip.folioOk = false → s.chip.ovs.confirm = false ∨ s.chip.flashOk = false → exec .deferredWriteFlush s = .next s) ∧
      (s.chip.folioOk = true → ∃ t, exec .deferredWriteFlush s = .next t ∧ t.chip.evr.mirror = [] ∧ t.board.folio.boot = s.chip.ovs.boot ∧
        (s.board.folio.first.length + s.chip.evr.mirror.length ≤ 1024 → t.board.folio.first = s.board.folio.first ++ s.chip.evr.mirror) ∧
        t.chip.evr.mapDirty = false ∧
        (s.chip.evr.mapDirty = true → t.board.folio.bonds = s.chip.bonds.map (fun (k, b) => (k, Chip.mapEntry b))) ∧
        (s.chip.evr.mapDirty = false → t.board.folio.bonds = s.board.folio.bonds)) ∧
      (∃ t, exec .deferredWriteFlush s = .next t ∧ t.chip.mem = s.chip.mem ∧ t.chip.engines = s.chip.engines ∧ t.board.fuses.ownerHash = s.board.fuses.ownerHash ∧
        ((s.chip.ovs.confirm && s.chip.flashOk) = true → t.chip.ovs.confirm = false ∧ t.chip.ovs.trial = false ∧
          t.board.flash = dirWrite s.board.flash .confirm s.chip.ovs.slot 0 0 ∧
          t.board.fuses.svnMin = if s.chip.ovs.raiseSvn then max s.board.fuses.svnMin s.chip.ovs.svn else s.board.fuses.svnMin) ∧
        ((s.chip.ovs.confirm && s.chip.flashOk) = false → t.board.flash = s.board.flash ∧ t.board.fuses = s.board.fuses)))

/-- The overseer's loop (R455). It runs only where the overseer runs. Its tasks come in the order of R455: time passes, thermal checks and the slow loop,
resets, management messages, attaches, heartbeats on every fifth loop, then records and updates. Time passes by 1 ms of OVS_TIME, and every ticker is measured
(R215); a reading of 105 °C or more begins an orderly stop (R443); M is the sum of the rails' average powers, a rail out of its range or with one value for 100
windows while its load changed is faulty (R439), and the window's M is kept (R435). Without the formes, only readings are taken, an attach in RECOVERY is held (R468), and what waits is recorded. -/
def Obligations.the_overseer_loop_does_its_tasks : Prop :=
  (∀ (s : State) (i : LoopIn), s.chip.standby = false ∨ (s.chip.ovs.state ≠ .running ∧ s.chip.ovs.state ≠ .recovery) → exec (.overseerLoop i) s = .next s) ∧
  (∀ (s : State) (i : LoopIn), s.chip.standby = true → s.chip.ovs.state = .running → s.chip.formesUp = true →
    let c1 := ((s.chip.passTime i).thermalChecks (i.temps.map BitVec.toNat)).railCheck i.rails i.loadMoved
    let c2 := c1.2.slowLoop (Chip.measuredW i.rails) c1.1
    let c3 := ((Chip.mgmtTask s.board c2.fab.mgmt.length c2.resetTask).attachTask).beatTask
    let d := ((Dev.mk (if c3.ovs.state = .recovery then c3.holdAttach else c3).sampleAll s.board).recordTask).updateTask i
    exec (.overseerLoop i) s = .next { s with chip := d.chip, board := d.board }) ∧
  (∀ (c : Chip) (i : LoopIn), let t := c.passTime i
    t.ovs.time = c.ovs.time + 200000 ∧ t.ovs.loops = c.ovs.loops + 1 ∧ t.mem = c.mem ∧ t.evq = c.evq ∧
    (c.formesUp = true → c.engines.length = 64 → ∀ e, e < 64 → (t.engine e).tickRate = (i.tickKhz.getD e 0) ∧ (t.engine e).ticker =
      if (c.engine e).retired then (c.engine e).ticker else (c.engine e).ticker + BitVec.ofNat 64 (i.tickKhz.getD e 0).toNat)) ∧
  (∀ (c : Chip) (temps : List Nat) (k : Nat) (r : Nat), k < 112 → temps[k]? = some r → degrees 105 ≤ r → r ≤ degrees 150 → c.pwr.badSensors.contains k = false →
    (c.thermalChecks temps).pwr.stop ≠ .none_ ∧
    (c.pwr.stop = .none_ → ∀ e, e < c.engines.length → ((c.thermalChecks temps).engine e).stopAdm = true)) ∧
  (∀ (c : Chip) (rails : List (List (BitVec 16 × BitVec 24))) (moved : BitVec 13) (i : Nat), i < 13 → c.pwr.rails.length = 13 →
    let r := Chip.railWindow (c.pwr.rails.getD i {}) (Chip.railMicroW (rails.getD i [])) (moved.getLsbD i)
    ((c.railCheck rails moved).1.getLsbD i = true ↔
      (∃ x ∈ rails.getD i [], Config.railInRange i x.1.toNat x.2.toNat = false) ∨ (100 ≤ r.run ∧ r.moved = true)) ∧
    (c.railCheck rails moved).2.pwr.rails.getD i {} = r) ∧
  (∀ (c : Chip) (w : Nat) (rf : BitVec 13), (c.slowLoop w rf).pwr.meas = w ∧ (c.slowLoop w rf).pwr.estCount = 0 ∧ (c.slowLoop w rf).pwr.capCount = 0 ∧
    (c.slowLoop w rf).mem = c.mem) ∧
  (∀ (s : State) (i : LoopIn), s.chip.standby = true → s.chip.ovs.state = .recovery → s.chip.formesUp = false →
    s.chip.ovs.upd.stage = .idle → s.chip.ovs.upd.asked = false → s.chip.ovs.clr.stage = .idle → s.chip.ovs.clr.asked = false →
    ∃ t, exec (.overseerLoop i) s = .next t ∧ t.chip.ovs.time = s.chip.ovs.time + 200000 ∧ t.chip.ovs.loops = s.chip.ovs.loops + 1 ∧
      t.chip.ovs.state = .recovery ∧ t.chip.pwr.temps = i.temps.map BitVec.toNat ∧ t.chip.evq = [] ∧ t.chip.mem = s.chip.mem ∧
      s.chip.evr.nextSeq + s.chip.evq.length ≤ t.chip.evr.nextSeq ∧ t.chip.host.attachOp = 0 ∧
      (s.chip.host.attachOp = 1 ∨ s.chip.host.attachOp = 3 → t.chip.host.state = .attaching ∧ t.chip.host.busy = true))

/-! ### What resets leave -/

/-- The rows of resets other than a cold one (R413): engine, bed-domain, forme and device resets as they go on, and the host's resets. -/
def resetRow : Instr → Bool
  | .engineReset _ => true
  | .bedReset _ => true
  | .bedDomainReady _ => true
  | .formeReset _ => true
  | .quiesceWatchdog _ => true
  | .deviceReset => true
  | .hostReset _ => true
  | _ => false

/-- What survives every reset other than cold (R414): the ticker counts, the bond map and the wear tracker, the event recorder and the folio store (a
reset may add events for it to record; of its registers, a host reset disables ALARM_IRQ_EN alone), and the imposition held by the overseer. The tests of
R389 that end an engine's or a forme's reset may map lanes out; they bring none back, and where no lane fails or is weak the map stays as it was. -/
def Obligations.what_survives_every_reset_but_cold : Prop :=
  ∀ (i : Instr) (s : State), resetRow i = true → s.chip.engines.length = 64 → ∃ t, exec i s = .next t ∧
    (∀ e, e < 64 → (t.chip.engine e).ticker = (s.chip.engine e).ticker) ∧ t.chip.wear = s.chip.wear ∧
    (∀ e k, ∀ l ∈ (s.chip.bundle e k).out, l ∈ (t.chip.bundle e k).out) ∧
    ((∀ e k, e < 64 → k < bundlesPerEngine → s.chip.mapFails e k = [] ∧ lanesIn (s.chip.condition e k) (bundleKind k) .weak = []) →
      t.chip.bonds = s.chip.bonds ∧ t.chip.evr.mapDirty = s.chip.evr.mapDirty) ∧
    t.chip.evr = { s.chip.evr with irqEn := t.chip.evr.irqEn, mapDirty := t.chip.evr.mapDirty } ∧ (∃ new, t.chip.evq = s.chip.evq ++ new) ∧
    t.board = s.board ∧ t.chip.imp = s.chip.imp ∧ t.chip.ovs.image = s.chip.ovs.image

/-- An offset that the map does not list reads as zero and ignores writes (R505). -/
def Obligations.unlisted_offsets_read_zero_and_ignore_writes : Prop :=
  ∀ (s : State) (path : Path) (o : BitVec 16) (size : BitVec 4) (v : W64), regAt (o.toNat / 8 * 8) = none →
    s.chip.readSlot s.board path (o.toNat / 8 * 8) = 0 ∧ exec (.registerWrite path o size v) s = .next s

/-- PRF_RELEASE (R242) reads as zero. Written, on a path that reaches it, while HOLD is 1, 0b01 is APPLY, which clears HOLD and lets the held slugs begin, and 0b10 is SKIP, which ends
them with UPDATE_SKIPPED; other values are ignored, reserved bits too, and so is every write while HOLD is 0. -/
def Obligations.prf_release_follows_its_field : Prop :=
  ∀ (s : State) (path : Path) (v : W64),
    s.chip.readSlot s.board path 0x510 = 0 ∧
    (v.toNat % 4 = 0 ∨ v.toNat % 4 = 3 ∨ s.chip.prf.hold = false → exec (.registerWrite path 0x510 4 v) s = .next s) ∧
    (v.toNat % 4 = 1 → s.chip.prf.hold = true → Opens s path → exec (.registerWrite path 0x510 4 v) s = withChip s { s.chip with prf := { s.chip.prf with hold := false } }) ∧
    (v.toNat % 4 = 2 → s.chip.prf.hold = true → exec (.registerWrite path 0x510 4 v) s = exec (.releaseSkip path) s)

/-- The Reset columns of the registers that software can read at any time (R7): offset and value. -/
def resetColumn : List (Nat × W64) :=
  [(0x000, 0x3635322D34534B54), (0x008, 0x00000000434C2D30), (0x040, 0xFFFFFFFFFFFFFFFF),
   (0x100, 0), (0x108, 0), (0x110, 0), (0x118, 0), (0x120, 0), (0x200, 0), (0x208, 0), (0x210, 0), (0x218, 0),
   (0x300, 0), (0x308, 0), (0x310, 0x400000), (0x400, 0x089809C4), (0x408, 0), (0x410, 0x14141414), (0x418, 0),
   (0x500, 0), (0x508, 0), (0x510, 0), (0x518, 0), (0x520, 0), (0x528, 0), (0x580, 0)] ++
  [(0x600, 0), (0x608, 0), (0x610, 0), (0x618, 0), (0x620, 0), (0x628, 0), (0x640, 0), (0x648, 0),
   (0x700, 0), (0x710, 0), (0x718, 0), (0x720, 0), (0x728, 0), (0x730, 0), (0x738, 0), (0x800, 0), (0x808, 0), (0x900, 0), (0x908, 0), (0x910, 0),
   (0xA00, 0), (0x1000, 0x100808), (0x1400, 0x7FEFF3FC), (0x1600, 0), (0x4040, 0), (0x1E08, 0x100000000), (0x1F00, 0)]

/-- Right after reset: every register of `resetColumn` reads its value on every path, no command waits, the formes are not up, every queue, core, vector
register and record is empty, and the ports are down. -/
def Obligations.reset_leaves_the_manuals_values : Prop :=
  (∀ path : Path, ∀ x ∈ resetColumn, State.reset.chip.readSlot State.reset.board path x.1 = x.2) ∧
  State.reset.pending = [] ∧ State.reset.chip.formesUp = false ∧ State.reset.chip.ovs.state = .rom ∧
  State.reset.chip.engines.length = 64 ∧ (∀ x ∈ State.reset.chip.engines, (∀ q : QId, x.queue q = []) ∧ x.core = none ∧ x.vregs = [] ∧ x.tds = [] ∧
    x.spike.frame = [] ∧ x.ticker = 0 ∧ x.retired = false) ∧
  State.reset.chip.fab.ports.length = 16 ∧ (∀ p ∈ State.reset.chip.fab.ports, p.state = .down) ∧
  State.reset.chip.host.state = .detached ∧ State.reset.chip.pwr.mode = .normal ∧ State.reset.chip.evq = [] ∧ State.reset.chip.mem.wf = true

/-! ### Statements in several parts -/

/-- Seed, proofreader, reset-request, power and platen-split writes: the four statements named here. -/
def Obligations.control_register_writes_take_effect : Prop :=
  Says.seed_and_proofreader_writes ∧ Says.reset_requests_are_noted ∧ Says.rearm_sets_ceilings_and_mode ∧ Says.platen_split_is_asked_for

/-- Job ring, fabric port, fabric table and counter writes: the four statements named here. -/
def Obligations.ring_port_table_and_counter_writes : Prop :=
  Says.job_rings_ring_poll_and_stop ∧ Says.port_control_disables_and_retrains ∧ Says.fabric_tables_are_written_through_their_path ∧ Says.counters_are_zeroed_selected_and_latched

/-- Update, clear and attach requests wait for the loop; an unmasked vector sends what was pending: the three statements named here. -/
def Obligations.requests_that_wait_for_the_loop : Prop :=
  Says.updates_and_clears_are_asked_for ∧ Says.msix_unmask_sends_what_was_pending ∧ Says.attach_operations_wait_for_the_loop

/-- Ports train, come up and go down, and send heartbeats: the two statements named here. -/
def Obligations.ports_train_come_up_and_beat : Prop :=
  Says.ports_train_and_come_up ∧ Says.heartbeats_leave_on_every_live_port

/-- Collective frames join their call; all-to-all rows and marks are stored: the two statements named here. -/
def Obligations.collective_and_all_to_all_frames : Prop :=
  Says.collective_frames_join_their_call ∧ Says.all_to_all_frames_are_stored

/-- Watches, invalidations, responses, retries and timeouts: the two statements named here. -/
def Obligations.watches_and_answers : Prop :=
  Says.watches_and_invalidations ∧ Says.requests_are_answered_resent_or_lost

/-- Management messages are queued and acted on in order: the three statements named here. -/
def Obligations.management_messages_are_served : Prop :=
  Says.management_messages_are_queued ∧ Says.register_messages_read_and_write ∧ Says.fabric_and_power_messages_are_acted_on

/-- The I3C target and the SPDM responder answer: the two statements named here. -/
def Obligations.management_buses_answer : Prop :=
  Says.i3c_target_answers ∧ Says.spdm_requests_are_answered

/-- Snoops, responses and control-block stores: the two statements named here. -/
def Obligations.the_host_line_cache_follows_the_protocol : Prop :=
  Says.snoops_and_responses ∧ Says.a_store_to_a_control_block_is_its_doorbell

/-- The host link trains and recovers; a host loss ends the session: the two statements named here. -/
def Obligations.the_host_link_and_its_loss : Prop :=
  Says.the_host_link_trains_and_recovers ∧ Says.host_losses_end_the_session

/-- SET fills its destination; PREFETCH fills cache lines: the two statements named here. -/
def Obligations.set_and_prefetch : Prop :=
  Says.set_fills_the_destination ∧ Says.prefetch_fills_cache_lines

/-- MATMUL stores or publishes its tile, and a freed galley entry lets the array go on: the two statements named here. -/
def Obligations.matmul_output_and_the_galley : Prop :=
  Says.matmul_stores_or_publishes_its_tile ∧ Says.a_freed_galley_entry_lets_the_array_go_on

/-- Reductions give their outputs; consumers take galley entries in order: the two statements named here. -/
def Obligations.reductions_and_galley_consumers : Prop :=
  Says.reductions_give_their_outputs ∧ Says.galley_entries_are_consumed

/-- CONTROL slugs act at the stream head; QUOIN and WAIT hold it: the two statements named here. -/
def Obligations.control_slugs_quoins_and_waits : Prop :=
  Says.control_slugs_act_at_the_stream_head ∧ Says.quoin_and_wait_hold_the_stream

/-- PUT, GET, atomics and messages: the two statements named here. -/
def Obligations.fabric_slugs_transfer_and_signal : Prop :=
  Says.puts_and_gets_move_tensors ∧ Says.atomics_and_messages_are_sent

/-- Collectives and all-to-alls begin and complete: the two statements named here. -/
def Obligations.collectives_and_all_to_alls : Prop :=
  Says.collectives_begin_and_complete ∧ Says.all_to_alls_begin_and_complete

/-- HOST and SPIKE slugs: write-back, records, layers and losses: the three statements named here. -/
def Obligations.host_spike_and_loss_slugs : Prop :=
  Says.host_slugs_write_back_and_drop ∧ Says.records_are_pushed_popped_and_spilled ∧ Says.layers_losses_and_frames_are_set

/-- Fingerprint exchange, repair, images and slow-tier chunks: the three statements named here. -/
def Obligations.exchanges_images_and_chunks : Prop :=
  Says.fingerprints_are_exchanged_and_shards_repaired ∧ Says.images_chunks_and_the_begin_of_updates ∧ Says.a_slow_chunk_is_stepped_like_an_apply

/-- Jobs reach their targets; samples are loaded and jobs complete: the two statements named here. -/
def Obligations.jobs_and_samples : Prop :=
  Says.jobs_reach_their_targets ∧ Says.samples_are_loaded_and_jobs_complete

/-- Targets and the network answer; streams become records: the two statements named here. -/
def Obligations.the_data_service_meets_the_network : Prop :=
  Says.targets_and_the_network_answer ∧ Says.streams_become_records

/-- Waiting work goes on; bonds are tested, repaired and retired: the two statements named here. -/
def Obligations.held_work_and_bonds : Prop :=
  Says.waiting_slugs_and_held_requests_go_on ∧ Says.bonds_are_tested_repaired_and_retired

/-- Bed-domain resets, their return at READY, and the loss of a lock: the two statements named here. -/
def Obligations.bed_domains_and_lost_locks : Prop :=
  Says.bed_domains_are_reset_and_return ∧ Says.a_lost_lock_is_contained

/-- Reset and power pins, and the warm restart of the overseer: the two statements named here. -/
def Obligations.power_pins_and_restarts : Prop :=
  Says.power_and_reset_pins ∧ Says.a_warm_restart_keeps_the_data_plane

/-- The thermal trip, and the deadline of an orderly stop: the two statements named here. -/
def Obligations.trips_and_stop_deadlines : Prop :=
  Says.a_thermal_trip_stops_the_clocks ∧ Says.the_stop_deadline_cuts_what_runs

/-- Refresh, undervoltage parking, droops and PVID frames: the four statements named here. -/
def Obligations.hardware_guards_of_supplies : Prop :=
  Says.a_hot_stack_is_refreshed_twice_as_often ∧ Says.low_press_voltage_parks_a_forme ∧ Says.droops_are_counted_and_change_no_result ∧ Says.pvid_frames_are_resent_three_times

/-- The fast loop moves the cap; five windows set CAP_UNMET and MEASURED_ONLY: the two statements named here. -/
def Obligations.the_cap_follows_the_power : Prop :=
  Says.the_fast_loop_moves_the_cap ∧ Says.five_windows_set_cap_unmet_and_measured_only

/-- Leases end, and slack reports follow their period: the two statements named here. -/
def Obligations.leases_and_slack : Prop :=
  Says.an_expired_lease_frees_the_limit ∧ Says.slack_reports_follow_their_period
end

