-- ==== Sys2Proof/Laws/State.lean ====
section
/-!
SUPPORT. Every field of the chip under every named update of one part of it.
-/
namespace Sys2Proof.Machine

/-! ### One part of the chip replaced -/

@[simp] theorem Chip.onHost_mem (c : Chip) (g : HostPort → HostPort) : (c.onHost g).mem = c.mem := rfl
@[simp] theorem Chip.onHost_ue (c : Chip) (g : HostPort → HostPort) : (c.onHost g).ue = c.ue := rfl
@[simp] theorem Chip.onHost_engines (c : Chip) (g : HostPort → HostPort) : (c.onHost g).engines = c.engines := rfl
@[simp] theorem Chip.onHost_dir (c : Chip) (g : HostPort → HostPort) : (c.onHost g).dir = c.dir := rfl
@[simp] theorem Chip.onHost_dirClock (c : Chip) (g : HostPort → HostPort) : (c.onHost g).dirClock = c.dirClock := rfl
@[simp] theorem Chip.onHost_dirEvict (c : Chip) (g : HostPort → HostPort) : (c.onHost g).dirEvict = c.dirEvict := rfl
@[simp] theorem Chip.onHost_bankTurn (c : Chip) (g : HostPort → HostPort) : (c.onHost g).bankTurn = c.bankTurn := rfl
@[simp] theorem Chip.onHost_host (c : Chip) (g : HostPort → HostPort) : (c.onHost g).host = g c.host := rfl
@[simp] theorem Chip.onHost_fab (c : Chip) (g : HostPort → HostPort) : (c.onHost g).fab = c.fab := rfl
@[simp] theorem Chip.onHost_cors (c : Chip) (g : HostPort → HostPort) : (c.onHost g).cors = c.cors := rfl
@[simp] theorem Chip.onHost_prf (c : Chip) (g : HostPort → HostPort) : (c.onHost g).prf = c.prf := rfl
@[simp] theorem Chip.onHost_imp (c : Chip) (g : HostPort → HostPort) : (c.onHost g).imp = c.imp := rfl
@[simp] theorem Chip.onHost_ds (c : Chip) (g : HostPort → HostPort) : (c.onHost g).ds = c.ds := rfl
@[simp] theorem Chip.onHost_bonds (c : Chip) (g : HostPort → HostPort) : (c.onHost g).bonds = c.bonds := rfl
@[simp] theorem Chip.onHost_lanes (c : Chip) (g : HostPort → HostPort) : (c.onHost g).lanes = c.lanes := rfl
@[simp] theorem Chip.onHost_bondChanged (c : Chip) (g : HostPort → HostPort) : (c.onHost g).bondChanged = c.bondChanged := rfl
@[simp] theorem Chip.onHost_wear (c : Chip) (g : HostPort → HostPort) : (c.onHost g).wear = c.wear := rfl
@[simp] theorem Chip.onHost_rst (c : Chip) (g : HostPort → HostPort) : (c.onHost g).rst = c.rst := rfl
@[simp] theorem Chip.onHost_pwr (c : Chip) (g : HostPort → HostPort) : (c.onHost g).pwr = c.pwr := rfl
@[simp] theorem Chip.onHost_ovs (c : Chip) (g : HostPort → HostPort) : (c.onHost g).ovs = c.ovs := rfl
@[simp] theorem Chip.onHost_evr (c : Chip) (g : HostPort → HostPort) : (c.onHost g).evr = c.evr := rfl
@[simp] theorem Chip.onHost_cnts (c : Chip) (g : HostPort → HostPort) : (c.onHost g).cnts = c.cnts := rfl
@[simp] theorem Chip.onHost_standby (c : Chip) (g : HostPort → HostPort) : (c.onHost g).standby = c.standby := rfl
@[simp] theorem Chip.onHost_waitCold (c : Chip) (g : HostPort → HostPort) : (c.onHost g).waitCold = c.waitCold := rfl
@[simp] theorem Chip.onHost_formesUp (c : Chip) (g : HostPort → HostPort) : (c.onHost g).formesUp = c.formesUp := rfl
@[simp] theorem Chip.onHost_seed (c : Chip) (g : HostPort → HostPort) : (c.onHost g).seed = c.seed := rfl
@[simp] theorem Chip.onHost_evq (c : Chip) (g : HostPort → HostPort) : (c.onHost g).evq = c.evq := rfl
@[simp] theorem Chip.onHost_episodes (c : Chip) (g : HostPort → HostPort) : (c.onHost g).episodes = c.episodes := rfl
@[simp] theorem Chip.onHost_nextEpisode (c : Chip) (g : HostPort → HostPort) : (c.onHost g).nextEpisode = c.nextEpisode := rfl
@[simp] theorem Chip.onHost_handlings (c : Chip) (g : HostPort → HostPort) : (c.onHost g).handlings = c.handlings := rfl
@[simp] theorem Chip.onHost_domDown (c : Chip) (g : HostPort → HostPort) : (c.onHost g).domDown = c.domDown := rfl
@[simp] theorem Chip.onHost_formeDown (c : Chip) (g : HostPort → HostPort) : (c.onHost g).formeDown = c.formeDown := rfl
@[simp] theorem Chip.onHost_free (c : Chip) (g : HostPort → HostPort) : (c.onHost g).free = c.free := rfl
@[simp] theorem Chip.onHost_sent (c : Chip) (g : HostPort → HostPort) : (c.onHost g).sent = c.sent := rfl

@[simp] theorem Chip.onFab_mem (c : Chip) (g : Fabric → Fabric) : (c.onFab g).mem = c.mem := rfl
@[simp] theorem Chip.onFab_ue (c : Chip) (g : Fabric → Fabric) : (c.onFab g).ue = c.ue := rfl
@[simp] theorem Chip.onFab_engines (c : Chip) (g : Fabric → Fabric) : (c.onFab g).engines = c.engines := rfl
@[simp] theorem Chip.onFab_dir (c : Chip) (g : Fabric → Fabric) : (c.onFab g).dir = c.dir := rfl
@[simp] theorem Chip.onFab_dirClock (c : Chip) (g : Fabric → Fabric) : (c.onFab g).dirClock = c.dirClock := rfl
@[simp] theorem Chip.onFab_dirEvict (c : Chip) (g : Fabric → Fabric) : (c.onFab g).dirEvict = c.dirEvict := rfl
@[simp] theorem Chip.onFab_bankTurn (c : Chip) (g : Fabric → Fabric) : (c.onFab g).bankTurn = c.bankTurn := rfl
@[simp] theorem Chip.onFab_host (c : Chip) (g : Fabric → Fabric) : (c.onFab g).host = c.host := rfl
@[simp] theorem Chip.onFab_fab (c : Chip) (g : Fabric → Fabric) : (c.onFab g).fab = g c.fab := rfl
@[simp] theorem Chip.onFab_cors (c : Chip) (g : Fabric → Fabric) : (c.onFab g).cors = c.cors := rfl
@[simp] theorem Chip.onFab_prf (c : Chip) (g : Fabric → Fabric) : (c.onFab g).prf = c.prf := rfl
@[simp] theorem Chip.onFab_imp (c : Chip) (g : Fabric → Fabric) : (c.onFab g).imp = c.imp := rfl
@[simp] theorem Chip.onFab_ds (c : Chip) (g : Fabric → Fabric) : (c.onFab g).ds = c.ds := rfl
@[simp] theorem Chip.onFab_bonds (c : Chip) (g : Fabric → Fabric) : (c.onFab g).bonds = c.bonds := rfl
@[simp] theorem Chip.onFab_lanes (c : Chip) (g : Fabric → Fabric) : (c.onFab g).lanes = c.lanes := rfl
@[simp] theorem Chip.onFab_bondChanged (c : Chip) (g : Fabric → Fabric) : (c.onFab g).bondChanged = c.bondChanged := rfl
@[simp] theorem Chip.onFab_wear (c : Chip) (g : Fabric → Fabric) : (c.onFab g).wear = c.wear := rfl
@[simp] theorem Chip.onFab_rst (c : Chip) (g : Fabric → Fabric) : (c.onFab g).rst = c.rst := rfl
@[simp] theorem Chip.onFab_pwr (c : Chip) (g : Fabric → Fabric) : (c.onFab g).pwr = c.pwr := rfl
@[simp] theorem Chip.onFab_ovs (c : Chip) (g : Fabric → Fabric) : (c.onFab g).ovs = c.ovs := rfl
@[simp] theorem Chip.onFab_evr (c : Chip) (g : Fabric → Fabric) : (c.onFab g).evr = c.evr := rfl
@[simp] theorem Chip.onFab_cnts (c : Chip) (g : Fabric → Fabric) : (c.onFab g).cnts = c.cnts := rfl
@[simp] theorem Chip.onFab_standby (c : Chip) (g : Fabric → Fabric) : (c.onFab g).standby = c.standby := rfl
@[simp] theorem Chip.onFab_waitCold (c : Chip) (g : Fabric → Fabric) : (c.onFab g).waitCold = c.waitCold := rfl
@[simp] theorem Chip.onFab_formesUp (c : Chip) (g : Fabric → Fabric) : (c.onFab g).formesUp = c.formesUp := rfl
@[simp] theorem Chip.onFab_seed (c : Chip) (g : Fabric → Fabric) : (c.onFab g).seed = c.seed := rfl
@[simp] theorem Chip.onFab_evq (c : Chip) (g : Fabric → Fabric) : (c.onFab g).evq = c.evq := rfl
@[simp] theorem Chip.onFab_episodes (c : Chip) (g : Fabric → Fabric) : (c.onFab g).episodes = c.episodes := rfl
@[simp] theorem Chip.onFab_nextEpisode (c : Chip) (g : Fabric → Fabric) : (c.onFab g).nextEpisode = c.nextEpisode := rfl
@[simp] theorem Chip.onFab_handlings (c : Chip) (g : Fabric → Fabric) : (c.onFab g).handlings = c.handlings := rfl
@[simp] theorem Chip.onFab_domDown (c : Chip) (g : Fabric → Fabric) : (c.onFab g).domDown = c.domDown := rfl
@[simp] theorem Chip.onFab_formeDown (c : Chip) (g : Fabric → Fabric) : (c.onFab g).formeDown = c.formeDown := rfl
@[simp] theorem Chip.onFab_free (c : Chip) (g : Fabric → Fabric) : (c.onFab g).free = c.free := rfl
@[simp] theorem Chip.onFab_sent (c : Chip) (g : Fabric → Fabric) : (c.onFab g).sent = c.sent := rfl

@[simp] theorem Chip.onDs_mem (c : Chip) (g : DataSvc → DataSvc) : (c.onDs g).mem = c.mem := rfl
@[simp] theorem Chip.onDs_ue (c : Chip) (g : DataSvc → DataSvc) : (c.onDs g).ue = c.ue := rfl
@[simp] theorem Chip.onDs_engines (c : Chip) (g : DataSvc → DataSvc) : (c.onDs g).engines = c.engines := rfl
@[simp] theorem Chip.onDs_dir (c : Chip) (g : DataSvc → DataSvc) : (c.onDs g).dir = c.dir := rfl
@[simp] theorem Chip.onDs_dirClock (c : Chip) (g : DataSvc → DataSvc) : (c.onDs g).dirClock = c.dirClock := rfl
@[simp] theorem Chip.onDs_dirEvict (c : Chip) (g : DataSvc → DataSvc) : (c.onDs g).dirEvict = c.dirEvict := rfl
@[simp] theorem Chip.onDs_bankTurn (c : Chip) (g : DataSvc → DataSvc) : (c.onDs g).bankTurn = c.bankTurn := rfl
@[simp] theorem Chip.onDs_host (c : Chip) (g : DataSvc → DataSvc) : (c.onDs g).host = c.host := rfl
@[simp] theorem Chip.onDs_fab (c : Chip) (g : DataSvc → DataSvc) : (c.onDs g).fab = c.fab := rfl
@[simp] theorem Chip.onDs_cors (c : Chip) (g : DataSvc → DataSvc) : (c.onDs g).cors = c.cors := rfl
@[simp] theorem Chip.onDs_prf (c : Chip) (g : DataSvc → DataSvc) : (c.onDs g).prf = c.prf := rfl
@[simp] theorem Chip.onDs_imp (c : Chip) (g : DataSvc → DataSvc) : (c.onDs g).imp = c.imp := rfl
@[simp] theorem Chip.onDs_ds (c : Chip) (g : DataSvc → DataSvc) : (c.onDs g).ds = g c.ds := rfl
@[simp] theorem Chip.onDs_bonds (c : Chip) (g : DataSvc → DataSvc) : (c.onDs g).bonds = c.bonds := rfl
@[simp] theorem Chip.onDs_lanes (c : Chip) (g : DataSvc → DataSvc) : (c.onDs g).lanes = c.lanes := rfl
@[simp] theorem Chip.onDs_bondChanged (c : Chip) (g : DataSvc → DataSvc) : (c.onDs g).bondChanged = c.bondChanged := rfl
@[simp] theorem Chip.onDs_wear (c : Chip) (g : DataSvc → DataSvc) : (c.onDs g).wear = c.wear := rfl
@[simp] theorem Chip.onDs_rst (c : Chip) (g : DataSvc → DataSvc) : (c.onDs g).rst = c.rst := rfl
@[simp] theorem Chip.onDs_pwr (c : Chip) (g : DataSvc → DataSvc) : (c.onDs g).pwr = c.pwr := rfl
@[simp] theorem Chip.onDs_ovs (c : Chip) (g : DataSvc → DataSvc) : (c.onDs g).ovs = c.ovs := rfl
@[simp] theorem Chip.onDs_evr (c : Chip) (g : DataSvc → DataSvc) : (c.onDs g).evr = c.evr := rfl
@[simp] theorem Chip.onDs_cnts (c : Chip) (g : DataSvc → DataSvc) : (c.onDs g).cnts = c.cnts := rfl
@[simp] theorem Chip.onDs_standby (c : Chip) (g : DataSvc → DataSvc) : (c.onDs g).standby = c.standby := rfl
@[simp] theorem Chip.onDs_waitCold (c : Chip) (g : DataSvc → DataSvc) : (c.onDs g).waitCold = c.waitCold := rfl
@[simp] theorem Chip.onDs_formesUp (c : Chip) (g : DataSvc → DataSvc) : (c.onDs g).formesUp = c.formesUp := rfl
@[simp] theorem Chip.onDs_seed (c : Chip) (g : DataSvc → DataSvc) : (c.onDs g).seed = c.seed := rfl
@[simp] theorem Chip.onDs_evq (c : Chip) (g : DataSvc → DataSvc) : (c.onDs g).evq = c.evq := rfl
@[simp] theorem Chip.onDs_episodes (c : Chip) (g : DataSvc → DataSvc) : (c.onDs g).episodes = c.episodes := rfl
@[simp] theorem Chip.onDs_nextEpisode (c : Chip) (g : DataSvc → DataSvc) : (c.onDs g).nextEpisode = c.nextEpisode := rfl
@[simp] theorem Chip.onDs_handlings (c : Chip) (g : DataSvc → DataSvc) : (c.onDs g).handlings = c.handlings := rfl
@[simp] theorem Chip.onDs_domDown (c : Chip) (g : DataSvc → DataSvc) : (c.onDs g).domDown = c.domDown := rfl
@[simp] theorem Chip.onDs_formeDown (c : Chip) (g : DataSvc → DataSvc) : (c.onDs g).formeDown = c.formeDown := rfl
@[simp] theorem Chip.onDs_free (c : Chip) (g : DataSvc → DataSvc) : (c.onDs g).free = c.free := rfl
@[simp] theorem Chip.onDs_sent (c : Chip) (g : DataSvc → DataSvc) : (c.onDs g).sent = c.sent := rfl

@[simp] theorem Chip.onPwr_mem (c : Chip) (g : Power → Power) : (c.onPwr g).mem = c.mem := rfl
@[simp] theorem Chip.onPwr_ue (c : Chip) (g : Power → Power) : (c.onPwr g).ue = c.ue := rfl
@[simp] theorem Chip.onPwr_engines (c : Chip) (g : Power → Power) : (c.onPwr g).engines = c.engines := rfl
@[simp] theorem Chip.onPwr_dir (c : Chip) (g : Power → Power) : (c.onPwr g).dir = c.dir := rfl
@[simp] theorem Chip.onPwr_dirClock (c : Chip) (g : Power → Power) : (c.onPwr g).dirClock = c.dirClock := rfl
@[simp] theorem Chip.onPwr_dirEvict (c : Chip) (g : Power → Power) : (c.onPwr g).dirEvict = c.dirEvict := rfl
@[simp] theorem Chip.onPwr_bankTurn (c : Chip) (g : Power → Power) : (c.onPwr g).bankTurn = c.bankTurn := rfl
@[simp] theorem Chip.onPwr_host (c : Chip) (g : Power → Power) : (c.onPwr g).host = c.host := rfl
@[simp] theorem Chip.onPwr_fab (c : Chip) (g : Power → Power) : (c.onPwr g).fab = c.fab := rfl
@[simp] theorem Chip.onPwr_cors (c : Chip) (g : Power → Power) : (c.onPwr g).cors = c.cors := rfl
@[simp] theorem Chip.onPwr_prf (c : Chip) (g : Power → Power) : (c.onPwr g).prf = c.prf := rfl
@[simp] theorem Chip.onPwr_imp (c : Chip) (g : Power → Power) : (c.onPwr g).imp = c.imp := rfl
@[simp] theorem Chip.onPwr_ds (c : Chip) (g : Power → Power) : (c.onPwr g).ds = c.ds := rfl
@[simp] theorem Chip.onPwr_bonds (c : Chip) (g : Power → Power) : (c.onPwr g).bonds = c.bonds := rfl
@[simp] theorem Chip.onPwr_lanes (c : Chip) (g : Power → Power) : (c.onPwr g).lanes = c.lanes := rfl
@[simp] theorem Chip.onPwr_bondChanged (c : Chip) (g : Power → Power) : (c.onPwr g).bondChanged = c.bondChanged := rfl
@[simp] theorem Chip.onPwr_wear (c : Chip) (g : Power → Power) : (c.onPwr g).wear = c.wear := rfl
@[simp] theorem Chip.onPwr_rst (c : Chip) (g : Power → Power) : (c.onPwr g).rst = c.rst := rfl
@[simp] theorem Chip.onPwr_pwr (c : Chip) (g : Power → Power) : (c.onPwr g).pwr = g c.pwr := rfl
@[simp] theorem Chip.onPwr_ovs (c : Chip) (g : Power → Power) : (c.onPwr g).ovs = c.ovs := rfl
@[simp] theorem Chip.onPwr_evr (c : Chip) (g : Power → Power) : (c.onPwr g).evr = c.evr := rfl
@[simp] theorem Chip.onPwr_cnts (c : Chip) (g : Power → Power) : (c.onPwr g).cnts = c.cnts := rfl
@[simp] theorem Chip.onPwr_standby (c : Chip) (g : Power → Power) : (c.onPwr g).standby = c.standby := rfl
@[simp] theorem Chip.onPwr_waitCold (c : Chip) (g : Power → Power) : (c.onPwr g).waitCold = c.waitCold := rfl
@[simp] theorem Chip.onPwr_formesUp (c : Chip) (g : Power → Power) : (c.onPwr g).formesUp = c.formesUp := rfl
@[simp] theorem Chip.onPwr_seed (c : Chip) (g : Power → Power) : (c.onPwr g).seed = c.seed := rfl
@[simp] theorem Chip.onPwr_evq (c : Chip) (g : Power → Power) : (c.onPwr g).evq = c.evq := rfl
@[simp] theorem Chip.onPwr_episodes (c : Chip) (g : Power → Power) : (c.onPwr g).episodes = c.episodes := rfl
@[simp] theorem Chip.onPwr_nextEpisode (c : Chip) (g : Power → Power) : (c.onPwr g).nextEpisode = c.nextEpisode := rfl
@[simp] theorem Chip.onPwr_handlings (c : Chip) (g : Power → Power) : (c.onPwr g).handlings = c.handlings := rfl
@[simp] theorem Chip.onPwr_domDown (c : Chip) (g : Power → Power) : (c.onPwr g).domDown = c.domDown := rfl
@[simp] theorem Chip.onPwr_formeDown (c : Chip) (g : Power → Power) : (c.onPwr g).formeDown = c.formeDown := rfl
@[simp] theorem Chip.onPwr_free (c : Chip) (g : Power → Power) : (c.onPwr g).free = c.free := rfl
@[simp] theorem Chip.onPwr_sent (c : Chip) (g : Power → Power) : (c.onPwr g).sent = c.sent := rfl

@[simp] theorem Chip.onEvr_mem (c : Chip) (g : Recorder → Recorder) : (c.onEvr g).mem = c.mem := rfl
@[simp] theorem Chip.onEvr_ue (c : Chip) (g : Recorder → Recorder) : (c.onEvr g).ue = c.ue := rfl
@[simp] theorem Chip.onEvr_engines (c : Chip) (g : Recorder → Recorder) : (c.onEvr g).engines = c.engines := rfl
@[simp] theorem Chip.onEvr_dir (c : Chip) (g : Recorder → Recorder) : (c.onEvr g).dir = c.dir := rfl
@[simp] theorem Chip.onEvr_dirClock (c : Chip) (g : Recorder → Recorder) : (c.onEvr g).dirClock = c.dirClock := rfl
@[simp] theorem Chip.onEvr_dirEvict (c : Chip) (g : Recorder → Recorder) : (c.onEvr g).dirEvict = c.dirEvict := rfl
@[simp] theorem Chip.onEvr_bankTurn (c : Chip) (g : Recorder → Recorder) : (c.onEvr g).bankTurn = c.bankTurn := rfl
@[simp] theorem Chip.onEvr_host (c : Chip) (g : Recorder → Recorder) : (c.onEvr g).host = c.host := rfl
@[simp] theorem Chip.onEvr_fab (c : Chip) (g : Recorder → Recorder) : (c.onEvr g).fab = c.fab := rfl
@[simp] theorem Chip.onEvr_cors (c : Chip) (g : Recorder → Recorder) : (c.onEvr g).cors = c.cors := rfl
@[simp] theorem Chip.onEvr_prf (c : Chip) (g : Recorder → Recorder) : (c.onEvr g).prf = c.prf := rfl
@[simp] theorem Chip.onEvr_imp (c : Chip) (g : Recorder → Recorder) : (c.onEvr g).imp = c.imp := rfl
@[simp] theorem Chip.onEvr_ds (c : Chip) (g : Recorder → Recorder) : (c.onEvr g).ds = c.ds := rfl
@[simp] theorem Chip.onEvr_bonds (c : Chip) (g : Recorder → Recorder) : (c.onEvr g).bonds = c.bonds := rfl
@[simp] theorem Chip.onEvr_lanes (c : Chip) (g : Recorder → Recorder) : (c.onEvr g).lanes = c.lanes := rfl
@[simp] theorem Chip.onEvr_bondChanged (c : Chip) (g : Recorder → Recorder) : (c.onEvr g).bondChanged = c.bondChanged := rfl
@[simp] theorem Chip.onEvr_wear (c : Chip) (g : Recorder → Recorder) : (c.onEvr g).wear = c.wear := rfl
@[simp] theorem Chip.onEvr_rst (c : Chip) (g : Recorder → Recorder) : (c.onEvr g).rst = c.rst := rfl
@[simp] theorem Chip.onEvr_pwr (c : Chip) (g : Recorder → Recorder) : (c.onEvr g).pwr = c.pwr := rfl
@[simp] theorem Chip.onEvr_ovs (c : Chip) (g : Recorder → Recorder) : (c.onEvr g).ovs = c.ovs := rfl
@[simp] theorem Chip.onEvr_evr (c : Chip) (g : Recorder → Recorder) : (c.onEvr g).evr = g c.evr := rfl
@[simp] theorem Chip.onEvr_cnts (c : Chip) (g : Recorder → Recorder) : (c.onEvr g).cnts = c.cnts := rfl
@[simp] theorem Chip.onEvr_standby (c : Chip) (g : Recorder → Recorder) : (c.onEvr g).standby = c.standby := rfl
@[simp] theorem Chip.onEvr_waitCold (c : Chip) (g : Recorder → Recorder) : (c.onEvr g).waitCold = c.waitCold := rfl
@[simp] theorem Chip.onEvr_formesUp (c : Chip) (g : Recorder → Recorder) : (c.onEvr g).formesUp = c.formesUp := rfl
@[simp] theorem Chip.onEvr_seed (c : Chip) (g : Recorder → Recorder) : (c.onEvr g).seed = c.seed := rfl
@[simp] theorem Chip.onEvr_evq (c : Chip) (g : Recorder → Recorder) : (c.onEvr g).evq = c.evq := rfl
@[simp] theorem Chip.onEvr_episodes (c : Chip) (g : Recorder → Recorder) : (c.onEvr g).episodes = c.episodes := rfl
@[simp] theorem Chip.onEvr_nextEpisode (c : Chip) (g : Recorder → Recorder) : (c.onEvr g).nextEpisode = c.nextEpisode := rfl
@[simp] theorem Chip.onEvr_handlings (c : Chip) (g : Recorder → Recorder) : (c.onEvr g).handlings = c.handlings := rfl
@[simp] theorem Chip.onEvr_domDown (c : Chip) (g : Recorder → Recorder) : (c.onEvr g).domDown = c.domDown := rfl
@[simp] theorem Chip.onEvr_formeDown (c : Chip) (g : Recorder → Recorder) : (c.onEvr g).formeDown = c.formeDown := rfl
@[simp] theorem Chip.onEvr_free (c : Chip) (g : Recorder → Recorder) : (c.onEvr g).free = c.free := rfl
@[simp] theorem Chip.onEvr_sent (c : Chip) (g : Recorder → Recorder) : (c.onEvr g).sent = c.sent := rfl

@[simp] theorem Chip.onOvs_mem (c : Chip) (g : Ovs → Ovs) : (c.onOvs g).mem = c.mem := rfl
@[simp] theorem Chip.onOvs_ue (c : Chip) (g : Ovs → Ovs) : (c.onOvs g).ue = c.ue := rfl
@[simp] theorem Chip.onOvs_engines (c : Chip) (g : Ovs → Ovs) : (c.onOvs g).engines = c.engines := rfl
@[simp] theorem Chip.onOvs_dir (c : Chip) (g : Ovs → Ovs) : (c.onOvs g).dir = c.dir := rfl
@[simp] theorem Chip.onOvs_dirClock (c : Chip) (g : Ovs → Ovs) : (c.onOvs g).dirClock = c.dirClock := rfl
@[simp] theorem Chip.onOvs_dirEvict (c : Chip) (g : Ovs → Ovs) : (c.onOvs g).dirEvict = c.dirEvict := rfl
@[simp] theorem Chip.onOvs_bankTurn (c : Chip) (g : Ovs → Ovs) : (c.onOvs g).bankTurn = c.bankTurn := rfl
@[simp] theorem Chip.onOvs_host (c : Chip) (g : Ovs → Ovs) : (c.onOvs g).host = c.host := rfl
@[simp] theorem Chip.onOvs_fab (c : Chip) (g : Ovs → Ovs) : (c.onOvs g).fab = c.fab := rfl
@[simp] theorem Chip.onOvs_cors (c : Chip) (g : Ovs → Ovs) : (c.onOvs g).cors = c.cors := rfl
@[simp] theorem Chip.onOvs_prf (c : Chip) (g : Ovs → Ovs) : (c.onOvs g).prf = c.prf := rfl
@[simp] theorem Chip.onOvs_imp (c : Chip) (g : Ovs → Ovs) : (c.onOvs g).imp = c.imp := rfl
@[simp] theorem Chip.onOvs_ds (c : Chip) (g : Ovs → Ovs) : (c.onOvs g).ds = c.ds := rfl
@[simp] theorem Chip.onOvs_bonds (c : Chip) (g : Ovs → Ovs) : (c.onOvs g).bonds = c.bonds := rfl
@[simp] theorem Chip.onOvs_lanes (c : Chip) (g : Ovs → Ovs) : (c.onOvs g).lanes = c.lanes := rfl
@[simp] theorem Chip.onOvs_bondChanged (c : Chip) (g : Ovs → Ovs) : (c.onOvs g).bondChanged = c.bondChanged := rfl
@[simp] theorem Chip.onOvs_wear (c : Chip) (g : Ovs → Ovs) : (c.onOvs g).wear = c.wear := rfl
@[simp] theorem Chip.onOvs_rst (c : Chip) (g : Ovs → Ovs) : (c.onOvs g).rst = c.rst := rfl
@[simp] theorem Chip.onOvs_pwr (c : Chip) (g : Ovs → Ovs) : (c.onOvs g).pwr = c.pwr := rfl
@[simp] theorem Chip.onOvs_ovs (c : Chip) (g : Ovs → Ovs) : (c.onOvs g).ovs = g c.ovs := rfl
@[simp] theorem Chip.onOvs_evr (c : Chip) (g : Ovs → Ovs) : (c.onOvs g).evr = c.evr := rfl
@[simp] theorem Chip.onOvs_cnts (c : Chip) (g : Ovs → Ovs) : (c.onOvs g).cnts = c.cnts := rfl
@[simp] theorem Chip.onOvs_standby (c : Chip) (g : Ovs → Ovs) : (c.onOvs g).standby = c.standby := rfl
@[simp] theorem Chip.onOvs_waitCold (c : Chip) (g : Ovs → Ovs) : (c.onOvs g).waitCold = c.waitCold := rfl
@[simp] theorem Chip.onOvs_formesUp (c : Chip) (g : Ovs → Ovs) : (c.onOvs g).formesUp = c.formesUp := rfl
@[simp] theorem Chip.onOvs_seed (c : Chip) (g : Ovs → Ovs) : (c.onOvs g).seed = c.seed := rfl
@[simp] theorem Chip.onOvs_evq (c : Chip) (g : Ovs → Ovs) : (c.onOvs g).evq = c.evq := rfl
@[simp] theorem Chip.onOvs_episodes (c : Chip) (g : Ovs → Ovs) : (c.onOvs g).episodes = c.episodes := rfl
@[simp] theorem Chip.onOvs_nextEpisode (c : Chip) (g : Ovs → Ovs) : (c.onOvs g).nextEpisode = c.nextEpisode := rfl
@[simp] theorem Chip.onOvs_handlings (c : Chip) (g : Ovs → Ovs) : (c.onOvs g).handlings = c.handlings := rfl
@[simp] theorem Chip.onOvs_domDown (c : Chip) (g : Ovs → Ovs) : (c.onOvs g).domDown = c.domDown := rfl
@[simp] theorem Chip.onOvs_formeDown (c : Chip) (g : Ovs → Ovs) : (c.onOvs g).formeDown = c.formeDown := rfl
@[simp] theorem Chip.onOvs_free (c : Chip) (g : Ovs → Ovs) : (c.onOvs g).free = c.free := rfl
@[simp] theorem Chip.onOvs_sent (c : Chip) (g : Ovs → Ovs) : (c.onOvs g).sent = c.sent := rfl

@[simp] theorem Chip.onPrf_mem (c : Chip) (g : Proofreader → Proofreader) : (c.onPrf g).mem = c.mem := rfl
@[simp] theorem Chip.onPrf_ue (c : Chip) (g : Proofreader → Proofreader) : (c.onPrf g).ue = c.ue := rfl
@[simp] theorem Chip.onPrf_engines (c : Chip) (g : Proofreader → Proofreader) : (c.onPrf g).engines = c.engines := rfl
@[simp] theorem Chip.onPrf_dir (c : Chip) (g : Proofreader → Proofreader) : (c.onPrf g).dir = c.dir := rfl
@[simp] theorem Chip.onPrf_dirClock (c : Chip) (g : Proofreader → Proofreader) : (c.onPrf g).dirClock = c.dirClock := rfl
@[simp] theorem Chip.onPrf_dirEvict (c : Chip) (g : Proofreader → Proofreader) : (c.onPrf g).dirEvict = c.dirEvict := rfl
@[simp] theorem Chip.onPrf_bankTurn (c : Chip) (g : Proofreader → Proofreader) : (c.onPrf g).bankTurn = c.bankTurn := rfl
@[simp] theorem Chip.onPrf_host (c : Chip) (g : Proofreader → Proofreader) : (c.onPrf g).host = c.host := rfl
@[simp] theorem Chip.onPrf_fab (c : Chip) (g : Proofreader → Proofreader) : (c.onPrf g).fab = c.fab := rfl
@[simp] theorem Chip.onPrf_cors (c : Chip) (g : Proofreader → Proofreader) : (c.onPrf g).cors = c.cors := rfl
@[simp] theorem Chip.onPrf_prf (c : Chip) (g : Proofreader → Proofreader) : (c.onPrf g).prf = g c.prf := rfl
@[simp] theorem Chip.onPrf_imp (c : Chip) (g : Proofreader → Proofreader) : (c.onPrf g).imp = c.imp := rfl
@[simp] theorem Chip.onPrf_ds (c : Chip) (g : Proofreader → Proofreader) : (c.onPrf g).ds = c.ds := rfl
@[simp] theorem Chip.onPrf_bonds (c : Chip) (g : Proofreader → Proofreader) : (c.onPrf g).bonds = c.bonds := rfl
@[simp] theorem Chip.onPrf_lanes (c : Chip) (g : Proofreader → Proofreader) : (c.onPrf g).lanes = c.lanes := rfl
@[simp] theorem Chip.onPrf_bondChanged (c : Chip) (g : Proofreader → Proofreader) : (c.onPrf g).bondChanged = c.bondChanged := rfl
@[simp] theorem Chip.onPrf_wear (c : Chip) (g : Proofreader → Proofreader) : (c.onPrf g).wear = c.wear := rfl
@[simp] theorem Chip.onPrf_rst (c : Chip) (g : Proofreader → Proofreader) : (c.onPrf g).rst = c.rst := rfl
@[simp] theorem Chip.onPrf_pwr (c : Chip) (g : Proofreader → Proofreader) : (c.onPrf g).pwr = c.pwr := rfl
@[simp] theorem Chip.onPrf_ovs (c : Chip) (g : Proofreader → Proofreader) : (c.onPrf g).ovs = c.ovs := rfl
@[simp] theorem Chip.onPrf_evr (c : Chip) (g : Proofreader → Proofreader) : (c.onPrf g).evr = c.evr := rfl
@[simp] theorem Chip.onPrf_cnts (c : Chip) (g : Proofreader → Proofreader) : (c.onPrf g).cnts = c.cnts := rfl
@[simp] theorem Chip.onPrf_standby (c : Chip) (g : Proofreader → Proofreader) : (c.onPrf g).standby = c.standby := rfl
@[simp] theorem Chip.onPrf_waitCold (c : Chip) (g : Proofreader → Proofreader) : (c.onPrf g).waitCold = c.waitCold := rfl
@[simp] theorem Chip.onPrf_formesUp (c : Chip) (g : Proofreader → Proofreader) : (c.onPrf g).formesUp = c.formesUp := rfl
@[simp] theorem Chip.onPrf_seed (c : Chip) (g : Proofreader → Proofreader) : (c.onPrf g).seed = c.seed := rfl
@[simp] theorem Chip.onPrf_evq (c : Chip) (g : Proofreader → Proofreader) : (c.onPrf g).evq = c.evq := rfl
@[simp] theorem Chip.onPrf_episodes (c : Chip) (g : Proofreader → Proofreader) : (c.onPrf g).episodes = c.episodes := rfl
@[simp] theorem Chip.onPrf_nextEpisode (c : Chip) (g : Proofreader → Proofreader) : (c.onPrf g).nextEpisode = c.nextEpisode := rfl
@[simp] theorem Chip.onPrf_handlings (c : Chip) (g : Proofreader → Proofreader) : (c.onPrf g).handlings = c.handlings := rfl
@[simp] theorem Chip.onPrf_domDown (c : Chip) (g : Proofreader → Proofreader) : (c.onPrf g).domDown = c.domDown := rfl
@[simp] theorem Chip.onPrf_formeDown (c : Chip) (g : Proofreader → Proofreader) : (c.onPrf g).formeDown = c.formeDown := rfl
@[simp] theorem Chip.onPrf_free (c : Chip) (g : Proofreader → Proofreader) : (c.onPrf g).free = c.free := rfl
@[simp] theorem Chip.onPrf_sent (c : Chip) (g : Proofreader → Proofreader) : (c.onPrf g).sent = c.sent := rfl

@[simp] theorem Chip.onRst_mem (c : Chip) (g : Resets → Resets) : (c.onRst g).mem = c.mem := rfl
@[simp] theorem Chip.onRst_ue (c : Chip) (g : Resets → Resets) : (c.onRst g).ue = c.ue := rfl
@[simp] theorem Chip.onRst_engines (c : Chip) (g : Resets → Resets) : (c.onRst g).engines = c.engines := rfl
@[simp] theorem Chip.onRst_dir (c : Chip) (g : Resets → Resets) : (c.onRst g).dir = c.dir := rfl
@[simp] theorem Chip.onRst_dirClock (c : Chip) (g : Resets → Resets) : (c.onRst g).dirClock = c.dirClock := rfl
@[simp] theorem Chip.onRst_dirEvict (c : Chip) (g : Resets → Resets) : (c.onRst g).dirEvict = c.dirEvict := rfl
@[simp] theorem Chip.onRst_bankTurn (c : Chip) (g : Resets → Resets) : (c.onRst g).bankTurn = c.bankTurn := rfl
@[simp] theorem Chip.onRst_host (c : Chip) (g : Resets → Resets) : (c.onRst g).host = c.host := rfl
@[simp] theorem Chip.onRst_fab (c : Chip) (g : Resets → Resets) : (c.onRst g).fab = c.fab := rfl
@[simp] theorem Chip.onRst_cors (c : Chip) (g : Resets → Resets) : (c.onRst g).cors = c.cors := rfl
@[simp] theorem Chip.onRst_prf (c : Chip) (g : Resets → Resets) : (c.onRst g).prf = c.prf := rfl
@[simp] theorem Chip.onRst_imp (c : Chip) (g : Resets → Resets) : (c.onRst g).imp = c.imp := rfl
@[simp] theorem Chip.onRst_ds (c : Chip) (g : Resets → Resets) : (c.onRst g).ds = c.ds := rfl
@[simp] theorem Chip.onRst_bonds (c : Chip) (g : Resets → Resets) : (c.onRst g).bonds = c.bonds := rfl
@[simp] theorem Chip.onRst_lanes (c : Chip) (g : Resets → Resets) : (c.onRst g).lanes = c.lanes := rfl
@[simp] theorem Chip.onRst_bondChanged (c : Chip) (g : Resets → Resets) : (c.onRst g).bondChanged = c.bondChanged := rfl
@[simp] theorem Chip.onRst_wear (c : Chip) (g : Resets → Resets) : (c.onRst g).wear = c.wear := rfl
@[simp] theorem Chip.onRst_rst (c : Chip) (g : Resets → Resets) : (c.onRst g).rst = g c.rst := rfl
@[simp] theorem Chip.onRst_pwr (c : Chip) (g : Resets → Resets) : (c.onRst g).pwr = c.pwr := rfl
@[simp] theorem Chip.onRst_ovs (c : Chip) (g : Resets → Resets) : (c.onRst g).ovs = c.ovs := rfl
@[simp] theorem Chip.onRst_evr (c : Chip) (g : Resets → Resets) : (c.onRst g).evr = c.evr := rfl
@[simp] theorem Chip.onRst_cnts (c : Chip) (g : Resets → Resets) : (c.onRst g).cnts = c.cnts := rfl
@[simp] theorem Chip.onRst_standby (c : Chip) (g : Resets → Resets) : (c.onRst g).standby = c.standby := rfl
@[simp] theorem Chip.onRst_waitCold (c : Chip) (g : Resets → Resets) : (c.onRst g).waitCold = c.waitCold := rfl
@[simp] theorem Chip.onRst_formesUp (c : Chip) (g : Resets → Resets) : (c.onRst g).formesUp = c.formesUp := rfl
@[simp] theorem Chip.onRst_seed (c : Chip) (g : Resets → Resets) : (c.onRst g).seed = c.seed := rfl
@[simp] theorem Chip.onRst_evq (c : Chip) (g : Resets → Resets) : (c.onRst g).evq = c.evq := rfl
@[simp] theorem Chip.onRst_episodes (c : Chip) (g : Resets → Resets) : (c.onRst g).episodes = c.episodes := rfl
@[simp] theorem Chip.onRst_nextEpisode (c : Chip) (g : Resets → Resets) : (c.onRst g).nextEpisode = c.nextEpisode := rfl
@[simp] theorem Chip.onRst_handlings (c : Chip) (g : Resets → Resets) : (c.onRst g).handlings = c.handlings := rfl
@[simp] theorem Chip.onRst_domDown (c : Chip) (g : Resets → Resets) : (c.onRst g).domDown = c.domDown := rfl
@[simp] theorem Chip.onRst_formeDown (c : Chip) (g : Resets → Resets) : (c.onRst g).formeDown = c.formeDown := rfl
@[simp] theorem Chip.onRst_free (c : Chip) (g : Resets → Resets) : (c.onRst g).free = c.free := rfl
@[simp] theorem Chip.onRst_sent (c : Chip) (g : Resets → Resets) : (c.onRst g).sent = c.sent := rfl

@[simp] theorem Chip.setEngine_mem (c : Chip) (e : Nat) (x : Engine) : (c.setEngine e x).mem = c.mem := rfl
@[simp] theorem Chip.setEngine_ue (c : Chip) (e : Nat) (x : Engine) : (c.setEngine e x).ue = c.ue := rfl
@[simp] theorem Chip.setEngine_engines (c : Chip) (e : Nat) (x : Engine) : (c.setEngine e x).engines = c.engines.set e x := rfl
@[simp] theorem Chip.setEngine_dir (c : Chip) (e : Nat) (x : Engine) : (c.setEngine e x).dir = c.dir := rfl
@[simp] theorem Chip.setEngine_dirClock (c : Chip) (e : Nat) (x : Engine) : (c.setEngine e x).dirClock = c.dirClock := rfl
@[simp] theorem Chip.setEngine_dirEvict (c : Chip) (e : Nat) (x : Engine) : (c.setEngine e x).dirEvict = c.dirEvict := rfl
@[simp] theorem Chip.setEngine_bankTurn (c : Chip) (e : Nat) (x : Engine) : (c.setEngine e x).bankTurn = c.bankTurn := rfl
@[simp] theorem Chip.setEngine_host (c : Chip) (e : Nat) (x : Engine) : (c.setEngine e x).host = c.host := rfl
@[simp] theorem Chip.setEngine_fab (c : Chip) (e : Nat) (x : Engine) : (c.setEngine e x).fab = c.fab := rfl
@[simp] theorem Chip.setEngine_cors (c : Chip) (e : Nat) (x : Engine) : (c.setEngine e x).cors = c.cors := rfl
@[simp] theorem Chip.setEngine_prf (c : Chip) (e : Nat) (x : Engine) : (c.setEngine e x).prf = c.prf := rfl
@[simp] theorem Chip.setEngine_imp (c : Chip) (e : Nat) (x : Engine) : (c.setEngine e x).imp = c.imp := rfl
@[simp] theorem Chip.setEngine_ds (c : Chip) (e : Nat) (x : Engine) : (c.setEngine e x).ds = c.ds := rfl
@[simp] theorem Chip.setEngine_bonds (c : Chip) (e : Nat) (x : Engine) : (c.setEngine e x).bonds = c.bonds := rfl
@[simp] theorem Chip.setEngine_lanes (c : Chip) (e : Nat) (x : Engine) : (c.setEngine e x).lanes = c.lanes := rfl
@[simp] theorem Chip.setEngine_bondChanged (c : Chip) (e : Nat) (x : Engine) : (c.setEngine e x).bondChanged = c.bondChanged := rfl
@[simp] theorem Chip.setEngine_wear (c : Chip) (e : Nat) (x : Engine) : (c.setEngine e x).wear = c.wear := rfl
@[simp] theorem Chip.setEngine_rst (c : Chip) (e : Nat) (x : Engine) : (c.setEngine e x).rst = c.rst := rfl
@[simp] theorem Chip.setEngine_pwr (c : Chip) (e : Nat) (x : Engine) : (c.setEngine e x).pwr = c.pwr := rfl
@[simp] theorem Chip.setEngine_ovs (c : Chip) (e : Nat) (x : Engine) : (c.setEngine e x).ovs = c.ovs := rfl
@[simp] theorem Chip.setEngine_evr (c : Chip) (e : Nat) (x : Engine) : (c.setEngine e x).evr = c.evr := rfl
@[simp] theorem Chip.setEngine_cnts (c : Chip) (e : Nat) (x : Engine) : (c.setEngine e x).cnts = c.cnts := rfl
@[simp] theorem Chip.setEngine_standby (c : Chip) (e : Nat) (x : Engine) : (c.setEngine e x).standby = c.standby := rfl
@[simp] theorem Chip.setEngine_waitCold (c : Chip) (e : Nat) (x : Engine) : (c.setEngine e x).waitCold = c.waitCold := rfl
@[simp] theorem Chip.setEngine_formesUp (c : Chip) (e : Nat) (x : Engine) : (c.setEngine e x).formesUp = c.formesUp := rfl
@[simp] theorem Chip.setEngine_seed (c : Chip) (e : Nat) (x : Engine) : (c.setEngine e x).seed = c.seed := rfl
@[simp] theorem Chip.setEngine_evq (c : Chip) (e : Nat) (x : Engine) : (c.setEngine e x).evq = c.evq := rfl
@[simp] theorem Chip.setEngine_episodes (c : Chip) (e : Nat) (x : Engine) : (c.setEngine e x).episodes = c.episodes := rfl
@[simp] theorem Chip.setEngine_nextEpisode (c : Chip) (e : Nat) (x : Engine) : (c.setEngine e x).nextEpisode = c.nextEpisode := rfl
@[simp] theorem Chip.setEngine_handlings (c : Chip) (e : Nat) (x : Engine) : (c.setEngine e x).handlings = c.handlings := rfl
@[simp] theorem Chip.setEngine_domDown (c : Chip) (e : Nat) (x : Engine) : (c.setEngine e x).domDown = c.domDown := rfl
@[simp] theorem Chip.setEngine_formeDown (c : Chip) (e : Nat) (x : Engine) : (c.setEngine e x).formeDown = c.formeDown := rfl
@[simp] theorem Chip.setEngine_free (c : Chip) (e : Nat) (x : Engine) : (c.setEngine e x).free = c.free := rfl
@[simp] theorem Chip.setEngine_sent (c : Chip) (e : Nat) (x : Engine) : (c.setEngine e x).sent = c.sent := rfl

@[simp] theorem Chip.onEngine_mem (c : Chip) (e : Nat) (g : Engine → Engine) : (c.onEngine e g).mem = c.mem := rfl
@[simp] theorem Chip.onEngine_ue (c : Chip) (e : Nat) (g : Engine → Engine) : (c.onEngine e g).ue = c.ue := rfl
@[simp] theorem Chip.onEngine_engines (c : Chip) (e : Nat) (g : Engine → Engine) : (c.onEngine e g).engines = c.engines.set e (g (c.engine e)) := rfl
@[simp] theorem Chip.onEngine_dir (c : Chip) (e : Nat) (g : Engine → Engine) : (c.onEngine e g).dir = c.dir := rfl
@[simp] theorem Chip.onEngine_dirClock (c : Chip) (e : Nat) (g : Engine → Engine) : (c.onEngine e g).dirClock = c.dirClock := rfl
@[simp] theorem Chip.onEngine_dirEvict (c : Chip) (e : Nat) (g : Engine → Engine) : (c.onEngine e g).dirEvict = c.dirEvict := rfl
@[simp] theorem Chip.onEngine_bankTurn (c : Chip) (e : Nat) (g : Engine → Engine) : (c.onEngine e g).bankTurn = c.bankTurn := rfl
@[simp] theorem Chip.onEngine_host (c : Chip) (e : Nat) (g : Engine → Engine) : (c.onEngine e g).host = c.host := rfl
@[simp] theorem Chip.onEngine_fab (c : Chip) (e : Nat) (g : Engine → Engine) : (c.onEngine e g).fab = c.fab := rfl
@[simp] theorem Chip.onEngine_cors (c : Chip) (e : Nat) (g : Engine → Engine) : (c.onEngine e g).cors = c.cors := rfl
@[simp] theorem Chip.onEngine_prf (c : Chip) (e : Nat) (g : Engine → Engine) : (c.onEngine e g).prf = c.prf := rfl
@[simp] theorem Chip.onEngine_imp (c : Chip) (e : Nat) (g : Engine → Engine) : (c.onEngine e g).imp = c.imp := rfl
@[simp] theorem Chip.onEngine_ds (c : Chip) (e : Nat) (g : Engine → Engine) : (c.onEngine e g).ds = c.ds := rfl
@[simp] theorem Chip.onEngine_bonds (c : Chip) (e : Nat) (g : Engine → Engine) : (c.onEngine e g).bonds = c.bonds := rfl
@[simp] theorem Chip.onEngine_lanes (c : Chip) (e : Nat) (g : Engine → Engine) : (c.onEngine e g).lanes = c.lanes := rfl
@[simp] theorem Chip.onEngine_bondChanged (c : Chip) (e : Nat) (g : Engine → Engine) : (c.onEngine e g).bondChanged = c.bondChanged := rfl
@[simp] theorem Chip.onEngine_wear (c : Chip) (e : Nat) (g : Engine → Engine) : (c.onEngine e g).wear = c.wear := rfl
@[simp] theorem Chip.onEngine_rst (c : Chip) (e : Nat) (g : Engine → Engine) : (c.onEngine e g).rst = c.rst := rfl
@[simp] theorem Chip.onEngine_pwr (c : Chip) (e : Nat) (g : Engine → Engine) : (c.onEngine e g).pwr = c.pwr := rfl
@[simp] theorem Chip.onEngine_ovs (c : Chip) (e : Nat) (g : Engine → Engine) : (c.onEngine e g).ovs = c.ovs := rfl
@[simp] theorem Chip.onEngine_evr (c : Chip) (e : Nat) (g : Engine → Engine) : (c.onEngine e g).evr = c.evr := rfl
@[simp] theorem Chip.onEngine_cnts (c : Chip) (e : Nat) (g : Engine → Engine) : (c.onEngine e g).cnts = c.cnts := rfl
@[simp] theorem Chip.onEngine_standby (c : Chip) (e : Nat) (g : Engine → Engine) : (c.onEngine e g).standby = c.standby := rfl
@[simp] theorem Chip.onEngine_waitCold (c : Chip) (e : Nat) (g : Engine → Engine) : (c.onEngine e g).waitCold = c.waitCold := rfl
@[simp] theorem Chip.onEngine_formesUp (c : Chip) (e : Nat) (g : Engine → Engine) : (c.onEngine e g).formesUp = c.formesUp := rfl
@[simp] theorem Chip.onEngine_seed (c : Chip) (e : Nat) (g : Engine → Engine) : (c.onEngine e g).seed = c.seed := rfl
@[simp] theorem Chip.onEngine_evq (c : Chip) (e : Nat) (g : Engine → Engine) : (c.onEngine e g).evq = c.evq := rfl
@[simp] theorem Chip.onEngine_episodes (c : Chip) (e : Nat) (g : Engine → Engine) : (c.onEngine e g).episodes = c.episodes := rfl
@[simp] theorem Chip.onEngine_nextEpisode (c : Chip) (e : Nat) (g : Engine → Engine) : (c.onEngine e g).nextEpisode = c.nextEpisode := rfl
@[simp] theorem Chip.onEngine_handlings (c : Chip) (e : Nat) (g : Engine → Engine) : (c.onEngine e g).handlings = c.handlings := rfl
@[simp] theorem Chip.onEngine_domDown (c : Chip) (e : Nat) (g : Engine → Engine) : (c.onEngine e g).domDown = c.domDown := rfl
@[simp] theorem Chip.onEngine_formeDown (c : Chip) (e : Nat) (g : Engine → Engine) : (c.onEngine e g).formeDown = c.formeDown := rfl
@[simp] theorem Chip.onEngine_free (c : Chip) (e : Nat) (g : Engine → Engine) : (c.onEngine e g).free = c.free := rfl
@[simp] theorem Chip.onEngine_sent (c : Chip) (e : Nat) (g : Engine → Engine) : (c.onEngine e g).sent = c.sent := rfl

@[simp] theorem Chip.onCor_mem (c : Chip) (f : Nat) (g : Corrector → Corrector) : (c.onCor f g).mem = c.mem := rfl
@[simp] theorem Chip.onCor_ue (c : Chip) (f : Nat) (g : Corrector → Corrector) : (c.onCor f g).ue = c.ue := rfl
@[simp] theorem Chip.onCor_engines (c : Chip) (f : Nat) (g : Corrector → Corrector) : (c.onCor f g).engines = c.engines := rfl
@[simp] theorem Chip.onCor_dir (c : Chip) (f : Nat) (g : Corrector → Corrector) : (c.onCor f g).dir = c.dir := rfl
@[simp] theorem Chip.onCor_dirClock (c : Chip) (f : Nat) (g : Corrector → Corrector) : (c.onCor f g).dirClock = c.dirClock := rfl
@[simp] theorem Chip.onCor_dirEvict (c : Chip) (f : Nat) (g : Corrector → Corrector) : (c.onCor f g).dirEvict = c.dirEvict := rfl
@[simp] theorem Chip.onCor_bankTurn (c : Chip) (f : Nat) (g : Corrector → Corrector) : (c.onCor f g).bankTurn = c.bankTurn := rfl
@[simp] theorem Chip.onCor_host (c : Chip) (f : Nat) (g : Corrector → Corrector) : (c.onCor f g).host = c.host := rfl
@[simp] theorem Chip.onCor_fab (c : Chip) (f : Nat) (g : Corrector → Corrector) : (c.onCor f g).fab = c.fab := rfl
@[simp] theorem Chip.onCor_cors (c : Chip) (f : Nat) (g : Corrector → Corrector) : (c.onCor f g).cors = modifyAt g c.cors f := rfl
@[simp] theorem Chip.onCor_prf (c : Chip) (f : Nat) (g : Corrector → Corrector) : (c.onCor f g).prf = c.prf := rfl
@[simp] theorem Chip.onCor_imp (c : Chip) (f : Nat) (g : Corrector → Corrector) : (c.onCor f g).imp = c.imp := rfl
@[simp] theorem Chip.onCor_ds (c : Chip) (f : Nat) (g : Corrector → Corrector) : (c.onCor f g).ds = c.ds := rfl
@[simp] theorem Chip.onCor_bonds (c : Chip) (f : Nat) (g : Corrector → Corrector) : (c.onCor f g).bonds = c.bonds := rfl
@[simp] theorem Chip.onCor_lanes (c : Chip) (f : Nat) (g : Corrector → Corrector) : (c.onCor f g).lanes = c.lanes := rfl
@[simp] theorem Chip.onCor_bondChanged (c : Chip) (f : Nat) (g : Corrector → Corrector) : (c.onCor f g).bondChanged = c.bondChanged := rfl
@[simp] theorem Chip.onCor_wear (c : Chip) (f : Nat) (g : Corrector → Corrector) : (c.onCor f g).wear = c.wear := rfl
@[simp] theorem Chip.onCor_rst (c : Chip) (f : Nat) (g : Corrector → Corrector) : (c.onCor f g).rst = c.rst := rfl
@[simp] theorem Chip.onCor_pwr (c : Chip) (f : Nat) (g : Corrector → Corrector) : (c.onCor f g).pwr = c.pwr := rfl
@[simp] theorem Chip.onCor_ovs (c : Chip) (f : Nat) (g : Corrector → Corrector) : (c.onCor f g).ovs = c.ovs := rfl
@[simp] theorem Chip.onCor_evr (c : Chip) (f : Nat) (g : Corrector → Corrector) : (c.onCor f g).evr = c.evr := rfl
@[simp] theorem Chip.onCor_cnts (c : Chip) (f : Nat) (g : Corrector → Corrector) : (c.onCor f g).cnts = c.cnts := rfl
@[simp] theorem Chip.onCor_standby (c : Chip) (f : Nat) (g : Corrector → Corrector) : (c.onCor f g).standby = c.standby := rfl
@[simp] theorem Chip.onCor_waitCold (c : Chip) (f : Nat) (g : Corrector → Corrector) : (c.onCor f g).waitCold = c.waitCold := rfl
@[simp] theorem Chip.onCor_formesUp (c : Chip) (f : Nat) (g : Corrector → Corrector) : (c.onCor f g).formesUp = c.formesUp := rfl
@[simp] theorem Chip.onCor_seed (c : Chip) (f : Nat) (g : Corrector → Corrector) : (c.onCor f g).seed = c.seed := rfl
@[simp] theorem Chip.onCor_evq (c : Chip) (f : Nat) (g : Corrector → Corrector) : (c.onCor f g).evq = c.evq := rfl
@[simp] theorem Chip.onCor_episodes (c : Chip) (f : Nat) (g : Corrector → Corrector) : (c.onCor f g).episodes = c.episodes := rfl
@[simp] theorem Chip.onCor_nextEpisode (c : Chip) (f : Nat) (g : Corrector → Corrector) : (c.onCor f g).nextEpisode = c.nextEpisode := rfl
@[simp] theorem Chip.onCor_handlings (c : Chip) (f : Nat) (g : Corrector → Corrector) : (c.onCor f g).handlings = c.handlings := rfl
@[simp] theorem Chip.onCor_domDown (c : Chip) (f : Nat) (g : Corrector → Corrector) : (c.onCor f g).domDown = c.domDown := rfl
@[simp] theorem Chip.onCor_formeDown (c : Chip) (f : Nat) (g : Corrector → Corrector) : (c.onCor f g).formeDown = c.formeDown := rfl
@[simp] theorem Chip.onCor_free (c : Chip) (f : Nat) (g : Corrector → Corrector) : (c.onCor f g).free = c.free := rfl
@[simp] theorem Chip.onCor_sent (c : Chip) (f : Nat) (g : Corrector → Corrector) : (c.onCor f g).sent = c.sent := rfl

@[simp] theorem Chip.onPort_mem (c : Chip) (p : Nat) (g : Port → Port) : (c.onPort p g).mem = c.mem := rfl
@[simp] theorem Chip.onPort_ue (c : Chip) (p : Nat) (g : Port → Port) : (c.onPort p g).ue = c.ue := rfl
@[simp] theorem Chip.onPort_engines (c : Chip) (p : Nat) (g : Port → Port) : (c.onPort p g).engines = c.engines := rfl
@[simp] theorem Chip.onPort_dir (c : Chip) (p : Nat) (g : Port → Port) : (c.onPort p g).dir = c.dir := rfl
@[simp] theorem Chip.onPort_dirClock (c : Chip) (p : Nat) (g : Port → Port) : (c.onPort p g).dirClock = c.dirClock := rfl
@[simp] theorem Chip.onPort_dirEvict (c : Chip) (p : Nat) (g : Port → Port) : (c.onPort p g).dirEvict = c.dirEvict := rfl
@[simp] theorem Chip.onPort_bankTurn (c : Chip) (p : Nat) (g : Port → Port) : (c.onPort p g).bankTurn = c.bankTurn := rfl
@[simp] theorem Chip.onPort_host (c : Chip) (p : Nat) (g : Port → Port) : (c.onPort p g).host = c.host := rfl
@[simp] theorem Chip.onPort_fab (c : Chip) (p : Nat) (g : Port → Port) : (c.onPort p g).fab = { c.fab with ports := modifyAt g c.fab.ports p } := rfl
@[simp] theorem Chip.onPort_cors (c : Chip) (p : Nat) (g : Port → Port) : (c.onPort p g).cors = c.cors := rfl
@[simp] theorem Chip.onPort_prf (c : Chip) (p : Nat) (g : Port → Port) : (c.onPort p g).prf = c.prf := rfl
@[simp] theorem Chip.onPort_imp (c : Chip) (p : Nat) (g : Port → Port) : (c.onPort p g).imp = c.imp := rfl
@[simp] theorem Chip.onPort_ds (c : Chip) (p : Nat) (g : Port → Port) : (c.onPort p g).ds = c.ds := rfl
@[simp] theorem Chip.onPort_bonds (c : Chip) (p : Nat) (g : Port → Port) : (c.onPort p g).bonds = c.bonds := rfl
@[simp] theorem Chip.onPort_lanes (c : Chip) (p : Nat) (g : Port → Port) : (c.onPort p g).lanes = c.lanes := rfl
@[simp] theorem Chip.onPort_bondChanged (c : Chip) (p : Nat) (g : Port → Port) : (c.onPort p g).bondChanged = c.bondChanged := rfl
@[simp] theorem Chip.onPort_wear (c : Chip) (p : Nat) (g : Port → Port) : (c.onPort p g).wear = c.wear := rfl
@[simp] theorem Chip.onPort_rst (c : Chip) (p : Nat) (g : Port → Port) : (c.onPort p g).rst = c.rst := rfl
@[simp] theorem Chip.onPort_pwr (c : Chip) (p : Nat) (g : Port → Port) : (c.onPort p g).pwr = c.pwr := rfl
@[simp] theorem Chip.onPort_ovs (c : Chip) (p : Nat) (g : Port → Port) : (c.onPort p g).ovs = c.ovs := rfl
@[simp] theorem Chip.onPort_evr (c : Chip) (p : Nat) (g : Port → Port) : (c.onPort p g).evr = c.evr := rfl
@[simp] theorem Chip.onPort_cnts (c : Chip) (p : Nat) (g : Port → Port) : (c.onPort p g).cnts = c.cnts := rfl
@[simp] theorem Chip.onPort_standby (c : Chip) (p : Nat) (g : Port → Port) : (c.onPort p g).standby = c.standby := rfl
@[simp] theorem Chip.onPort_waitCold (c : Chip) (p : Nat) (g : Port → Port) : (c.onPort p g).waitCold = c.waitCold := rfl
@[simp] theorem Chip.onPort_formesUp (c : Chip) (p : Nat) (g : Port → Port) : (c.onPort p g).formesUp = c.formesUp := rfl
@[simp] theorem Chip.onPort_seed (c : Chip) (p : Nat) (g : Port → Port) : (c.onPort p g).seed = c.seed := rfl
@[simp] theorem Chip.onPort_evq (c : Chip) (p : Nat) (g : Port → Port) : (c.onPort p g).evq = c.evq := rfl
@[simp] theorem Chip.onPort_episodes (c : Chip) (p : Nat) (g : Port → Port) : (c.onPort p g).episodes = c.episodes := rfl
@[simp] theorem Chip.onPort_nextEpisode (c : Chip) (p : Nat) (g : Port → Port) : (c.onPort p g).nextEpisode = c.nextEpisode := rfl
@[simp] theorem Chip.onPort_handlings (c : Chip) (p : Nat) (g : Port → Port) : (c.onPort p g).handlings = c.handlings := rfl
@[simp] theorem Chip.onPort_domDown (c : Chip) (p : Nat) (g : Port → Port) : (c.onPort p g).domDown = c.domDown := rfl
@[simp] theorem Chip.onPort_formeDown (c : Chip) (p : Nat) (g : Port → Port) : (c.onPort p g).formeDown = c.formeDown := rfl
@[simp] theorem Chip.onPort_free (c : Chip) (p : Nat) (g : Port → Port) : (c.onPort p g).free = c.free := rfl
@[simp] theorem Chip.onPort_sent (c : Chip) (p : Nat) (g : Port → Port) : (c.onPort p g).sent = c.sent := rfl

@[simp] theorem Chip.onPower_mem (c : Chip) (f : Nat) (g : FormePower → FormePower) : (c.onPower f g).mem = c.mem := rfl
@[simp] theorem Chip.onPower_ue (c : Chip) (f : Nat) (g : FormePower → FormePower) : (c.onPower f g).ue = c.ue := rfl
@[simp] theorem Chip.onPower_engines (c : Chip) (f : Nat) (g : FormePower → FormePower) : (c.onPower f g).engines = c.engines := rfl
@[simp] theorem Chip.onPower_dir (c : Chip) (f : Nat) (g : FormePower → FormePower) : (c.onPower f g).dir = c.dir := rfl
@[simp] theorem Chip.onPower_dirClock (c : Chip) (f : Nat) (g : FormePower → FormePower) : (c.onPower f g).dirClock = c.dirClock := rfl
@[simp] theorem Chip.onPower_dirEvict (c : Chip) (f : Nat) (g : FormePower → FormePower) : (c.onPower f g).dirEvict = c.dirEvict := rfl
@[simp] theorem Chip.onPower_bankTurn (c : Chip) (f : Nat) (g : FormePower → FormePower) : (c.onPower f g).bankTurn = c.bankTurn := rfl
@[simp] theorem Chip.onPower_host (c : Chip) (f : Nat) (g : FormePower → FormePower) : (c.onPower f g).host = c.host := rfl
@[simp] theorem Chip.onPower_fab (c : Chip) (f : Nat) (g : FormePower → FormePower) : (c.onPower f g).fab = c.fab := rfl
@[simp] theorem Chip.onPower_cors (c : Chip) (f : Nat) (g : FormePower → FormePower) : (c.onPower f g).cors = c.cors := rfl
@[simp] theorem Chip.onPower_prf (c : Chip) (f : Nat) (g : FormePower → FormePower) : (c.onPower f g).prf = c.prf := rfl
@[simp] theorem Chip.onPower_imp (c : Chip) (f : Nat) (g : FormePower → FormePower) : (c.onPower f g).imp = c.imp := rfl
@[simp] theorem Chip.onPower_ds (c : Chip) (f : Nat) (g : FormePower → FormePower) : (c.onPower f g).ds = c.ds := rfl
@[simp] theorem Chip.onPower_bonds (c : Chip) (f : Nat) (g : FormePower → FormePower) : (c.onPower f g).bonds = c.bonds := rfl
@[simp] theorem Chip.onPower_lanes (c : Chip) (f : Nat) (g : FormePower → FormePower) : (c.onPower f g).lanes = c.lanes := rfl
@[simp] theorem Chip.onPower_bondChanged (c : Chip) (f : Nat) (g : FormePower → FormePower) : (c.onPower f g).bondChanged = c.bondChanged := rfl
@[simp] theorem Chip.onPower_wear (c : Chip) (f : Nat) (g : FormePower → FormePower) : (c.onPower f g).wear = c.wear := rfl
@[simp] theorem Chip.onPower_rst (c : Chip) (f : Nat) (g : FormePower → FormePower) : (c.onPower f g).rst = c.rst := rfl
@[simp] theorem Chip.onPower_pwr (c : Chip) (f : Nat) (g : FormePower → FormePower) : (c.onPower f g).pwr = { c.pwr with formes := modifyAt g c.pwr.formes f } := rfl
@[simp] theorem Chip.onPower_ovs (c : Chip) (f : Nat) (g : FormePower → FormePower) : (c.onPower f g).ovs = c.ovs := rfl
@[simp] theorem Chip.onPower_evr (c : Chip) (f : Nat) (g : FormePower → FormePower) : (c.onPower f g).evr = c.evr := rfl
@[simp] theorem Chip.onPower_cnts (c : Chip) (f : Nat) (g : FormePower → FormePower) : (c.onPower f g).cnts = c.cnts := rfl
@[simp] theorem Chip.onPower_standby (c : Chip) (f : Nat) (g : FormePower → FormePower) : (c.onPower f g).standby = c.standby := rfl
@[simp] theorem Chip.onPower_waitCold (c : Chip) (f : Nat) (g : FormePower → FormePower) : (c.onPower f g).waitCold = c.waitCold := rfl
@[simp] theorem Chip.onPower_formesUp (c : Chip) (f : Nat) (g : FormePower → FormePower) : (c.onPower f g).formesUp = c.formesUp := rfl
@[simp] theorem Chip.onPower_seed (c : Chip) (f : Nat) (g : FormePower → FormePower) : (c.onPower f g).seed = c.seed := rfl
@[simp] theorem Chip.onPower_evq (c : Chip) (f : Nat) (g : FormePower → FormePower) : (c.onPower f g).evq = c.evq := rfl
@[simp] theorem Chip.onPower_episodes (c : Chip) (f : Nat) (g : FormePower → FormePower) : (c.onPower f g).episodes = c.episodes := rfl
@[simp] theorem Chip.onPower_nextEpisode (c : Chip) (f : Nat) (g : FormePower → FormePower) : (c.onPower f g).nextEpisode = c.nextEpisode := rfl
@[simp] theorem Chip.onPower_handlings (c : Chip) (f : Nat) (g : FormePower → FormePower) : (c.onPower f g).handlings = c.handlings := rfl
@[simp] theorem Chip.onPower_domDown (c : Chip) (f : Nat) (g : FormePower → FormePower) : (c.onPower f g).domDown = c.domDown := rfl
@[simp] theorem Chip.onPower_formeDown (c : Chip) (f : Nat) (g : FormePower → FormePower) : (c.onPower f g).formeDown = c.formeDown := rfl
@[simp] theorem Chip.onPower_free (c : Chip) (f : Nat) (g : FormePower → FormePower) : (c.onPower f g).free = c.free := rfl
@[simp] theorem Chip.onPower_sent (c : Chip) (f : Nat) (g : FormePower → FormePower) : (c.onPower f g).sent = c.sent := rfl

@[simp] theorem Chip.send_mem (c : Chip) (x : Sent) : (c.send x).mem = c.mem := rfl
@[simp] theorem Chip.send_ue (c : Chip) (x : Sent) : (c.send x).ue = c.ue := rfl
@[simp] theorem Chip.send_engines (c : Chip) (x : Sent) : (c.send x).engines = c.engines := rfl
@[simp] theorem Chip.send_dir (c : Chip) (x : Sent) : (c.send x).dir = c.dir := rfl
@[simp] theorem Chip.send_dirClock (c : Chip) (x : Sent) : (c.send x).dirClock = c.dirClock := rfl
@[simp] theorem Chip.send_dirEvict (c : Chip) (x : Sent) : (c.send x).dirEvict = c.dirEvict := rfl
@[simp] theorem Chip.send_bankTurn (c : Chip) (x : Sent) : (c.send x).bankTurn = c.bankTurn := rfl
@[simp] theorem Chip.send_host (c : Chip) (x : Sent) : (c.send x).host = c.host := rfl
@[simp] theorem Chip.send_fab (c : Chip) (x : Sent) : (c.send x).fab = c.fab := rfl
@[simp] theorem Chip.send_cors (c : Chip) (x : Sent) : (c.send x).cors = c.cors := rfl
@[simp] theorem Chip.send_prf (c : Chip) (x : Sent) : (c.send x).prf = c.prf := rfl
@[simp] theorem Chip.send_imp (c : Chip) (x : Sent) : (c.send x).imp = c.imp := rfl
@[simp] theorem Chip.send_ds (c : Chip) (x : Sent) : (c.send x).ds = c.ds := rfl
@[simp] theorem Chip.send_bonds (c : Chip) (x : Sent) : (c.send x).bonds = c.bonds := rfl
@[simp] theorem Chip.send_lanes (c : Chip) (x : Sent) : (c.send x).lanes = c.lanes := rfl
@[simp] theorem Chip.send_bondChanged (c : Chip) (x : Sent) : (c.send x).bondChanged = c.bondChanged := rfl
@[simp] theorem Chip.send_wear (c : Chip) (x : Sent) : (c.send x).wear = c.wear := rfl
@[simp] theorem Chip.send_rst (c : Chip) (x : Sent) : (c.send x).rst = c.rst := rfl
@[simp] theorem Chip.send_pwr (c : Chip) (x : Sent) : (c.send x).pwr = c.pwr := rfl
@[simp] theorem Chip.send_ovs (c : Chip) (x : Sent) : (c.send x).ovs = c.ovs := rfl
@[simp] theorem Chip.send_evr (c : Chip) (x : Sent) : (c.send x).evr = c.evr := rfl
@[simp] theorem Chip.send_cnts (c : Chip) (x : Sent) : (c.send x).cnts = c.cnts := rfl
@[simp] theorem Chip.send_standby (c : Chip) (x : Sent) : (c.send x).standby = c.standby := rfl
@[simp] theorem Chip.send_waitCold (c : Chip) (x : Sent) : (c.send x).waitCold = c.waitCold := rfl
@[simp] theorem Chip.send_formesUp (c : Chip) (x : Sent) : (c.send x).formesUp = c.formesUp := rfl
@[simp] theorem Chip.send_seed (c : Chip) (x : Sent) : (c.send x).seed = c.seed := rfl
@[simp] theorem Chip.send_evq (c : Chip) (x : Sent) : (c.send x).evq = c.evq := rfl
@[simp] theorem Chip.send_episodes (c : Chip) (x : Sent) : (c.send x).episodes = c.episodes := rfl
@[simp] theorem Chip.send_nextEpisode (c : Chip) (x : Sent) : (c.send x).nextEpisode = c.nextEpisode := rfl
@[simp] theorem Chip.send_handlings (c : Chip) (x : Sent) : (c.send x).handlings = c.handlings := rfl
@[simp] theorem Chip.send_domDown (c : Chip) (x : Sent) : (c.send x).domDown = c.domDown := rfl
@[simp] theorem Chip.send_formeDown (c : Chip) (x : Sent) : (c.send x).formeDown = c.formeDown := rfl
@[simp] theorem Chip.send_free (c : Chip) (x : Sent) : (c.send x).free = c.free := rfl
@[simp] theorem Chip.send_sent (c : Chip) (x : Sent) : (c.send x).sent = x :: c.sent := rfl

/-! ### A fresh free value -/

@[simp] theorem Chip.fresh_mem (c : Chip) : c.fresh.2.mem = c.mem := rfl
@[simp] theorem Chip.fresh_ue (c : Chip) : c.fresh.2.ue = c.ue := rfl
@[simp] theorem Chip.fresh_engines (c : Chip) : c.fresh.2.engines = c.engines := rfl
@[simp] theorem Chip.fresh_dir (c : Chip) : c.fresh.2.dir = c.dir := rfl
@[simp] theorem Chip.fresh_dirClock (c : Chip) : c.fresh.2.dirClock = c.dirClock := rfl
@[simp] theorem Chip.fresh_dirEvict (c : Chip) : c.fresh.2.dirEvict = c.dirEvict := rfl
@[simp] theorem Chip.fresh_bankTurn (c : Chip) : c.fresh.2.bankTurn = c.bankTurn := rfl
@[simp] theorem Chip.fresh_host (c : Chip) : c.fresh.2.host = c.host := rfl
@[simp] theorem Chip.fresh_fab (c : Chip) : c.fresh.2.fab = c.fab := rfl
@[simp] theorem Chip.fresh_cors (c : Chip) : c.fresh.2.cors = c.cors := rfl
@[simp] theorem Chip.fresh_prf (c : Chip) : c.fresh.2.prf = c.prf := rfl
@[simp] theorem Chip.fresh_imp (c : Chip) : c.fresh.2.imp = c.imp := rfl
@[simp] theorem Chip.fresh_ds (c : Chip) : c.fresh.2.ds = c.ds := rfl
@[simp] theorem Chip.fresh_bonds (c : Chip) : c.fresh.2.bonds = c.bonds := rfl
@[simp] theorem Chip.fresh_lanes (c : Chip) : c.fresh.2.bonds = c.bonds := rfl
@[simp] theorem Chip.fresh_bondChanged (c : Chip) : c.fresh.2.bondChanged = c.bondChanged := rfl
@[simp] theorem Chip.fresh_wear (c : Chip) : c.fresh.2.wear = c.wear := rfl
@[simp] theorem Chip.fresh_rst (c : Chip) : c.fresh.2.rst = c.rst := rfl
@[simp] theorem Chip.fresh_pwr (c : Chip) : c.fresh.2.pwr = c.pwr := rfl
@[simp] theorem Chip.fresh_ovs (c : Chip) : c.fresh.2.ovs = c.ovs := rfl
@[simp] theorem Chip.fresh_evr (c : Chip) : c.fresh.2.evr = c.evr := rfl
@[simp] theorem Chip.fresh_cnts (c : Chip) : c.fresh.2.cnts = c.cnts := rfl
@[simp] theorem Chip.fresh_standby (c : Chip) : c.fresh.2.standby = c.standby := rfl
@[simp] theorem Chip.fresh_waitCold (c : Chip) : c.fresh.2.waitCold = c.waitCold := rfl
@[simp] theorem Chip.fresh_formesUp (c : Chip) : c.fresh.2.formesUp = c.formesUp := rfl
@[simp] theorem Chip.fresh_seed (c : Chip) : c.fresh.2.seed = c.seed := rfl
@[simp] theorem Chip.fresh_evq (c : Chip) : c.fresh.2.evq = c.evq := rfl
@[simp] theorem Chip.fresh_episodes (c : Chip) : c.fresh.2.episodes = c.episodes := rfl
@[simp] theorem Chip.fresh_nextEpisode (c : Chip) : c.fresh.2.nextEpisode = c.nextEpisode := rfl
@[simp] theorem Chip.fresh_handlings (c : Chip) : c.fresh.2.handlings = c.handlings := rfl
@[simp] theorem Chip.fresh_domDown (c : Chip) : c.fresh.2.domDown = c.domDown := rfl
@[simp] theorem Chip.fresh_formeDown (c : Chip) : c.fresh.2.formeDown = c.formeDown := rfl
@[simp] theorem Chip.fresh_free (c : Chip) : c.fresh.2.free = c.free + 1 := rfl
@[simp] theorem Chip.fresh_sent (c : Chip) : c.fresh.2.sent = c.sent := rfl
@[simp] theorem Chip.fresh_index (c : Chip) : c.fresh.1 = c.free := rfl

/-! ### The storage -/

@[simp] theorem Dev.on_chip (d : Dev) (g : Chip → Chip) : (d.on g).chip = g d.chip := rfl
@[simp] theorem Dev.on_board (d : Dev) (g : Chip → Chip) : (d.on g).board = d.board := rfl
@[simp] theorem Dev.onFolio_chip (d : Dev) (g : Folio → Folio) : (d.onFolio g).chip = d.chip := rfl
@[simp] theorem Dev.onFolio_flash (d : Dev) (g : Folio → Folio) : (d.onFolio g).board.flash = d.board.flash := rfl
@[simp] theorem Dev.onFolio_folio (d : Dev) (g : Folio → Folio) : (d.onFolio g).board.folio = g d.board.folio := rfl
@[simp] theorem Dev.onFolio_fuses (d : Dev) (g : Folio → Folio) : (d.onFolio g).board.fuses = d.board.fuses := rfl
@[simp] theorem Dev.onFlash_chip (d : Dev) (g : Flash → Flash) : (d.onFlash g).chip = d.chip := rfl
@[simp] theorem Dev.onFlash_flash (d : Dev) (g : Flash → Flash) : (d.onFlash g).board.flash = g d.board.flash := rfl
@[simp] theorem Dev.onFlash_folio (d : Dev) (g : Flash → Flash) : (d.onFlash g).board.folio = d.board.folio := rfl
@[simp] theorem Dev.onFlash_fuses (d : Dev) (g : Flash → Flash) : (d.onFlash g).board.fuses = d.board.fuses := rfl
@[simp] theorem Dev.onFuses_chip (d : Dev) (g : Fuses → Fuses) : (d.onFuses g).chip = d.chip := rfl
@[simp] theorem Dev.onFuses_flash (d : Dev) (g : Fuses → Fuses) : (d.onFuses g).board.flash = d.board.flash := rfl
@[simp] theorem Dev.onFuses_folio (d : Dev) (g : Fuses → Fuses) : (d.onFuses g).board.folio = d.board.folio := rfl
@[simp] theorem Dev.onFuses_fuses (d : Dev) (g : Fuses → Fuses) : (d.onFuses g).board.fuses = g d.board.fuses := rfl

/-! ### The state -/

@[simp] theorem State.with_chip_pending (s : State) (c : Chip) : ({ s with chip := c } : State).pending = s.pending := rfl
@[simp] theorem State.with_chip_board (s : State) (c : Chip) : ({ s with chip := c } : State).board = s.board := rfl
@[simp] theorem State.with_pending_chip (s : State) (l : List Instr) : ({ s with pending := l } : State).chip = s.chip := rfl
@[simp] theorem State.with_pending_board (s : State) (l : List Instr) : ({ s with pending := l } : State).board = s.board := rfl
@[simp] theorem onChip_eq (s : State) (f : Chip → Chip) : onChip s f = .next { s with chip := f s.chip } := rfl
theorem onFormes_up (s : State) (f : Chip → Chip) (h : s.chip.formesUp = true) : onFormes s f = .next { s with chip := f s.chip } := by
  simp [onFormes, h]
theorem onFormes_down (s : State) (f : Chip → Chip) (h : s.chip.formesUp = false) : onFormes s f = .next s := by
  simp [onFormes, h]

end Sys2Proof.Machine
end

