-- ==== Sys2Proof/Laws/Memory.lean ====
section
/-!
SUPPORT. The canonical form of memory is kept by every operation on it, and a byte reads back.
-/
namespace Sys2Proof.Machine

/-! ### Cells -/

theorem risingFrom_mono {lo lo' : Nat} {cs : List Host.Cell} (h : lo' ≤ lo) (w : risingFrom lo cs = true) : risingFrom lo' cs = true := by
  cases cs with
  | nil => rfl
  | cons c cs =>
    obtain ⟨a, b⟩ := c
    simp only [risingFrom, Bool.and_eq_true, decide_eq_true_eq] at w ⊢
    exact ⟨by omega, w.2⟩

theorem risingFrom_set {lo a : Nat} {b : Byte} {cs : List Host.Cell} (h : lo ≤ a) (w : risingFrom lo cs = true) :
    risingFrom lo (cellSet a b cs) = true := by
  induction cs generalizing lo with
  | nil => simp [cellSet, risingFrom, h]
  | cons c cs ih =>
    obtain ⟨j, c⟩ := c
    simp only [risingFrom, Bool.and_eq_true, decide_eq_true_eq] at w
    unfold cellSet
    split
    · simp only [risingFrom, Bool.and_eq_true, decide_eq_true_eq]
      exact ⟨h, by omega, w.2⟩
    · split
      · subst_vars
        simp only [risingFrom, Bool.and_eq_true, decide_eq_true_eq]
        exact ⟨h, w.2⟩
      · simp only [risingFrom, Bool.and_eq_true, decide_eq_true_eq]
        exact ⟨w.1, ih (by omega) w.2⟩

theorem risingFrom_filter {lo : Nat} {cs : List Host.Cell} (p : Host.Cell → Bool) (w : risingFrom lo cs = true) :
    risingFrom lo (cs.filter p) = true := by
  induction cs generalizing lo with
  | nil => rfl
  | cons c cs ih =>
    obtain ⟨j, c⟩ := c
    simp only [risingFrom, Bool.and_eq_true, decide_eq_true_eq] at w
    rw [List.filter_cons]
    split
    · simp only [risingFrom, Bool.and_eq_true, decide_eq_true_eq]
      exact ⟨w.1, ih w.2⟩
    · exact ih (risingFrom_mono (by omega) w.2)

theorem risingFrom_erase {lo a : Nat} {cs : List Host.Cell} (w : risingFrom lo cs = true) : risingFrom lo (cellErase a cs) = true :=
  risingFrom_filter _ w

theorem mem_cellSet {a : Nat} {b : Byte} {cs : List Host.Cell} {c : Host.Cell} (h : c ∈ cellSet a b cs) : c = (a, b) ∨ c ∈ cs := by
  induction cs with
  | nil => simpa [cellSet] using h
  | cons d cs ih =>
    obtain ⟨j, d⟩ := d
    unfold cellSet at h
    split at h
    · simpa using h
    · split at h
      · rcases List.mem_cons.mp h with h | h
        · exact .inl h
        · exact .inr (List.mem_cons_of_mem _ h)
      · rcases List.mem_cons.mp h with h | h
        · exact .inr (h ▸ List.mem_cons_self)
        · rcases ih h with h | h
          · exact .inl h
          · exact .inr (List.mem_cons_of_mem _ h)

theorem mem_cellErase {a : Nat} {cs : List Host.Cell} {c : Host.Cell} (h : c ∈ cellErase a cs) : c ∈ cs := (List.mem_filter.mp h).1

theorem cellAt_set_same (a : Nat) (b : Byte) (cs : List Host.Cell) : cellAt a (cellSet a b cs) = some b := by
  induction cs with
  | nil => simp [cellSet, cellAt]
  | cons c cs ih =>
    obtain ⟨j, c⟩ := c
    unfold cellSet
    split
    · simp [cellAt]
    · split
      · simp [cellAt]
      · simp only [cellAt]
        rw [if_neg (by omega)]
        exact ih

theorem cellAt_set_ne {a x : Nat} (b : Byte) (cs : List Host.Cell) (h : x ≠ a) : cellAt x (cellSet a b cs) = cellAt x cs := by
  induction cs with
  | nil => simp [cellSet, cellAt, Ne.symm h]
  | cons c cs ih =>
    obtain ⟨j, c⟩ := c
    unfold cellSet
    split
    · simp [cellAt, Ne.symm h]
    · split
      · subst_vars; simp [cellAt, Ne.symm h]
      · simp only [cellAt, ih]

theorem cellAt_erase_same (a : Nat) (cs : List Host.Cell) : cellAt a (cellErase a cs) = none := by
  unfold cellErase
  induction cs with
  | nil => rfl
  | cons c cs ih =>
    obtain ⟨j, c⟩ := c
    rw [List.filter_cons]
    split
    · rename_i h
      have : j ≠ a := by simpa using h
      simp only [cellAt, if_neg this, ih]
    · exact ih

theorem cellAt_erase_ne {a x : Nat} (cs : List Host.Cell) (h : x ≠ a) : cellAt x (cellErase a cs) = cellAt x cs := by
  unfold cellErase
  induction cs with
  | nil => rfl
  | cons c cs ih =>
    obtain ⟨j, c⟩ := c
    rw [List.filter_cons]
    split
    · simp only [cellAt, ih]
    · rename_i h1
      have : j = a := by simpa using h1
      simp only [cellAt, if_neg (this ▸ Ne.symm h), ih]

/-! ### Memory -/

/-- Memory after reset is canonical. -/
theorem Mem.wf_empty : ({} : Mem).wf = true := rfl

/-- Writing a byte keeps the canonical form. -/
theorem Mem.wf_put {m : Mem} (w : m.wf = true) (a : Nat) (b : Byte) : (m.put a b).wf = true := by
  simp only [Mem.wf, Bool.and_eq_true, List.all_eq_true, bne_iff_ne] at w ⊢
  unfold Mem.put
  split
  · exact ⟨risingFrom_erase w.1, fun c hc => w.2 c (mem_cellErase hc)⟩
  · refine ⟨risingFrom_set (Nat.zero_le _) w.1, fun c hc => ?_⟩
    rcases mem_cellSet hc with h | h
    · subst h; assumption
    · exact w.2 c h

/-- Writing a run of bytes keeps the canonical form. -/
theorem Mem.wf_write {m : Mem} (w : m.wf = true) (a : Nat) (bs : List Byte) : (m.write a bs).wf = true := by
  unfold Mem.write
  generalize bs.zipIdx a = l
  induction l generalizing m with
  | nil => exact w
  | cons x l ih => exact ih (Mem.wf_put w _ _)

/-- New contents for a region keep the canonical form. -/
theorem Mem.wf_fillRegion {m : Mem} (w : m.wf = true) (r : Region) (f : Option Nat) : (m.fillRegion r f).wf = true := by
  simp only [Mem.wf, Bool.and_eq_true, List.all_eq_true, bne_iff_ne] at w ⊢
  refine ⟨risingFrom_filter _ w.1, fun c hc => ?_⟩
  obtain ⟨h1, h2⟩ := List.mem_filter.mp hc
  have h3 : r.contains c.1 = false := by simpa using h2
  simp only [Mem.fillRegion, unlisted, h3]
  exact w.2 c h1

/-- A byte that was written reads back. -/
theorem Mem.get_put_same (m : Mem) (a : Nat) (b : Byte) : (m.put a b).get a = b := by
  unfold Mem.put Mem.get
  split
  · simp only [cellAt_erase_same]; simp_all
  · simp only [cellAt_set_same]; rfl

/-- A write leaves every other address. -/
theorem Mem.get_put_ne (m : Mem) {a x : Nat} (b : Byte) (h : x ≠ a) : (m.put a b).get x = m.get x := by
  unfold Mem.put Mem.get
  split
  · simp only [cellAt_erase_ne _ h]
  · simp only [cellAt_set_ne b _ h]

end Sys2Proof.Machine
end

