-- ==== Sys2Proof/Laws/Ops.lean ====
section
/-!
SUPPORT. What the shared operations can do: accessors, tables, events, unit errors, and admission that has nothing to admit.
-/
namespace Sys2Proof.Machine

/-! ### Lists and tables -/

@[simp] theorem length_modifyAt {α : Type} (f : α → α) (l : List α) (i : Nat) : (modifyAt f l i).length = l.length := by
  induction l generalizing i with
  | nil => rfl
  | cons x xs ih => cases i <;> simp [modifyAt, ih]

theorem getD_modifyAt_same {α : Type} (d : α) (f : α → α) (l : List α) (i : Nat) (h : i < l.length) :
    (modifyAt f l i).getD i d = f (l.getD i d) := by
  induction l generalizing i with
  | nil => simp at h
  | cons x xs ih => cases i with
    | zero => simp [modifyAt]
    | succ n => simpa [modifyAt] using ih n (by simpa using h)

theorem getD_modifyAt_ne {α : Type} (d : α) (f : α → α) (l : List α) {i j : Nat} (h : j ≠ i) :
    (modifyAt f l i).getD j d = l.getD j d := by
  induction l generalizing i j with
  | nil => rfl
  | cons x xs ih => cases i with
    | zero => cases j with
      | zero => exact absurd rfl h
      | succ n => simp [modifyAt]
    | succ m => cases j with
      | zero => simp [modifyAt]
      | succ n => simpa [modifyAt] using ih (i := m) (j := n) (by omega)

/-- Where no engine holds records with a spill region, software reads what memory holds. -/
theorem Chip.seen_of_no_region {c : Chip} (h : c.spillRegions = []) (a : Nat) : c.seen a = c.mem.get a := by simp [Chip.seen, h]

/-- The word that software reads is made of the bytes it reads. -/
theorem Chip.seenWord_eq (c : Chip) (a n : Nat) : c.seenWord a n = ofBytes ((addrRange a n).map c.seen) := by
  unfold Chip.seenWord
  split
  · rename_i h
    have h0 : c.spillRegions = [] := by simpa using h
    have h1 : c.seen = c.mem.get := funext (Chip.seen_of_no_region h0)
    rw [h1]; rfl
  · rfl

/-- A key that was set is found. -/
@[simp] theorem Tab.find?_set_same {α : Type} (k : Nat) (v : α) (t : Tab α) : Tab.find? k (Tab.set k v t) = some v := by
  induction t with
  | nil => simp [Tab.set, Tab.find?]
  | cons p t ih =>
    obtain ⟨j, w⟩ := p
    unfold Tab.set
    split
    · simp [Tab.find?]
    · split
      · simp [Tab.find?]
      · simp only [Tab.find?]
        rw [if_neg (by omega), ih]

/-- Every other key is found as before. -/
theorem Tab.find?_set_ne {α : Type} {k x : Nat} (v : α) (t : Tab α) (h : x ≠ k) : Tab.find? x (Tab.set k v t) = Tab.find? x t := by
  induction t with
  | nil => simp [Tab.set, Tab.find?, Ne.symm h]
  | cons p t ih =>
    obtain ⟨j, w⟩ := p
    unfold Tab.set
    split
    · simp [Tab.find?, Ne.symm h]
    · split
      · subst_vars; simp [Tab.find?, Ne.symm h]
      · simp only [Tab.find?, ih]

@[simp] theorem Tab.get_set_same {α : Type} (d : α) (k : Nat) (v : α) (t : Tab α) : Tab.get d (Tab.set k v t) k = v := by
  simp [Tab.get]

/-! ### Engines -/

@[simp] theorem Chip.length_onEngine (c : Chip) (e : Nat) (g : Engine → Engine) : (c.onEngine e g).engines.length = c.engines.length := by
  simp

theorem Chip.engine_onEngine_same (c : Chip) (e : Nat) (g : Engine → Engine) (h : e < c.engines.length) :
    (c.onEngine e g).engine e = g (c.engine e) := by
  simp [Chip.engine, h]

theorem Chip.engine_onEngine_ne (c : Chip) {e x : Nat} (g : Engine → Engine) (h : x ≠ e) : (c.onEngine e g).engine x = c.engine x := by
  simp [Chip.engine, Ne.symm h]

/-- Counting a unit's bank requests changes no memory and nothing outside the engines and correctors (R210). -/
theorem Chip.onBanks_frame (c : Chip) (u : Nat) (f : Tab BankQ → Tab BankQ) :
    (c.onBanks u f).mem = c.mem ∧ (c.onBanks u f).host = c.host ∧ (c.onBanks u f).fab = c.fab ∧ (c.onBanks u f).ds = c.ds ∧
    (c.onBanks u f).bankTurn = c.bankTurn ∧ (c.onBanks u f).evq = c.evq ∧ (c.onBanks u f).rst = c.rst ∧ (c.onBanks u f).pwr = c.pwr := by
  unfold Chip.onBanks
  split <;> simp

/-- A unit has at most 16 requests in a bank's queue: the others are held (R210). -/
theorem Chip.BankQ.add_quota (q : BankQ) (h : q.queued ≤ 16) :
    (Chip.BankQ.add q).queued ≤ 16 ∧ (Chip.BankQ.add q).queued + (Chip.BankQ.add q).held = q.queued + q.held + 1 := by
  unfold Chip.BankQ.add
  split <;> simp <;> omega

/-- The queue that was set is the one that is read, and every other is as before. -/
@[simp] theorem Engine.queue_setQueue (x : Engine) (q r : QId) (l : List QEntry) : (x.setQueue q l).queue r = if r = q then l else x.queue r := by
  unfold Engine.setQueue
  cases q <;> cases r <;> simp [Engine.queue] <;> split <;> rfl

/-! ### Events and unit errors -/

/-- An event that is no unit error changes the queue of events only: it opens no episode (R480). -/
theorem Chip.raise_frame (c : Chip) (code : Nat) (sev : Severity) (src : Nat) (dom : Dom) (detail : List W64) :
    let t := c.raise code sev src dom detail
    t = { c with evq := t.evq } := by
  intro t
  simp only [t, Chip.raise]
  split <;> rfl

/-- Exactly one event is appended, with the code, source and domain given. -/
theorem Chip.raise_evq (c : Chip) (code : Nat) (sev : Severity) (src : Nat) (dom : Dom) (detail : List W64) :
    ∃ ev, (c.raise code sev src dom detail).evq = c.evq ++ [ev] ∧ ev.code = code ∧ ev.sev = sev ∧ ev.source = src ∧ ev.dom = dom ∧
      ev.detail = detail := by
  unfold Chip.raise
  dsimp only
  split
  · exact ⟨_, rfl, rfl, rfl, rfl, rfl, rfl⟩
  · exact ⟨_, rfl, rfl, rfl, rfl, rfl, rfl⟩

/-- A unit error changes events, episodes, handlings, and whether a stop in progress is forced. -/
theorem Chip.unitError_frame (c : Chip) (code : Nat) (sev : Severity) (src : Nat) (dom : Dom) (addr : Option Nat) (detail : List W64) :
    let t := c.unitError code sev src dom addr detail
    t = { c with
      evq := t.evq, episodes := t.episodes, nextEpisode := t.nextEpisode, handlings := t.handlings,
      pwr := { c.pwr with forceAll := t.pwr.forceAll } } := by
  intro t
  simp only [t, Chip.unitError]
  split
  · split <;> rfl
  · split <;> split <;> (try split) <;> (try split) <;> (try split) <;> rfl

/-! ### Admission -/

/-- Admission that is closed does nothing. -/
theorem Chip.pumpE_closed (c : Chip) (e : Nat) (h : c.admits e = false) : c.pumpE e = c := by
  simp [Chip.pumpE, Chip.pumpFuel, Chip.pump, h]

/-- An engine without a host ring and with an empty stream admits nothing. -/
theorem Chip.pumpE_idle (c : Chip) (e : Nat) (h1 : (c.engine e).stream = []) (h2 : (c.engine e).ring = none) : c.pumpE e = c := by
  simp [Chip.pumpE, Chip.pumpFuel, Chip.pump, Chip.fetchRing, Chip.admitOne, h1, h2]

/-! ### Limits of power -/

theorem clampW_bounds (w : Nat) : 1000 ≤ clampW w ∧ clampW w ≤ 2500 := by unfold clampW; omega

theorem clampW_mono {a b : Nat} (h : a ≤ b) : clampW a ≤ clampW b := by unfold clampW; omega

end Sys2Proof.Machine
end

