-- ==== Sys2Proof/Tests/Slice0.lean ====
section
/-!
SUPPORT. Tests: the well-formedness checks refuse ill-formed commands, the operations give the manual's worked examples and check values,
and for each statement a small state and operands meet its hypotheses.
-/
namespace Sys2Proof.Tests
open Sys2Proof Sys2Proof.Machine

set_option maxRecDepth 20000
set_option exponentiation.threshold 4096

/-! ### Well-formedness: one ill-formed command for each check, and one well-formed -/

theorem wf_refuses_a_foreign_path : (Instr.releaseApply .mgmt).wf = false ∧ (Instr.releaseApply .host).wf = true := by decide
theorem wf_refuses_a_missing_domain : (Instr.bedReset 21).wf = false ∧ (Instr.bedReset 20).wf = true := by decide
theorem wf_refuses_a_ready_of_no_domain : (Instr.bedDomainReady (.bed 21)).wf = false ∧ (Instr.bedDomainReady (.forme 3)).wf = true := by decide
theorem wf_refuses_a_missing_bundle : (Instr.flitCrcFail 0 180).wf = false ∧ (Instr.flitCrcFail 0 179).wf = true := by decide
theorem wf_refuses_a_test_of_no_bundle : (Instr.bondTest 0 { bundle := 180 }).wf = false ∧ (Instr.bondTest 0 { bundle := 179, windows := [100] }).wf = true := by
  decide
theorem wf_refuses_a_test_of_no_lane : (Instr.crcBurst 0 { bundle := 0, windows := List.replicate 67 100 }).wf = false ∧
    (Instr.crcBurst 0 { bundle := 0, windows := [101] }).wf = false := by decide
theorem wf_refuses_a_control_error_with_a_bad_test : (Instr.bondCtrlError 0 0 [{ bundle := 200 }]).wf = false := by decide
theorem wf_refuses_too_few_readings :
    (Instr.overseerLoop { temps := [], rails := List.replicate 13 [], folioTemp := 0, tickKhz := List.replicate 64 0 }).wf = false ∧
    (Instr.overseerLoop { temps := List.replicate 112 0, rails := List.replicate 13 [], folioTemp := 0, tickKhz := [] }).wf = false ∧
    (Instr.overseerLoop { temps := List.replicate 112 0, folioTemp := 0, tickKhz := List.replicate 64 1000000 }).wf = false ∧
    (Instr.overseerLoop { temps := List.replicate 112 0, rails := List.replicate 13 [], folioTemp := 0, tickKhz := List.replicate 64 1000000 }).wf = true := by decide
theorem wf_refuses_a_missing_counter : (Instr.cntSelWrite .host (.engine 0) 8 0 0).wf = false ∧ (Instr.cntSelWrite .host .device 8 0 0).wf = true := by decide
theorem wf_refuses_a_clock_without_pll : (Instr.clkLockLost 22 0).wf = false ∧ (Instr.clkLockLost 25 0).wf = false ∧ (Instr.clkLockLost 24 0).wf = true := by
  decide
theorem wf_refuses_a_missing_space : (Instr.unitError (.cacheLine 0 3 0)).wf = false ∧ (Instr.unitError (.cacheLine 0 2 0)).wf = true := by decide
theorem wf_refuses_a_bank_request_of_no_unit : (Instr.hbmRequestDone 68 0 0 0).wf = false ∧ (Instr.hbmRequestDone 67 0 0 0).wf = true := by decide
theorem wf_refuses_a_ticker_out_of_range :
    (Instr.overseerLoop { temps := List.replicate 112 0, rails := List.replicate 13 [], folioTemp := 0, tickKhz := List.replicate 64 899999 }).wf = false ∧
    (Instr.overseerLoop { temps := List.replicate 112 0, rails := List.replicate 13 [], folioTemp := 0, tickKhz := List.replicate 64 1100001 }).wf = false := by decide
theorem wf_refuses_an_empty_private_write : (Instr.i3cPrivateWrite []).wf = false := by decide
theorem wf_refuses_three_formes : (Instr.fastPowerLoop [[], [], []]).wf = false ∧ (Instr.fastPowerLoop [[], [], [], []]).wf = true := by decide
theorem wf_refuses_a_frame_at_a_fabric_port : (Instr.ethFrame 11 []).wf = false ∧ (Instr.ethFrame 12 []).wf = true := by decide

/-! ### The manual's worked examples and check values -/

/-- Example 2.1: 0x3F801000 stored as BF16 under the three modes. -/
theorem test_example_2_1 :
    convElem .fp32 .bf16 { mode := .rne, sat := false, u := 0 } 0x3F801000 = 0x3F80 ∧
    convElem .fp32 .bf16 { mode := .stochastic, sat := false, u := 0x0C3A5E21 } 0x3F801000 = 0x3F81 ∧
    convElem .fp32 .bf16 { mode := .stochastic, sat := false, u := 0x9A0B7713 } 0x3F801000 = 0x3F80 := by decide

/-- Example 2.2: a tie between FP8_E4M3 subnormals. -/
theorem test_example_2_2 :
    convElem .fp32 .e4m3 { mode := .rne, sat := false, u := 0 } 0x3B400000 = 0x02 ∧
    convElem .fp32 .e4m3 { mode := .rtz, sat := false, u := 0 } 0x3B400000 = 0x01 ∧
    convElem .fp32 .e4m3 { mode := .stochastic, sat := false, u := 0x80000000 } 0x3B400000 = 0x01 := by decide

/-- Example 2.3: 500.0 overflows FP8_E4M3 and is finite in FP8_E5M2. -/
theorem test_example_2_3 :
    convElem .fp32 .e4m3 { mode := .rne, sat := false, u := 0 } 0xC3FA0000 = 0x7F ∧
    convElem .fp32 .e4m3 { mode := .rne, sat := true, u := 0 } 0xC3FA0000 = 0xFE ∧
    convElem .fp32 .e5m2 { mode := .rne, sat := false, u := 0 } 0x43FA0000 = 0x60 := by decide

/-- Example 2.4: the scaled stores of an integer, natively and in KS2 mode. -/
theorem test_example_2_4 :
    storeElem .int8 { mode := .rne, sat := false, u := 0 } (some 0x3F000000) false (.i 0xFFFFFFFB) = 0xFE ∧
    storeElem .int8 { mode := .rne, sat := false, u := 0 } (some 0x3F000000) true (.i 0xFFFFFFFB) = 0xFD ∧
    storeElem .fp32 { mode := .rne, sat := false, u := 0 } (some 0x00000200) false (.i 0x00001000) = 0x00200000 ∧
    storeElem .fp32 { mode := .rne, sat := false, u := 0 } (some 0x00000200) true (.i 0x00001000) = 0 := by decide

/-- Example 3.1: what lies below the window is dropped. -/
theorem test_example_3_1 :
    dotReference 0 ((([0x4E80, 0x2F80, 0x3040, 0xCE80] : List Nat) ++ List.replicate 28 0).map fun a =>
      some (FVal.mul (Fmt.bf16.decode a) (Fmt.bf16.decode 0x3F80))) = 0x30000000 := by decide

/-- Example 3.2: three products below the smallest subnormal, rounded once. -/
theorem test_example_3_2 :
    dotReference 0 (([0x0001, 0x0003, 0x0005] : List Nat).map fun a => some (FVal.mul (Fmt.bf16.decode a) (Fmt.bf16.decode 0x3580))) = 1 := by decide

/-- The check value of R265 over "123456789". -/
theorem test_crc64_check_value : crc64we [0x31, 0x32, 0x33, 0x34, 0x35, 0x36, 0x37, 0x38, 0x39] = 0x62EC59E3F1A4F00A := by decide

/-- Example 7.1: the full set loses way 12. -/
theorem test_example_7_1 :
    let l (way : Nat) (nu : Option (BitVec 32)) (r : Int) : PLine := { space := 0, addr := 0, way, data := 0, state := .demand, td := 0, nu, recency := r }
    chooseVictim ([l 3 (some 1012) 900, l 7 none 850, l 9 (some 995) 910, l 12 (some 600) 840] ++
      ([0, 1, 2, 4, 5, 6, 8, 10, 11, 13, 14, 15].map fun w => l w (some 1001) 1000)) 1000 = 12 := by decide

/-- Example 10.2: with 40 members, rank 37's shard is led by rank 5 in group 0 and by rank 37 in group 1. -/
theorem test_example_10_2 : leaderOf 40 0 37 = 5 ∧ leaderOf 40 1 37 = 37 := by decide

/-- Example 3.3: two groups, 1.0 and not 2.0. -/
theorem test_example_3_3 :
    let row : List Nat := ([0x4B80, 0x3F80] : List Nat) ++ List.replicate 30 0 ++ [0xCB80, 0x3F80] ++ List.replicate 30 0
    dotReference 0 (row.map fun a => some (FVal.mul (Fmt.bf16.decode a) (Fmt.bf16.decode 0x3F80))) = 0x3F800000 := by decide

/-- Example 3.4: one, two and three passes. -/
theorem test_example_3_4 :
    splitHiLo 0x3F808080 = (0x3F81, 0xBB7F) ∧ dotSplit 1 0 [(0x3F808080, 0x3F808080)] = 0x3F820200 ∧
    dotSplit 2 0 [(0x3F808080, 0x3F808080)] = 0x3F818181 ∧ dotSplit 3 0 [(0x3F808080, 0x3F808080)] = 0x3F810102 := by decide

/-- Example 3.5: integer accumulation, wrapping and saturating. -/
theorem test_example_3_5 :
    addGroupInt false (addGroupInt false 0x7FFFFF9C 500) (-1000) = 0x7FFFFDA8 ∧
    addGroupInt true (addGroupInt true 0x7FFFFF9C 500) (-1000) = 0x7FFFFC17 := by decide

/-- Philox-4x32-10 as published (R274): the known answer for a zero key and counter. -/
theorem test_philox_known_answer :
    randomWord 0 0 0 = 0x6627E8D5 ∧ randomWord 0 0 1 = 0xE169C58D ∧ randomWord 0 0 2 = 0xBC57AC4C ∧ randomWord 0 0 3 = 0x9B00DBD8 := by decide

/-- SHA-512 as published (R463): the digest of "abc" begins as FIPS 180-4's example. -/
theorem test_sha512_abc : (sha512 [0x61, 0x62, 0x63]).take 8 = [0xDD, 0xAF, 0x35, 0xA1, 0x93, 0x61, 0x7A, 0xBA] := by decide

/-- Example 13.2: the readings of F1. -/
theorem test_example_13_2 :
    let w := ([50, 82, 70, 88, 68, 40, 25, 45] : List Int).foldl (fun (w : Wear) t => w.track (degrees t)) { ext := degrees 30, started := true }
    w.wear = 2346 ∧ w.ext = degrees 25 := by decide

/-- Constants and exact points of the vector functions (R130). -/
theorem test_vector_functions_at_exact_points :
    expF 0 = 0x3F800000 ∧ expF 0xFF800000 = 0 ∧ logF 0x3F800000 = 0 ∧ sqrtF 0x40800000 = 0x40000000 ∧ rsqrtF 0x40800000 = 0x3F000000 ∧
    divF 0x3F800000 0x40400000 = 0x3EAAAAAB ∧ sigmoidF 0 = 0x3F000000 ∧ tanhF 0x80000000 = 0x80000000 := by decide

/-- exp(1) rounded correctly is 0x402DF854. -/
theorem test_exp_of_one : expF 0x3F800000 = 0x402DF854 := by decide

/-! ### Helpers: small states -/

/-- A running chip with nothing to do. -/
def upC : Chip := { formesUp := true, waitCold := false, ovs := { state := .running } }
def up : State := { chip := upC }
/-- A chip's state. -/
def at_ (c : Chip) : State := { chip := c }
/-- A running chip whose host link is in L0 with CXL.cache. -/
def hostC : Chip := { upC with host := { l0 := true, cxlCache := true, bme := true, rate := 64, width := 16 } }
/-- A running chip with port 0 as given. -/
def portC (p : Port) : Chip := { upC with fab := { ports := p :: List.replicate 15 {} } }
/-- Engine 0 as given. -/
def engC (x : Engine) : Chip := { upC with engines := x :: List.replicate 63 {} }

/-! ### Witnesses: the machine as a whole -/

theorem witness_step_idles : State.reset.pending = [] := rfl
theorem witness_other_commands_answer : writesBoard .keepAlive = false ∧ ∃ t, exec .keepAlive State.reset = .next t := ⟨rfl, _, rfl⟩
theorem witness_fuses : FusesKept {} State.reset ∧ ∃ t, step State.reset = .next t := ⟨⟨nofun, Nat.le_refl _, rfl, fun h => h, rfl⟩, _, rfl⟩
theorem witness_memory : (Mem.wf {}) = true ∧ 0 < ([5] : List Byte).length ∧ (Region.range 4 8).contains 3 = false ∧ (Region.range 4 8).contains 7 = true := by
  decide

/-! ### Witnesses: register writes -/

theorem witness_seed_and_proofreader_writes : Lets .core upC.imp.prfExpert ∧ Lets .host true ∧ upC.prf.hold = false ∧
    (let c := { engC { qUpdate := [{ id := 0, slug := 0 }] } with prf := { hold := true } }
     c.prf.hold = true ∧ c.engines.length = 64 ∧ ((c.engine 0).qUpdate.map QEntry.id).Nodup) := ⟨.inl rfl, .inr rfl, rfl, by decide⟩
theorem witness_reset_requests : Lets .core upC.imp.rstExpert ∧ upC.rst.busy = false ∧ (upC.engine 63).retired = false ∧ upC.spanBusy 1 63 = false ∧
    upC.spanBusy 2 3 = false ∧ upC.spanBusy 3 20 = false ∧ upC.spanBusy 4 0 = false := ⟨.inl rfl, by decide⟩
theorem witness_rearm : Lets .core upC.imp.pwrExpert ∧ upC.pwr.formes.length = 4 ∧
    (let c := { upC with pwr := { mode := .measuredOnly, agree := 100 } }; c.pwr.mode = .measuredOnly ∧ 100 ≤ c.pwr.agree) := ⟨.inl rfl, by decide⟩
theorem witness_platen_split : upC.formesUp = true ∧ Lets .core upC.imp.engExpert ∧ (upC.engine 63).retired = false ∧ (upC.engine 63).split.busy = false :=
  ⟨rfl, .inl rfl, by decide⟩
/-- A LOCAL job ring 0 at 0x1000, and ring 3 in HOST space. -/
def jobC : Chip := { upC with ds := { rings := [{ base := 0x1000, enable := true }, {}, {}, { base := 0x1000, enable := true, space := 2 }] } }
theorem witness_job_rings : jobC.formesUp = true ∧ (jobC.ring 0).enable = true ∧ (jobC.ring 0).space = 0 ∧ (jobC.ring 0).space ≠ 2 ∧
    jobC.readLocal 3 (addrRange ((jobC.ring 0).base - 128) 8) = .ok [0, 0, 0, 0, 0, 0, 0, 0] ∧ (jobC.ring 3).enable = true ∧ (jobC.ring 3).space = 2 :=
  ⟨rfl, rfl, rfl, by decide, rfl, rfl, rfl⟩
theorem witness_host_job_rings :
    let l : HLine := { state := .shared, data := 0, pinned := true }
    let c : Chip := { jobC with host := { jobC.host with lines := [(62, l)] } }
    let d : Chip := { jobC with host := { jobC.host with inForce := true } }
    (Tab.find? (((c.ring 3).base - 128) / 64) c.host.lines = some l ∧ l.pinned = true) ∧ ((jobC.ring 1).enable = false ∧ jobC.ds.rings.length = 4) ∧
    jobC.host.inForce = false ∧ d.host.inForce = true := ⟨⟨rfl, rfl⟩, ⟨rfl, rfl⟩, rfl, rfl⟩
theorem witness_port_control : Lets .core upC.imp.fabExpert ∧ (portC {}).fab.ports.length = 16 ∧ ((portC { state := .training }).port 0).state = .training ∧
    ((portC {}).port 0).state = .down ∧ ((portC { state := .up }).port 0).state = .up ∧ ((portC { state := .up }).port 0).width ≤ 4 := ⟨.inl rfl, by decide⟩
theorem witness_fabric_tables : Lets .core upC.imp.fabExpert ∧ (upC.pathRegs .core).roleBusy = false ∧
    (({ upC with fab := { corePath := { roleBusy := true } } } : Chip).pathRegs .core).roleBusy = true := ⟨.inl rfl, by decide⟩
theorem witness_counters : upC.engines.length = 64 ∧ upC.cnts.forme.length = 4 ∧ upC.cnts.engSh.length = 64 ∧ upC.cnts.formeSh.length = 4 ∧
    selWf (.engine 63) 7 = true ∧ (7#4).toNat < (upC.selOf (toScope (.engine 63))).length ∧ selWf .device 15 = true ∧
    (15#4).toNat < (upC.selOf (toScope .device)).length ∧ ∀ e : EngineNo, CntScope.engine 63 = .engine e → (upC.engine e.toNat).retired = false :=
  ⟨by decide, by decide, by decide, by decide, by decide, by decide, by decide, by decide, fun _ h => by cases h; decide⟩
theorem witness_updates_and_clears : upC.ovs.upd.stage = .idle ∧ upC.ovs.clr.stage = .idle ∧
    (({ upC with ovs := { upd := { stage := .copying } } } : Chip).ovs.upd.stage = .copying) ∧
    (({ upC with ovs := { upd := { stage := .committing } } } : Chip).ovs.upd.stage = .committing) ∧
    ({ upC with ovs := { clr := { stage := .checking } } } : Chip).ovs.clr.stage ≠ .idle := by decide
theorem witness_msix : (upC.host.msix.length = 16 ∧ (upC.msixAt 15).pending = false) ∧
    (let c := { hostC with host := { hostC.host with msix := { pending := true } :: List.replicate 15 {} } }
     c.host.msix.length = 16 ∧ (c.msixAt 0).pending = true ∧ c.host.bme = true) := by decide
theorem witness_attach : upC.host.busy = false ∧ ({ upC with host := { busy := true } } : Chip).host.busy = true := by decide
theorem witness_access_rules : ((3#4).toNat ≠ 4 ∧ (3#4).toNat ≠ 8) ∧ ((8#4).toNat = 8 ∧ (4#16).toNat % 8 ≠ 0) ∧ ((4#4).toNat = 4 ∧ (2#16).toNat % 4 ≠ 0) ∧
    regAt ((0x00FF#16).toNat / 8 * 8) = none ∧ Path.core ≠ .host ∧ hostOnly ((0x1FF#16).toNat / 8 * 8) = true := by decide
theorem witness_locked_register : ∃ r, upC.formesUp = true ∧ (0x500#16).toNat % 8 = 0 ∧ regAt (0x500#16).toNat = some r ∧ hostOnly (0x500#16).toNat = false ∧
    upC.lockedReg .host r 1 = true := ⟨_, rfl, rfl, rfl, by decide, by decide⟩
theorem witness_unlisted_offset : regAt ((0x00F8#16).toNat / 8 * 8) = none := by decide
theorem witness_prf_release : (3#64).toNat % 4 = 3 ∧ (5#64).toNat % 4 = 1 ∧ (2#64).toNat % 4 = 2 ∧
    ({ upC with prf := { hold := true } } : Chip).prf.hold = true := by decide

/-! ### Witnesses: the fabric's links and frames -/

/-- Device 5 of its domain, port 0 as given. -/
def idC (p : Port) : Chip := { upC with fab := { ports := p :: List.replicate 15 {}, idValid := true, deviceId := 5 } }
/-- The trailer that a frame's CRC gives. -/
def sealOf (f : FabFrame) : BitVec 64 := BitVec.ofNat 64 (crc32c f.body)
/-- A READ of four bytes at 0x1000 of device 5. -/
def readHdr : BitVec 256 := ({ opcode := opRead, dst := 5, src := 6, addr := 0x1000, lenW := 1 } : THdr).enc
def dataLink (lseq : Nat) : BitVec 64 := mkLink ltData lseq 0 0 0

theorem witness_data_frame_in_order :
    let c := idC { state := .up }
    let f : FabFrame := { link := dataLink 0, thdr := some readHdr }
    c.formesUp = true ∧ c.portAlive 0 = true ∧ fld (dataLink 0) 3 0 = ltData ∧ c.fab.ports.length = 16 ∧ fld (sealOf f) 31 0 = crc32c f.body ∧
    fld (dataLink 0) 19 4 = (c.port 0).rxSeq.toNat ∧ bit (sealOf f) 32 = false ∧ c.fab.idValid = true ∧ c.frameTo (THdr.dec readHdr) = none ∧
    (THdr.dec readHdr).opcode ≠ opMgmt := by decide
theorem witness_data_frame_for_the_overseer :
    let thdr : BitVec 256 := ({ opcode := opMgmt, vc := 4, linkLocal := true, dst := 5, src := 6, lenW := 16, arg := 1 } : THdr).enc
    let f : FabFrame := { link := dataLink 0, thdr := some thdr, payload := List.replicate 64 0 }
    let c : Chip := { idC { state := .up } with fab := { ports := { state := .up } :: List.replicate 15 {} } }
    let d := idC { state := .up }
    c.formesUp = true ∧ c.portAlive 0 = true ∧ c.fab.idValid = false ∧ fld (sealOf f) 31 0 = crc32c f.body ∧
    fld (dataLink 0) 19 4 = (c.port 0).rxSeq.toNat ∧ bit (sealOf f) 32 = false ∧ (THdr.dec thdr).linkLocal = true ∧
    c.frameTo (THdr.dec thdr) = none ∧ (THdr.dec thdr).opcode = opMgmt ∧ c.fab.mgmt.length < 1024 ∧
    d.fab.idValid = true ∧ d.frameTo (THdr.dec thdr) = none ∧ d.fab.mgmt.length < 1024 := by decide
theorem witness_data_frame_discarded :
    let f : FabFrame := { link := dataLink 0, thdr := some readHdr }
    let c := idC { state := .up }
    let d : Chip := { idC { state := .up } with fab := { ports := { state := .up } :: List.replicate 15 {} } }
    let stomped : BitVec 64 := BitVec.ofNat 64 (crc32c f.body + p2 32)
    (fld stomped 31 0 = crc32c f.body ∧ bit stomped 32 = true ∧ fld (dataLink 0) 19 4 = (c.port 0).rxSeq.toNat) ∧
    (d.fab.idValid = false ∧ (THdr.dec readHdr).linkLocal = false ∧ (THdr.dec readHdr).opcode ≠ opMgmt ∧ fld (dataLink 0) 19 4 = (d.port 0).rxSeq.toNat) := by
  decide
/-- Device 5, whose port 1 leads to device 7. -/
def wayC (p q : Port) : Chip := { upC with fab := { ports := p :: q :: List.replicate 14 {}, idValid := true, deviceId := 5, routes := [(7, BitVec.ofNat 32 (1 + 1 <<< 5))] } }
theorem witness_data_frame_passes_on :
    let thdr : BitVec 256 := ({ opcode := opRead, dst := 7, src := 6, hops := 3, lenW := 1 } : THdr).enc
    let f : FabFrame := { link := dataLink 0, thdr := some thdr }
    let c := wayC { state := .up } { state := .up, masked := false }
    fld (sealOf f) 31 0 = crc32c f.body ∧ bit (sealOf f) 32 = false ∧ c.fab.idValid = true ∧ c.frameTo (THdr.dec thdr) = some 7 ∧
    (THdr.dec thdr).hops ≠ 0 ∧
    (let c1 := c.onPort 0 fun q => { q with rxSeq := q.rxSeq + 1, rxFrames := q.rxFrames + 1, rxBytes := q.rxBytes + 72 }
     (c1.takeAck 0 (dataLink 0)).choosePath 7 (THdr.dec thdr).vc = some (1, false)) := by decide
theorem witness_data_frame_out_of_order :
    let c := idC { state := .up }
    let late : FabFrame := { link := dataLink 1, thdr := some readHdr }
    let old : FabFrame := { link := dataLink 65535, thdr := some readHdr }
    (fld (sealOf late) 31 0 = crc32c late.body ∧ fld (dataLink 1) 19 4 ≠ (c.port 0).rxSeq.toNat ∧ seqBefore (fld (dataLink 1) 19 4) (c.port 0).rxSeq.toNat = false) ∧
    ¬ fld (0#64) 31 0 = crc32c late.body ∧
    (fld (sealOf old) 31 0 = crc32c old.body ∧ fld (dataLink 65535) 19 4 ≠ (c.port 0).rxSeq.toNat ∧
      seqBefore (fld (dataLink 65535) 19 4) (c.port 0).rxSeq.toNat = true) := by decide
theorem witness_acknowledgements :
    let kept : FabFrame := { link := dataLink 1, thdr := some readHdr }
    let c := idC { state := .up, retry := [{ link := dataLink 0, thdr := some readHdr }, kept] }
    let ctl : FabFrame := { link := mkLink ltControl 0 1 4 512 }
    let nak : FabFrame := { link := mkLink ltNak 0 1 0 0 }
    c.formesUp = true ∧ c.portAlive 0 = true ∧ c.fab.ports.length = 16 ∧ Chip.linkOk ltControl ctl.link [] (sealOf ctl) = true ∧
    Chip.linkOk ltNak nak.link [] (sealOf nak) = true ∧ (c.port 0).outq = [] ∧ (c.port 0).nakRun < 7 ∧
    ((c.port 0).retry.filter fun f => !seqBefore (fld f.link 19 4) (fld nak.link 35 20)) = [kept] := by decide
theorem witness_heartbeats :
    let beat (domain : Nat) : BitVec 256 := BitVec.ofNat 256 (7 + domain <<< 16)
    let f (domain : Nat) : FabFrame := { link := mkLink ltHeartbeat 0 0 0 0, payload := toBytes 32 (beat domain).toNat }
    let c := idC { state := .training, trained := true, hbSeen := 1 }
    c.formesUp = true ∧ c.fab.ports.length = 16 ∧ c.portAlive 0 = true ∧ (idC { state := .up }).portAlive 0 = true ∧
    Chip.linkOk ltHeartbeat (f 0).link (toBytes 32 (beat 0).toNat) (sealOf (f 0)) = true ∧ fld (beat 0) 31 16 = c.fab.domainId ∧
    (c.port 0).state = .training ∧ 1 ≤ (c.port 0).hbSeen ∧ ((idC { state := .up }).port 0).state = .up ∧
    ((idC { state := .training, trained := true }).portAlive 0 = true ∧ ((idC { state := .training, trained := true }).port 0).hbSeen = 0) ∧
    Chip.linkOk ltHeartbeat (f 1).link (toBytes 32 (beat 1).toNat) (sealOf (f 1)) = true ∧ fld (beat 1) 31 16 ≠ c.fab.domainId := by decide
theorem witness_training :
    let pay : BitVec 256 := BitVec.ofNat 256 (2 <<< 36)
    let f : FabFrame := { link := mkLink ltTrain 0 0 0 0, payload := toBytes 32 pay.toNat }
    let c := idC { state := .training, badLanes := [3] }
    Chip.linkOk ltTrain f.link (toBytes 32 pay.toNat) (sealOf f) = true ∧ (c.port 0).disable = false ∧ (c.port 0).state = .training ∧
    min (soundWidth (c.port 0).badLanes) (lanesOfCode (fld pay 37 36)) ≠ 0 := by decide
theorem witness_lanes_and_retraining :
    ((idC { state := .up, badLanes := [0] }).port 0).state = .up ∧ soundWidth ([0, 3] : List Nat) ≠ 0 ∧ ((idC {}).port 0).state = .down ∧
    ((idC {}).port 0).disable = false ∧ soundWidth ((idC {}).port 0).badLanes ≠ 0 := by decide

/-- A frame that arrives at device 5. -/
def arrival (h : THdr) (payload : List Byte) : FrameSrc := .arrives h.enc payload
theorem witness_read_and_write_frames :
    let c := idC {}
    (c.takeFrame (arrival { opcode := opRead, addr := 0x1000, lenW := 1 } []) opRead = (some ({ opcode := opRead, addr := 0x1000, lenW := 1 }, []), c) ∧
      c.acceptAt { opcode := opRead, addr := 0x1000, lenW := 1 } 4 = .ok 0x1000 ∧ c.rangeError 0x1000 4 = none ∧ c.ueAt (addrRange 0x1000 4) = none) ∧
    (c.takeFrame (arrival { opcode := opWrite, addr := 0x1000 } [1, 2]) opWrite = (some ({ opcode := opWrite, addr := 0x1000 }, [1, 2]), c) ∧
      c.acceptAt { opcode := opWrite, addr := 0x1000 } 2 = .ok 0x1000 ∧ c.rangeError 0x1000 2 = none ∧ c.uePartial (addrRange 0x1000 2) = none) :=
  ⟨⟨rfl, rfl, rfl, rfl⟩, rfl, rfl, rfl, rfl⟩
theorem witness_atomic_frame :
    let c := idC {}
    let h : THdr := { opcode := opAtomic, addr := 0x1000, atype := 3, arg := 7 }
    c.takeFrame (arrival h (toBytes 8 9)) opAtomic = (some (h, toBytes 8 9), c) ∧ c.acceptAt h (Chip.atomicSize h.atype) = .ok 0x1000 ∧ h.atype ≤ 3 ∧
    0x1000 % Chip.atomicSize h.atype = 0 ∧ c.rangeError 0x1000 (Chip.atomicSize h.atype) = none ∧
    c.ueAt (addrRange 0x1000 (Chip.atomicSize h.atype)) = none := ⟨rfl, rfl, by decide, by decide, rfl, rfl⟩

/-- A collective call of engine 0 under tag 3, and a role table that holds role 9 at 0x10000 with a window of 64 KiB. -/
def coll0 : Coll := { engine := 0, entry := 1, tag := 3, count := 0, op := 4, members := [5, 6], rank := 0, elems := 4, int := false, sig := 0 }
def collC : Chip := { upC with fab := { idValid := true, deviceId := 5, colls := [coll0] } }
def roleC : Chip := { upC with fab := { idValid := true, deviceId := 5, roles := [(9, BitVec.ofNat 128 (5 + 7 <<< 32 + 16 <<< 35 + 0x10000 <<< 64))] } }
theorem witness_collective_frames :
    let h : THdr := { opcode := opCollData, addr := 3 }
    let g : THdr := { opcode := opCollGsum, addr := 3 }
    let other : THdr := { opcode := opCollData, addr := 3 + 1 <<< 32 }
    let k := coll0
    let q : QEntry := { id := 1, slug := 0 }
    let c : Chip := { collC with engines := { qFabric := [q] } :: List.replicate 63 {} }
    collC.takeFrame (arrival h []) opCollData = (some (h, []), collC) ∧ collC.takeFrame (arrival g []) opCollGsum = (some (g, []), collC) ∧
    (collC.respond h .success 0 []).fab.colls.find? (fun k => k.tag == h.addr % p2 32) = some k ∧
    nbits h.addr 32 16 = k.count % p2 16 ∧ nbits h.arg 48 1 ≠ 1 ∧ nbits h.arg 49 1 = 0 ∧
    ((idC {}).respond h .success 0 []).tagOwner (h.addr % p2 32) = none ∧
    (c.takeFrame (arrival other []) opCollData = (some (other, []), c) ∧ nbits other.addr 32 16 ≠ k.count % p2 16 ∧
      (c.respond other .success 0 []).fab.colls.find? (fun k => k.tag == other.addr % p2 32) = some k ∧
      (c.respond other .success 0 []).callEntry k.engine k.entry = some q) :=
  ⟨rfl, rfl, rfl, by decide, by decide, by decide, rfl, rfl, by decide, rfl, rfl⟩
theorem witness_all_to_all_frames :
    let h : THdr := { opcode := opA2aRows, role := true, dst := 9, addr := 0x1000, arg := 0x2000 }
    let g : THdr := { opcode := opA2aRows, dst := 5, addr := 0x1000 }
    let m : THdr := { opcode := opA2aMark, role := true, dst := 9, addr := 0x1000, arg := 3 }
    let ent := Tab.get 0 roleC.fab.roles 9
    let bytes : List Byte := List.replicate 80 0
    (roleC.takeFrame (arrival h bytes) opA2aRows = (some (h, bytes), roleC) ∧ roleC.acceptAt h (bytes.drop 32).length = .ok 0x11000 ∧ h.role = true ∧
      ofBytes ((bytes.drop 8).take 8) ≤ p2 (fld ent 40 35) ∧ h.arg + 8 ≤ p2 (fld ent 40 35) ∧ roleC.rangeError 0x11000 48 = none ∧
      roleC.rangeError 0x12000 8 = none ∧ roleC.ue = [] ∧ roleC.tagOwner (nbits (ofBytes ((bytes.drop 24).take 8)) 0 32) = none) ∧
    (roleC.takeFrame (arrival g bytes) opA2aRows = (some (g, bytes), roleC) ∧ roleC.acceptAt g (bytes.drop 32).length = .ok 0x1000 ∧ g.role = false ∧
      roleC.rangeError 0x1000 48 = none) ∧
    (roleC.takeFrame (arrival m bytes) opA2aMark = (some (m, bytes), roleC) ∧ roleC.acceptAt m 16 = .ok 0x11000 ∧ m.role = true ∧
      ofBytes ((bytes.drop 32).take 8) ≤ p2 (fld ent 40 35) ∧ roleC.rangeError 0x11000 16 = none ∧ 16 ≤ bytes.length ∧
      roleC.tagOwner (nbits m.arg 0 32) = none) :=
  ⟨⟨rfl, rfl, rfl, by decide, by decide, rfl, rfl, rfl, rfl⟩, ⟨rfl, rfl, rfl, rfl⟩, rfl, rfl, rfl, by decide, rfl, by decide, rfl⟩
/-- Engine 0 has an all-to-all under tag 0 in progress, whose first call a row of another call does not fit. -/
theorem witness_row_of_another_call :
    let g : THdr := { opcode := opA2aRows, dst := 5, addr := 0x1000 }
    let bytes : List Byte := List.replicate 28 0 ++ [1] ++ List.replicate 11 0
    let k : A2A := { engine := 0, entry := 1, sig := 0, combine := false, members := [5, 6], rank := 0, tag := 0, count := 0, first := 0, roles := 1 }
    let q : QEntry := { id := 1, slug := 0 }
    let c : Chip := { upC with fab := { idValid := true, deviceId := 5, a2as := [k] }, engines := { qFabric := [q] } :: List.replicate 63 {} }
    c.takeFrame (arrival g bytes) opA2aRows = (some (g, bytes), c) ∧ c.acceptAt g (bytes.drop 32).length = .ok 0x1000 ∧ g.role = false ∧
    c.rangeError 0x1000 (bytes.drop 32).length = none ∧ c.ue = [] ∧
    c.fab.a2as.find? (fun k => k.tag == nbits (ofBytes ((bytes.drop 24).take 8)) 0 32) = some k ∧
    nbits (ofBytes ((bytes.drop 24).take 8)) 32 16 ≠ k.count % p2 16 ∧ c.fab.colls.all (fun k => k.tag != nbits (ofBytes ((bytes.drop 24).take 8)) 0 32) = true ∧
    c.callEntry k.engine k.entry = some q ∧ c.engines.length = 64 := ⟨rfl, rfl, rfl, rfl, rfl, rfl, by decide, rfl, rfl, rfl⟩
theorem witness_watches :
    let h (arg : Nat) : THdr := { opcode := opWatch, src := 6, addr := 0x1000, arg }
    let i : THdr := { opcode := opInval, src := 6, addr := 0x1000, arg := 63 }
    (roleC.takeFrame (arrival (h 1) []) opWatch = (some (h 1, []), roleC) ∧ roleC.acceptAt (h 1) 128 = .ok 0x1000 ∧
      roleC.rangeError (0x1000 / 128 * 128) 128 = none ∧ (h 1).arg % 2 = 1 ∧ (h 0).arg % 2 = 0 ∧
      ((roleC.fab.watches.filter fun x => x != { line := 32, device := 6, unit := 0 }).map (·.line)).eraseDups.length < Chip.watchLimit) ∧
    (roleC.takeFrame (arrival i []) opInval = (some (i, []), roleC) ∧ roleC.engines.length = 64) :=
  ⟨⟨rfl, rfl, rfl, rfl, rfl, by decide⟩, rfl, rfl⟩
theorem witness_answers :
    let r : FabReq := { num := 3, txn := 4, thdr := readHdr, payload := [], engine := 0, entry := 1 }
    let d : FabReq := { r with delayed := true }
    let d16 : FabReq := { d with resends := 16 }
    let role : FabReq := { r with thdr := ({ opcode := opRead, role := true, dst := 9, src := 5, addr := 0x1000, lenW := 1 } : THdr).enc }
    let c (q : FabReq) : Chip := { upC with fab := { idValid := true, reqs := [q], roles := [(9, BitVec.ofNat 128 (6 + 7 <<< 16 + 1 <<< 32))] } }
    let h : THdr := { opcode := opResponse, txn := 4 }
    let moved (epoch : Nat) : THdr := { h with status := Status.roleMoved.code, arg := 6 + epoch <<< 16 + 1 <<< 32 }
    let finds (h : THdr) (r : FabReq) : Bool := r.txn == h.txn && !r.queued && r.answer.isNone && fld r.thdr 7 0 != opMgmt
    ((c r).takeFrame (arrival h []) opResponse = (some (h, []), c r) ∧ (c r).fab.reqs.find? (finds h) = some r ∧ h.status ≠ Status.roleMoved.code ∧
      r.orphan = false ∧ r.engine ≠ Chip.fabUnit) ∧
    ((c role).takeFrame (arrival (moved 8) []) opResponse = (some (moved 8, []), c role) ∧ (c role).fab.reqs.find? (finds (moved 8)) = some role ∧
      bit role.thdr 11 = true ∧ role.resends < (c role).imp.fabRoleRetries ∧ nbits (moved 8).arg 32 1 = 1 ∧
      Chip.newerEpoch (nbits (moved 8).arg 16 16) (fld (Tab.get 0 (c role).fab.roles (fld role.thdr 31 16)) 31 16) = true ∧
      Chip.newerEpoch (nbits (moved 7).arg 16 16) (fld (Tab.get 0 (c role).fab.roles (fld role.thdr 31 16)) 31 16) = false ∧
      (c { role with resends := 16 }).imp.fabRoleRetries ≤ 16) ∧
    (c r).fab.reqs.find? (fun r => r.txn == (4#16).toNat && !r.queued && r.answer.isNone) = some r ∧
    ((c d).fab.reqs.find? (fun r => r.txn == (4#16).toNat && !r.queued && r.delayed && r.answer.isNone) = some d ∧ d.resends < (c d).imp.fabRoleRetries) ∧
    ((c d16).fab.reqs.find? (fun r => r.txn == (4#16).toNat && !r.queued && r.delayed && r.answer.isNone) = some d16 ∧
      (c d16).imp.fabRoleRetries ≤ d16.resends) :=
  ⟨⟨rfl, by decide, by decide, by decide, by decide⟩, ⟨rfl, by decide, by decide, by decide, by decide, by decide, by decide, by decide⟩, by decide,
    ⟨by decide, by decide⟩, by decide, by decide⟩
theorem witness_collective_timeout :
    let c := { collC with engines := { qFabric := [{ id := 1, slug := 0 }] } :: List.replicate 63 {} }
    c.engines.length = 64 ∧ (c.engine 0).qFabric = [{ id := 1, slug := 0 }] ∧ (c.collOf 0 1).isSome = true := by decide

/-! ### Witnesses: the management plane -/

/-- A chip whose overseer's queue holds one message, from device 6, which may manage it and lies, as device 7 does, behind port 1. -/
def mgmtC (m : MgmtMsg) : Chip := { upC with
  fab := { mgmt := [m], idValid := true, deviceId := 5, ports := {} :: { state := .up, masked := false } :: List.replicate 14 {},
           routes := [(6, BitVec.ofNat 32 (1 + 1 <<< 5)), (7, BitVec.ofNat 32 (1 + 1 <<< 5))] },
  imp := { fabManagers := [6] } }
def msgOf (src mtype : Nat) (payload : BitVec 512) : MgmtMsg := { src, port := 0, linkLocal := false, mtype, seq := 1, payload }
/-- REG_WRITE of all bytes of a slot. -/
def regWritePay (o v : Nat) : BitVec 512 := BitVec.ofNat 512 (o + v <<< 32 + 0xFF <<< 96)

theorem witness_answers_have_a_way : CanAnswer (mgmtC (msgOf 6 1 0)) (msgOf 6 1 0) ∧ CanAnswer (mgmtC (msgOf 7 1 0)) (msgOf 7 1 0) :=
  ⟨.inr ⟨rfl, by decide⟩, .inr ⟨rfl, by decide⟩⟩
theorem witness_messages_are_queued :
    (mtPowerLimit, 0, Instr.powerLimit) ∈ mgmtRows ∧ upC.fab.mgmt.length < 1024 ∧
    1024 ≤ ({ upC with fab := { mgmt := List.replicate 1024 (msgOf 6 1 0) } } : Chip).fab.mgmt.length ∧ mtRegRead ≠ mtPowerLimit :=
  ⟨by simp [mgmtRows], by decide, by simp, by decide⟩
theorem witness_register_messages :
    let r := msgOf 6 mtRegRead 0x300
    let w := msgOf 6 mtRegWrite (regWritePay 0x580 7)
    let f := msgOf 7 mtRegWrite (regWritePay 0x580 7)
    (TakesNext (at_ (mgmtC r)) mtRegRead r ((mgmtC r).onFab fun f => { f with mgmt := [] }) ∧ fld r.payload 31 0 % 8 = 0 ∧
      fld (msgOf 6 mtRegRead 0x304).payload 31 0 % 8 ≠ 0) ∧
    (TakesNext (at_ (mgmtC w)) mtRegWrite w ((mgmtC w).onFab fun f => { f with mgmt := [] }) ∧ (mgmtC w).imp.fabManagers.contains w.src = true ∧
      Chip.maskHalf (fld w.payload 103 96) = some .full ∧ Chip.maskHalf 0x3C = none ∧ Chip.maskHalf 0xF0 = some .high ∧ fld w.payload 31 0 = 0x580 ∧
      (hostOnly 0x1F8 = true ∧ hostOnly 0xF8 = false ∧ (∃ r wide, regAt 0x300 = some r ∧ r.wo = some wide)) ∧
      (∃ c2, (mgmtC w).writeAt .mgmt 0x580 .full 7 = (.done, c2)) ∧ (∃ c2, (mgmtC w).writeAt .mgmt 0x500 .full 1 = (.locked, c2)) ∧ regAt 0xF8 = none) ∧
    (TakesNext (at_ (mgmtC f)) mtRegWrite f ((mgmtC f).onFab fun f => { f with mgmt := [] }) ∧ (mgmtC f).imp.fabManagers.contains f.src = false) :=
  ⟨⟨⟨rfl, rfl, rfl, rfl⟩, by decide, by decide⟩, ⟨⟨rfl, rfl, rfl, rfl⟩, rfl, by decide, by decide, by decide, by decide, ⟨by decide, by decide, _, _, rfl, rfl⟩, ⟨_, rfl⟩, ⟨_, rfl⟩, by decide⟩, ⟨rfl, rfl, rfl, rfl⟩, rfl⟩
theorem witness_other_messages :
    (let m := msgOf 6 mtPowerLimit 1500; TakesNext (at_ (mgmtC m)) mtPowerLimit m ((mgmtC m).onFab fun f => { f with mgmt := [] })) ∧
    (let m := { msgOf 6 mtIdAssign 9 with linkLocal := true }
     let c := { mgmtC m with fab := { (mgmtC m).fab with idValid := false, assigned := true } }
     TakesNext (at_ c) mtIdAssign m (c.onFab fun f => { f with mgmt := [] }) ∧ m.linkLocal = true ∧ c.fab.idValid = false ∧ c.fab.assigned = true ∧
       c.imp.fabManagers.contains m.src = true) ∧
    (let m := msgOf 6 mtRoleSet 9; TakesNext (at_ (mgmtC m)) mtRoleSet m ((mgmtC m).onFab fun f => { f with mgmt := [] }) ∧ (mgmtC m).fab.held = []) ∧
    (let m := msgOf 7 mtRtSet 9
     TakesNext (at_ (mgmtC m)) mtRtSet m ((mgmtC m).onFab fun f => { f with mgmt := [] }) ∧ (mgmtC m).imp.fabManagers.contains m.src = false ∧
       (mtRtSet, 0, Instr.rtSet) ∈ mgmtRows ∧ authorisedType mtRtSet = true) ∧
    (let m := msgOf 6 mtIdAssign 9
     TakesNext (at_ (mgmtC m)) mtIdAssign m ((mgmtC m).onFab fun f => { f with mgmt := [] }) ∧ m.linkLocal = false) ∧
    (let m := msgOf 6 mtRtSet 9; TakesNext (at_ (mgmtC m)) mtRtSet m ((mgmtC m).onFab fun f => { f with mgmt := [] })) ∧
    (let m := msgOf 6 mtDiscover 0; TakesNext (at_ (mgmtC m)) mtDiscover m ((mgmtC m).onFab fun f => { f with mgmt := [] })) :=
  ⟨⟨rfl, rfl, rfl, rfl⟩, ⟨⟨rfl, rfl, rfl, rfl⟩, rfl, rfl, rfl, rfl⟩, ⟨⟨rfl, rfl, rfl, rfl⟩, rfl⟩, ⟨⟨rfl, rfl, rfl, rfl⟩, rfl, by simp [mgmtRows], rfl⟩,
    ⟨⟨rfl, rfl, rfl, rfl⟩, rfl⟩, ⟨rfl, rfl, rfl, rfl⟩, rfl, rfl, rfl, rfl⟩
theorem witness_register_response :
    let m := msgOf 6 mtRegResp 0
    let d : MgmtMsg := { msgOf 6 mtDiscoverResp 0 with part := 1 }
    let r : FabReq := { num := 2, txn := 0, thdr := ({ opcode := opMgmt, dst := 6, arg := 1 <<< 8 } : THdr).enc, payload := [], engine := 0, entry := 1 }
    let c (m : MgmtMsg) : Chip := { mgmtC m with fab := { (mgmtC m).fab with reqs := [r] } }
    let finds (m : MgmtMsg) (r : FabReq) : Bool :=
      fld r.thdr 7 0 == opMgmt && !r.queued && r.answer.isNone && fld r.thdr 31 16 == m.src && fld r.thdr 215 200 == m.seq
    (CanAnswer (c m) m ∧ TakesNext (at_ (c m)) mtRegResp m ((c m).onFab fun f => { f with mgmt := [] }) ∧ (c m).fab.reqs.find? (finds m) = some r ∧
      r.orphan = false ∧ r.engine ≠ Chip.fabUnit) ∧
    (CanAnswer (c d) d ∧ TakesNext (at_ (c d)) mtDiscoverResp d ((c d).onFab fun f => { f with mgmt := [] }) ∧ (c d).fab.reqs.find? (finds d) = some r ∧
      d.mtype = mtDiscoverResp ∧ d.part < 2) :=
  ⟨⟨.inr ⟨rfl, rfl⟩, ⟨rfl, rfl, rfl, rfl⟩, by decide, rfl, by decide⟩, .inr ⟨rfl, rfl⟩, ⟨rfl, rfl, rfl, rfl⟩, by decide, rfl, by decide⟩
theorem witness_i3c : upC.standby = true ∧ upC.ovs.i3c.dyn = none ∧ ({ upC with ovs := { i3c := { dyn := some 0x4C } } } : Chip).ovs.i3c.dyn.isSome = true ∧
    ([1, 2] : List Byte).length ≤ 256 ∧ ([1, 2] : List Byte)[(0x19 + 256 - (0x17#8).toNat) % 256]? = none ∧
    ([1, 2] : List Byte)[(0x18 + 256 - (0x17#8).toNat) % 256]? = some 2 := by decide
theorem witness_spdm :
    let c : Chip := { hostC with ovs := { state := .running, certOk := true, spdm := { version := true, caps := true, algs := true } } }
    c.standby = true ∧ c.host.l0 = true ∧ c.ovs.state ≠ .rom ∧ c.ovs.spdm.version = true ∧ c.ovs.spdm.caps = true ∧ c.ovs.spdm.algs = true ∧
    c.ovs.certOk = true ∧ upC.ovs.certOk = false ∧ upC.ovs.spdm.version = false := by decide
theorem witness_certificate_portion :
    (3#16).toNat < (certChain [(certBase, 4), (certBase + 1, 0), (certBase + 2, 0), (certBase + 3, 0)]).length := by decide

/-! ### Witnesses: the host's link and its sessions -/

theorem getD_default {α : Type} (d : α) (n i : Nat) : (List.replicate n d).getD i d = d := by
  by_cases h : i < n <;> simp [List.getD_eq_getElem?_getD, h]
theorem hostC_engines (e : Nat) : hostC.engine e = {} := getD_default _ 64 e
theorem hostC_rings (e : Nat) : (hostC.engine e).ring = none := by rw [hostC_engines]
theorem hostC_jobs (j : Nat) : (hostC.ring j).space ≠ 2 := by rw [show hostC.ring j = {} from getD_default _ 4 j]; decide
theorem hostC_due (j : Nat) (_ : j < 4) : (hostC.ring j).space ≠ 2 ∧ (hostC.ring j).due = false :=
  ⟨hostC_jobs j, by rw [show hostC.ring j = {} from getD_default _ 4 j]⟩
/-- The host link with line 5 MODIFIED. -/
def lineC : Chip := { hostC with host := { hostC.host with lines := [(5, { state := .modified, data := 1 })] } }
theorem witness_snoops : hostC.host.l0 = true ∧ Tab.find? 5 hostC.host.lines = none ∧ hostC.ringsAt 5 = [] ∧ (∀ r, (hostC.ring r).space ≠ 2) ∧
    Tab.find? 5 lineC.host.lines = some { state := .modified, data := 1 } ∧ lineC.ringsAt 5 = [] := ⟨rfl, rfl, by decide, hostC_jobs, rfl, by decide⟩
theorem witness_cache_responses :
    let c (k : HReqKind) : Chip := { hostC with host := { hostC.host with reqs := [{ line := 5, kind := k, engine := 0, entry := 0 }] } }
    (c .rdShared).hostAvail = true ∧ (c .rdShared).host.reqs.any (fun r => r.line == 5 && r.answer.isNone) = true ∧
    ((c .rdShared).host.reqs.all fun r => !(r.line == 5 && r.answer.isNone) || r.kind == .rdShared) = true ∧
    ((c .rdOwn).host.reqs.any fun r => r.line == 5 && r.answer.isNone && r.kind != .rdShared) = true := by decide
/-- One line that the device has made MODIFIED while its request waits, and one that it does not hold. -/
theorem witness_cache_response_lines :
    let c : Chip := { lineC with host := { lineC.host with reqs := [{ line := 5, kind := .rdOwn, engine := 0, entry := 0 },
                                                                    { line := 6, kind := .rdShared, engine := 0, entry := 0 }] } }
    c.hostAvail = true ∧ c.host.reqs.any (fun r => r.line == 5 && r.answer.isNone) = true ∧ c.host.reqs.any (fun r => r.line == 6 && r.answer.isNone) = true ∧
    Tab.find? 5 c.host.lines = some { state := .modified, data := 1 } ∧ Tab.find? 6 c.host.lines = none := by decide
/-- Engine 0 with a host ring whose control block is line 5. -/
def ring0 : HostRing := { sqBase := 0x1000, cqBase := 0x2000, ctlBase := 320, sqLog2 := 4, cqLog2 := 4, irqMode := 0, irqVector := 0 }
def ringC : Chip := { hostC with engines := { ring := some ring0, parked := true } :: List.replicate 63 {} }
theorem witness_doorbell : ringC.hostAvail = true ∧ ringC.engines.length = 64 ∧ (ringC.engine 0).ring = some ring0 ∧ ringC.ringsAt (5#46).toNat = [0] ∧
    (∀ j, (ringC.ring j).space ≠ 2) ∧ ring0.halted = false ∧ (ringC.engine 0).halted = false ∧ ringC.host.poison.Nodup ∧ ringC.admits 0 = false ∧
    fld (7#512) 79 64 = ring0.resumeSeen.toNat := ⟨rfl, by decide, rfl, by decide, hostC_jobs, rfl, rfl, by decide, by decide, by decide⟩
theorem witness_host_quiet : HostQuiet hostC ∧ HostQuiet ({ hostC with host := { hostC.host with bme := false } } : Chip) ∧
    HostQuiet ({ hostC with host := { training := true } } : Chip) ∧ hostC.host.training = false :=
  ⟨.inr ⟨rfl, fun e _ => hostC_rings e, hostC_due⟩, .inl rfl, .inl rfl, by decide⟩
theorem witness_host_link : (({ upC with host := { training := true } } : Chip).host.training = true ∧ ({ upC with host := { training := true } } : Chip).host.rate = 0) ∧
    hostC.host.rate ≠ 0 ∧ hostC.host.rate = Chip.linkRate 64 ∧ hostC.host.width = Chip.linkWidth 16 ∧ hostC.host.rate ≠ Chip.linkRate 32 ∧
    (∀ e, (hostC.engine e).ring = none) ∧ (∀ j, j < 4 → (hostC.ring j).space ≠ 2 ∧ (hostC.ring j).due = false) ∧ hostC.host.msix.all (fun m => !m.pending) = true ∧
    upC.waitCold = false ∧ upC.standby = true ∧ State.reset.chip.waitCold = true :=
  ⟨by decide, by decide, by decide, by decide, by decide, hostC_rings, hostC_due, by decide, rfl, rfl, rfl⟩
theorem hostIdle_of (c : Chip) (h : c.engines = List.replicate 64 {}) : HostIdle c := by
  intro e _
  have h2 : c.engine e = {} := by unfold Chip.engine; rw [h]; exact getD_default ({} : Engine) 64 e
  rw [h2]
  exact ⟨fun ent hent => absurd hent (List.not_mem_nil), fun ent hent => (by cases hent), fun k hk => absurd hk (List.not_mem_nil)⟩
theorem witness_host_loss : (let c := { lineC with host := { lineC.host with inForce := true, l0 := false } }
    c.engines.length = 64 ∧ HostIdle c ∧ c.host.inForce = true ∧ c.host.l0 = false) ∧
    ({ upC with host := { state := .detaching } } : Chip).host.state = .detaching :=
  ⟨⟨rfl, hostIdle_of _ rfl, rfl, rfl⟩, rfl⟩

/-! ### Witnesses: slugs -/

/-- Engine 0 with one slug in a queue. -/
def qC (q : QId) (ent : QEntry) : Chip := engC (({} : Engine).setQueue q [ent])
/-- The head of a queue of an engine that admits nothing runs on the chip as it is. -/
theorem runs_of_head (c : Chip) (e : EngineNo) (q : QId) (q0 : QEntry) (h1 : c.formesUp = true) (h2 : c.engines.length = 64)
    (h3 : (c.engine e.toNat).stream = []) (h4 : (c.engine e.toNat).ring = none) (h5 : c.readyHead e.toNat q = some q0)
    (h6 : c.sessionError { q0 with began := true } = none) : Runs (at_ c) e .queued q c { q0 with began := true } :=
  ⟨h1, h2, (Chip.pumpE_idle c e.toNat h3 h4).symm, ⟨q0, h5, rfl⟩, h6⟩
/-- A one-dimensional LOCAL TD of `n` elements in the platen scratch of engine 0. -/
def scratch : Nat := 0x010000000000
def tdW (base fmt n : Nat) : TDWord := BitVec.ofNat 512 (base + fmt <<< 112 + 1 <<< 120 + n <<< 128)
def tdOf (id base : Nat) (fmt : Fmt) (n : Nat) : TD :=
  { id, base, scale := 0, stream := 0, fmt, rmode := .rne, sat := false, scaleEn := false, ndim := 1, space := .lcl, streaming := false,
    ext := [n, 1, 1, 1, 1, 1], stride := [0, 0, 0, 0, 0, 0] }
theorem tdW_reads : TD.read 1 (tdW scratch 0 4) = .ok (tdOf 1 scratch .fp32 4) := rfl

/-- A slug of a class and operation whose TD references are 1 and 2. -/
def slugW (cls op : Nat) : SlugWord := BitVec.ofNat 512 (cls + op <<< 64 + 1 <<< 68 + 2 <<< 78)
def entW (w : SlugWord) : QEntry := { id := 0, slug := w, tds := [(1, tdW scratch 0 4), (2, tdW (scratch + 64) 1 4)] }
def begun (q : QEntry) : QEntry := { q with began := true }

theorem witness_slug_ends : upC.engines.length = 64 ∧ Status.success ≠ .pathReset ∧ (upC.engine 0).stream = [] ∧
    ({ upC with formesUp := false } : Chip).admits 63 = false := by decide

/-- An FP32 tensor of four elements copied to BF16. -/
def copyC : Chip := qC .move (entW (slugW 0 0))
theorem witness_copy : Runs (at_ copyC) 0 .queued .move copyC (begun (entW (slugW 0 0))) ∧ isMove 0 (slugW 0 0) = true ∧
    Untouched copyC 0 (begun (entW (slugW 0 0))) ∧
    (∀ i, i < 4 → Reached copyC 0 (begun (entW (slugW 0 0))) ((begun (entW (slugW 0 0))).moveUsesAt 0 i)) ∧
    checkCopy copyC.selfId (begun (entW (slugW 0 0))) = .ok (tdOf 1 scratch .fp32 4, tdOf 2 (scratch + 64) .bf16 4) ∧
    PlainRead copyC 0 (tdOf 1 scratch .fp32 4) ∧ PlainWrite copyC 0 (tdOf 2 (scratch + 64) .bf16 4) :=
  ⟨runs_of_head _ _ _ _ rfl rfl rfl rfl (by decide) (by decide), by decide, ⟨rfl, nofun, nofun⟩, by unfold Reached; decide, rfl, ⟨rfl, rfl, by decide⟩, rfl, rfl, by decide⟩

theorem witness_copy_t : ∃ a d, checkCopyT upC.selfId 0 { id := 0, slug := slugW 0 1, tds := [(1, tdW scratch 1 4), (2, tdW (bufferOf 0) 1 1 + BitVec.ofNat 512 (1 <<< 120 + 4 <<< 152 + 64 <<< 312))] } =
    .ok (a, d) ∧ isMove 1 (slugW 0 1) = true ∧ d.count = 4 := ⟨_, _, rfl, by decide, by decide⟩

/-- SET: TD 2 takes the value 1.0. -/
def setW : SlugWord := BitVec.ofNat 512 (3 <<< 64 + 0x3FF <<< 68 + 2 <<< 78 + 0x3F800000 <<< 96)
theorem witness_set : Runs (at_ (qC .move (entW setW))) 0 .queued .move (qC .move (entW setW)) (begun (entW setW)) ∧ isMove 3 setW = true ∧
    Untouched (qC .move (entW setW)) 0 (begun (entW setW)) ∧ checkSet (begun (entW setW)) = .ok (tdOf 2 (scratch + 64) .bf16 4) ∧
    (∀ i, i < 4 → Reached (qC .move (entW setW)) 0 (begun (entW setW)) ((begun (entW setW)).moveUsesAt 0 i)) ∧
    PlainWrite (qC .move (entW setW)) 0 (tdOf 2 (scratch + 64) .bf16 4) :=
  ⟨runs_of_head _ _ _ _ rfl rfl rfl rfl (by decide) (by decide), by decide, ⟨rfl, nofun, nofun⟩, rfl, by unfold Reached; decide, rfl, rfl, by decide⟩

/-- PREFETCH of four FP32 elements at 0x1000, TRACKED. -/
def prefW : SlugWord := BitVec.ofNat 512 (2 <<< 64 + 1 <<< 68 + 0x3FF <<< 78 + 1 <<< 88)
def prefE : QEntry := { id := 0, slug := prefW, tds := [(1, tdW 0x1000 0 4)] }
theorem witness_prefetch : Runs (at_ (qC .move prefE)) 0 .queued .move (qC .move prefE) (begun prefE) ∧ isMove 2 prefW = true ∧
    Untouched (qC .move prefE) 0 (begun prefE) ∧ checkPrefetch (begun prefE) = .ok (tdOf 1 0x1000 .fp32 4) ∧
    Chip.sourceLines (tdOf 1 0x1000 .fp32 4) = [0x1000] ∧ 0x1000 < hbmTop ∧ ((qC .move prefE).engine 0).sets ≠ 0 ∧
    (qC .move prefE).accessError 0 0x1000 = none ∧ (tdOf 1 0x1000 .fp32 4).barred = false ∧
    (Chip.sourceLines (tdOf 1 0x1000 .fp32 4)).all ((qC .move prefE).ownLine (tdOf 1 0x1000 .fp32 4)) = true :=
  ⟨runs_of_head _ _ _ _ rfl rfl rfl rfl (by decide) (by decide), by decide, ⟨rfl, nofun, nofun⟩, rfl, by decide, by decide, by decide, rfl, by decide, by decide⟩
/-- A PREFETCH whose BASE has upper bits. -/
theorem witness_prefetch_barred : ∃ a, checkPrefetch (begun { prefE with tds := [(1, tdW (0x1000 + 1 <<< 50) 0 4)] }) = .ok a ∧ a.barred = true :=
  ⟨_, rfl, by decide⟩

/-- MATMUL of two BF16 operands of one element in the operand buffers of engine 0, by output mode. -/
def matW (out dst : Nat) : SlugWord :=
  BitVec.ofNat 512 (1 + 1 <<< 68 + 1 <<< 72 + out <<< 81 + 1 <<< 100 + 2 <<< 110 + dst <<< 120 + 0x3FF <<< 130 + 0x3FF <<< 140)
def matE (out dst : Nat) : QEntry :=
  { id := 0, slug := matW out dst, tds := [(1, tdW (bufferOf 0) 1 1), (2, tdW (bufferOf 0 + 0x200000) 1 1), (3, tdW scratch 0 1)] }
theorem witness_matmul : ∃ p, Runs (at_ (qC .matrix (matE 0 0x3FF))) 0 .queued .matrix (qC .matrix (matE 0 0x3FF)) (begun (matE 0 0x3FF)) ∧
    isMatrix 0 (matW 0 0x3FF) = true ∧ (begun (matE 0 0x3FF)).prog = {} ∧ checkMatrix (qC .matrix (matE 0 0x3FF)) 0 (begun (matE 0 0x3FF)) = .ok [p] ∧
    p.out = 0 ∧ p.tiles = 1 ∧
    (∀ k, k < p.tiles → Reached (qC .matrix (matE 0 0x3FF)) 0 (begun (matE 0 0x3FF)) (p.tileUses 0 k)) ∧ ∀ td ∈ [p.a, p.b], ∀ i, i < td.count → ∀ b ∈ addrRange (td.addr (coordsOf td.ext i)) td.elemBytes,
      ¬ (bufferOf 0 + 0x400000 ≤ b ∧ b < bufferOf 0 + 0x500000) :=
  ⟨_, runs_of_head _ _ _ _ rfl rfl rfl rfl (by decide) (by decide), by decide, rfl, rfl, by decide, by decide, by unfold Reached; decide, by decide⟩
theorem witness_matmul_store : ∃ p d, checkMatrix (qC .matrix (matE 1 3)) 0 (begun (matE 1 3)) = .ok [p] ∧ p.out = 1 ∧ p.dst = some d ∧ p.hasMask = false ∧
    PlainWrite (qC .matrix (matE 1 3)) 0 d ∧ d.count = 1 := ⟨_, _, rfl, rfl, rfl, by decide, ⟨rfl, rfl, by decide⟩, by decide⟩
theorem witness_matmul_galley : ∃ p, checkMatrix (qC .matrix (matE 2 0x3FF)) 0 (begun (matE 2 0x3FF)) = .ok [p] ∧ p.out = 2 ∧ p.hasMask = false ∧
    Chip.galleyFree ((qC .matrix (matE 2 0x3FF)).engine 0) (begun (matE 2 0x3FF)) = true ∧
    Chip.galleyFree { galley := List.replicate 16 (abortEntry 0) } (begun (matE 2 0x3FF)) = false :=
  ⟨_, rfl, rfl, by decide, by decide, by decide⟩
theorem witness_galley_goes_on : ({ aborts := [(3, 3)] } : Engine).galley.length < 16 ∧ ({ aborts := [(3, 3)] } : Engine).tilesBefore 3 = false ∧
    (let full : Engine := { galley := List.replicate 16 (abortEntry 0) }
     16 ≤ full.galley.length ∧ full.arrayWaits = false ∧ ({ full with galleyWait := true } : Engine).arrayWaits = true ∧
       ({ full with aborts := [(3, 3)] } : Engine).arrayWaits = true ∧ ({ full with aborts := [(3, 3)] } : Engine).tilesBefore 3 = false) ∧
    (let ent : QEntry := { matE 2 0x3FF with began := true, prog := { phase := 1 } }
     let c := engC { qMatrix := [ent], galleyWait := true }
     c.readyHead 0 .matrix = some ent ∧ slugClass ent.slug = 1 ∧ ent.prog.done0 + 1 = 1 ∧ Chip.galleyFree (c.engine 0) ent = true ∧
       ∃ p, matrixProducts ent = .ok [p] ∧ p.num = 0 ∧ p.out = 2 ∧ p.tiles = 1 ∧ p.hasMask = false) :=
  ⟨by decide, by decide, by decide, by decide, by decide, by decide, by decide, _, rfl, rfl, rfl, by decide, by decide⟩

/-- MATMUL_BWD_PAIR over three BF16 operands of one element, both products left in slots 0 and 1. -/
def pairW : SlugWord := BitVec.ofNat 512 (1 + 1 <<< 64 + 1 <<< 68 + 1 <<< 72 + 1 <<< 76 + 1 <<< 107 + 1 <<< 123 + 2 <<< 133 + 3 <<< 143 +
  0x3FF <<< 153 + 0x3FF <<< 163 + 0x3FF <<< 173 + 0x3FF <<< 183)
def pairE : QEntry :=
  { id := 0, slug := pairW, tds := [(1, tdW (bufferOf 0) 1 1), (2, tdW (bufferOf 0 + 0x200000) 1 1), (3, tdW (bufferOf 0 + 64) 1 1)] }
theorem witness_matmul_pair : ∃ p q, isMatrix 1 pairW = true ∧ checkMatrix (qC .matrix pairE) 0 (begun pairE) = .ok [p, q] ∧ p.out = 0 ∧ q.out = 0 ∧
    (qC .matrix pairE).readyHead 0 .matrix = some pairE := ⟨_, _, by decide, rfl, rfl, rfl, by decide⟩

/-! ### Witnesses: vector slugs and fused kernels -/

/-- A vector slug of an operation over TDs 1 and 2 into TD 3, or a reduction of TD 1 along dimension 0 into register 5. -/
def vecW (op : Nat) : SlugWord :=
  BitVec.ofNat 512 (2 + op <<< 64 + 1 <<< 117 + 2 <<< 127 + 3 <<< 148 + 0x3FF <<< 158 + 0x3FF <<< 168 + 7 <<< 178)
def redW (op : Nat) : SlugWord :=
  BitVec.ofNat 512 (2 + op <<< 64 + 1 <<< 117 + 2 <<< 127 + 1 <<< 147 + 5 <<< 148 + 0x3FF <<< 158 + 0x3FF <<< 168)
def vecE (w : SlugWord) : QEntry :=
  { id := 0, slug := w, tds := [(1, tdW scratch 0 4), (2, tdW (scratch + 64) 0 4), (3, tdW (scratch + 128) 0 4)] }
theorem witness_elementwise : ∃ v d, Runs (at_ (qC .vector (vecE (vecW 2)))) 0 .queued .vector (qC .vector (vecE (vecW 2))) (begun (vecE (vecW 2))) ∧
    slugClass (vecW 2) = 2 ∧ checkVector none ((qC .vector (vecE (vecW 2))).engine 0) (begun (vecE (vecW 2))) = .ok v ∧ v.op = .add ∧
    v.op.isReduction = false ∧ v.usesGalley = false ∧
    (∀ i, i < 4 → Reached (qC .vector (vecE (vecW 2))) 0 (begun (vecE (vecW 2))) ((begun (vecE (vecW 2))).vecUsesAt 0 d i)) ∧ regUe ((qC .vector (vecE (vecW 2))).engine 0) (vecW 2) v.op v.chain = false ∧ v.dst = some d ∧
    (∀ td ∈ v.tdSrcs ++ v.mask.toList, PlainRead (qC .vector (vecE (vecW 2))) 0 td) ∧ PlainWrite (qC .vector (vecE (vecW 2))) 0 d :=
  ⟨_, _, runs_of_head _ _ _ _ rfl rfl rfl rfl (by decide) (by decide), by decide, rfl, rfl, rfl, rfl, by unfold Reached; decide, by decide, rfl,
    by unfold PlainRead; decide, by unfold PlainWrite; decide⟩
/-- The walk of the elements faults nowhere. -/
theorem witness_elementwise_walk : ∃ v d rs c2 good, checkVector none ((qC .vector (vecE (vecW 2))).engine 0) (begun (vecE (vecW 2))) = .ok v ∧ v.dst = some d ∧
    Chip.vecElems 0 (begun (vecE (vecW 2))) v v.fixedInt d v.keepMask ((List.range d.count).map fun i => (i, coordsOf d.ext i, CVal.f 0))
      (qC .vector (vecE (vecW 2))) = (rs, c2) ∧ Chip.goodPrefix rs = (good, none) := ⟨_, _, _, _, _, rfl, rfl, rfl, rfl⟩
theorem witness_reduction : ∃ v a, checkVector none ((qC .vector (vecE (redW 0x40))).engine 0) (begun (vecE (redW 0x40))) = .ok v ∧ v.op = .redSum ∧
    v.op.isReduction = true ∧ regUe ((qC .vector (vecE (redW 0x40))).engine 0) (redW 0x40) v.op v.chain = false ∧ v.srcs.head? = some (.td a) ∧
    (((qC .vector (vecE (redW 0x40))).engine 0).vregs.map (·.1)).Pairwise (· < ·) ∧ v.regDst = some 5 ∧ v.mask = none ∧ v.fromDst = false ∧
    (∀ td ∈ v.tdSrcs, PlainRead (qC .vector (vecE (redW 0x40))) 0 td) :=
  ⟨_, _, rfl, rfl, rfl, by decide, rfl, by decide, rfl, rfl, by decide,
    by unfold PlainRead; decide⟩
/-- A consumer of product 0 of producer 7, and the entry of one tile. -/
def galW : SlugWord := BitVec.ofNat 512 (2 + 1 <<< 64 + 3 <<< 111 + 3 <<< 148 + 0x3FF <<< 158 + 0x3FF <<< 168 + 7 <<< 178 + 7 <<< 183 + 1 <<< 199)
def tile7 : GEntry :=
  { seq := 7, product := 0, row := 0, col := 0, vrows := 1, vcols := 1, rmask := 1, cmask := 1, int := false, last := true, abort := false, vals := [] }
def galC : Chip := engC { qVector := [vecE galW], galley := [tile7] }
theorem witness_galley_consumed : ∃ v d rs c2 good, Runs (at_ galC) 0 .queued .vector galC (begun (vecE galW)) ∧
    checkVector none (galC.engine 0) (begun (vecE galW)) = .ok v ∧ v.usesGalley = true ∧ v.op.isReduction = false ∧ (galC.engine 0).galley = [tile7] ∧
    tile7.seq.toNat = v.seq ∧ bit (BitVec.ofNat 2 v.prods) tile7.product = true ∧ v.takes tile7 = true ∧ v.prodDst tile7.product = some d ∧
    regUe (galC.engine 0) galW v.op v.chain = false ∧
    Chip.vecElems 0 (begun (vecE galW)) v (v.entryInt tile7) d (if tile7.product = 0 then v.keepMask else none) (Chip.tilePositions tile7 d) galC = (rs, c2) ∧ Chip.goodPrefix rs = (good, none) :=
  ⟨_, _, _, _, _, runs_of_head _ _ _ _ rfl rfl rfl rfl (by decide) (by decide), rfl, rfl, rfl, rfl, by decide, by decide, by decide, rfl, by decide, rfl, rfl⟩
theorem witness_galley_aborts : (abortEntry 7).abort = true ∧ (abortEntry 7).seq = 7 := ⟨rfl, rfl⟩
theorem witness_words : 32 ≤ (200#32).toNat % 256 ∧ (f32 0x7FC00001).isNaN = true ∧ (f32 0x3F800000).isNaN = false := by decide

/-- SOFTMAX_FWD of one row of four elements, its statistics in TD 3. -/
def softW : SlugWord := BitVec.ofNat 512 (3 + 4 <<< 64 + 1 <<< 68 + 0x3FF <<< 78 + 0x3FF <<< 88 + 0x3FF <<< 98 + 2 <<< 108 + 3 <<< 118 + 0x3FF <<< 128 +
  0x3FF <<< 138 + 1 <<< 154 + 0x3F800000 <<< 192)
def softE : QEntry := { id := 0, slug := softW, tds := [(1, tdW scratch 0 4), (2, tdW (scratch + 64) 0 4), (3, tdW (scratch + 128) 0 2)] }
theorem witness_fused : ∃ f d, Runs (at_ (qC .vector softE)) 0 .queued .vector (qC .vector softE) (begun softE) ∧ slugClass softW = 3 ∧
    checkFused none (begun softE) = .ok f ∧ f.kern = .softmaxFwd ∧ f.kern.isMm = false ∧ f.rows = 1 ∧ f.mask = none ∧ f.causal = false ∧ f.out 0 = some d ∧
    (∀ td ∈ f.ins, PlainRead (qC .vector softE) 0 td) ∧ (∀ td ∈ f.outs, PlainWrite (qC .vector softE) 0 td) :=
  ⟨_, _, runs_of_head _ _ _ _ rfl rfl rfl rfl (by decide) (by decide), by decide, rfl, rfl, rfl, by decide, rfl, rfl, rfl,
    by unfold PlainRead; decide, by unfold PlainWrite; decide⟩

/-- Its one row meets no fault. -/
theorem witness_fused_rows : ∃ f rows c2, checkFused none (begun softE) = .ok f ∧ f.kern.isMm = false ∧
    Chip.fusedRows 0 (begun softE) f (List.range f.rows) [] ((qC .vector softE).addSteps 0 ((f.n + 127) / 128 * f.rows * f.cost)) = (none, rows, c2) ∧
    rows.any (·.range) = false := ⟨_, _, _, rfl, by decide, rfl, by decide⟩
/-- A kernel over input TDs 1 to 4 and output TDs 5 to 7, of one row of one element. -/
def kernW (op nin nout : Nat) : SlugWord :=
  let ref (n i r : Nat) : Nat := if i < n then r else 0x3FF
  BitVec.ofNat 512 (3 + op <<< 64 + (ref nin 0 1) <<< 68 + (ref nin 1 2) <<< 78 + (ref nin 2 3) <<< 88 + (ref nin 3 4) <<< 98 +
    (ref nout 0 5) <<< 108 + (ref nout 1 6) <<< 118 + (ref nout 2 7) <<< 128 + 0x3FF <<< 138 + 1 <<< 154 + 0x3F800000 <<< 192 + 0x3F800000 <<< 224)
def kernE (op nin nout stats lbl : Nat) : QEntry :=
  { id := 0, slug := kernW op nin nout, tds := [(1, tdW scratch 0 1), (2, tdW (scratch + 64) lbl 1), (3, tdW (scratch + 128) 0 1),
      (4, tdW (scratch + 192) 0 stats), (5, tdW (scratch + 256) 0 1), (6, tdW (scratch + 320) 0 1), (7, tdW (scratch + 384) 0 1)] }
/-- The rows of a kernel, without a fault. -/
def KernRows (ent : QEntry) (k : Kernel) (f : FSlug) (rows : List RowOut) (c2 : Chip) : Prop :=
  checkFused none (begun ent) = .ok f ∧ f.kern = k ∧ rows.any (·.range) = false ∧
  Chip.fusedRows 0 (begun ent) f (List.range f.rows) [] ((qC .vector ent).addSteps 0 ((f.n + 127) / 128 * f.rows * f.cost)) = (none, rows, c2)
theorem witness_rmsnorm_bwd : ∃ f rows c2 dg c3, KernRows (kernE 3 4 2 1 0) .rmsnormBwd f rows c2 ∧ f.out 1 = some dg ∧
    c2.columnOut 0 (begun (kernE 3 4 2 1 0)) f dg (rows.map (·.prod)) = (none, c3) := ⟨_, _, _, _, _, ⟨rfl, rfl, by decide, rfl⟩, rfl, rfl⟩
theorem witness_layernorm_bwd : ∃ f rows c2 dg db c3 c4, KernRows (kernE 1 4 3 2 0) .layernormBwd f rows c2 ∧ f.out 1 = some dg ∧ f.out 2 = some db ∧
    c2.columnOut 0 (begun (kernE 1 4 3 2 0)) f dg (rows.map (·.prod)) = (none, c3) ∧
    c3.columnOut 0 (begun (kernE 1 4 3 2 0)) f db (rows.map (·.dy)) = (none, c4) :=
  ⟨_, _, _, _, _, _, _, ⟨rfl, rfl, by decide, rfl⟩, rfl, rfl, rfl, rfl⟩
theorem witness_xent : ∃ f rows c2 dl, KernRows (kernE 8 2 3 1 7) .xent f rows c2 ∧ f.out 2 = some dl ∧ PlainWrite c2 0 dl :=
  ⟨_, _, _, _, ⟨rfl, rfl, by decide, rfl⟩, rfl, rfl, rfl, by decide⟩
theorem witness_galley_kernel : ∃ f, checkFused none (begun (kernE 7 1 1 1 0)) = .ok f ∧ f.kern.isMm = true := ⟨_, rfl, by decide⟩

/-! ### Witnesses: the control core and completions -/

/-- Engine 0 with one slug at the front of its stream. -/
def streamC (w : SlugWord) : Chip := engC { stream := [{ slug := w }] }
theorem takes_core (w : SlugWord) (c1 c2 : Chip) (q0 : QEntry) (h1 : c1 = (streamC w).pumpE 0) (h2 : (c1.engine 0).stream = [{ slug := w }])
    (h3 : c1.admits 0 = true) (h4 : (c1.popStream 0).makeEntry 0 { slug := w } = (q0, c2)) (h5 : c2.sessionError q0 = none) :
    TakesCore (at_ (streamC w)) 0 .queued c2 { slug := w } { q0 with began := true } := ⟨rfl, rfl, c1, [], q0, h1, h2, h3, h4, h5, rfl⟩

/-- NOP; TD_LOAD of one TD from 0x1000; LIST of one slug there; CRING_SET at 0x2000. -/
def nopW : SlugWord := 9
def tdLoadW : SlugWord := BitVec.ofNat 512 (9 + 1 <<< 64 + 5 <<< 68 + 1 <<< 78 + 0x1000 <<< 128)
def listW : SlugWord := BitVec.ofNat 512 (9 + 3 <<< 64 + 0x1000 <<< 128 + 1 <<< 192)
def cringW : SlugWord := BitVec.ofNat 512 (9 + 4 <<< 64 + 0x2000 <<< 128 + 4 <<< 192)
theorem witness_nop : ∃ c2 ent, TakesCore (at_ (streamC nopW)) 0 .queued c2 { slug := nopW } ent ∧ slugClass nopW = 9 ∧ Chip.checkControl ent.slug = .ok () ∧
    slugOp ent.slug = 0 := ⟨_, _, takes_core nopW _ _ _ rfl rfl (by decide) rfl (by decide), by decide, rfl, by decide⟩
theorem witness_td_load : ∃ c2 ent bs c3, TakesCore (at_ (streamC tdLoadW)) 0 .queued c2 { slug := tdLoadW } ent ∧ slugClass tdLoadW = 9 ∧
    Chip.checkControl ent.slug = .ok () ∧ slugOp ent.slug = 1 ∧
    c2.coreRead 0 ent (fld ent.slug 89 88) (fld ent.slug 191 128) (64 * fld ent.slug 87 78) = (.ok (some bs), c3) :=
  ⟨_, _, _, _, takes_core tdLoadW _ _ _ rfl rfl (by decide) rfl (by decide), by decide, rfl, by decide, rfl⟩
theorem witness_list : ∃ c2 ent bs c3, TakesCore (at_ (streamC listW)) 0 .queued c2 { slug := listW } ent ∧ Chip.checkControl ent.slug = .ok () ∧
    slugOp ent.slug = 3 ∧ Chip.tooDeep ent = false ∧
    c2.coreRead 0 ent (fld ent.slug 89 88) (fld ent.slug 191 128) (64 * fld ent.slug 223 192) = (.ok (some bs), c3) :=
  ⟨_, _, _, _, takes_core listW _ _ _ rfl rfl (by decide) rfl (by decide), rfl, by decide, by decide, rfl⟩
theorem witness_cring_set : ∃ c2 ent c3, TakesCore (at_ (streamC cringW)) 0 .queued c2 { slug := cringW } ent ∧ Chip.checkControl ent.slug = .ok () ∧
    slugOp ent.slug = 4 ∧ 8 ≤ fld ent.slug 191 128 ∧
    c2.writeLocal 0 (some 0) (Chip.cellsAt (fld ent.slug 191 128 - 8) (toBytes 8 0)) = .ok c3 :=
  ⟨_, _, _, takes_core cringW _ _ _ rfl rfl (by decide) rfl (by decide), rfl, by decide, by decide, rfl⟩

/-- QUOIN of all earlier slugs with a flag of 7 at 0x1000, and WAIT for at least 0 there, its timeout 5. -/
def quoinW (flag : Nat) : SlugWord := BitVec.ofNat 512 (4 + flag <<< 71 + 0x1000 <<< 128 + 7 <<< 192)
def waitW (limit : Nat) : SlugWord := BitVec.ofNat 512 (4 + 1 <<< 64 + 5 <<< 80 + 0x1000 <<< 128 + limit <<< 192)
def heldE (w : SlugWord) : QEntry := { id := 0, slug := w, began := true }
theorem witness_quoin_begins : ∃ c2 ent, TakesCore (at_ (streamC (quoinW 1))) 0 .queued c2 { slug := quoinW 1 } ent ∧ slugClass (quoinW 1) = 4 ∧
    Chip.checkQuoin ent.slug = .ok () ∧ slugOp ent.slug = 0 :=
  ⟨_, _, takes_core (quoinW 1) _ _ _ rfl rfl (by decide) rfl (by decide), by decide, rfl, by decide⟩
theorem witness_wait_begins : ∃ c2 ent, TakesCore (at_ (streamC (waitW 1))) 0 .queued c2 { slug := waitW 1 } ent ∧ slugClass (waitW 1) = 4 ∧
    Chip.checkQuoin ent.slug = .ok () ∧ slugOp ent.slug = 1 :=
  ⟨_, _, takes_core (waitW 1) _ _ _ rfl rfl (by decide) rfl (by decide), by decide, rfl, by decide⟩
theorem witness_quoin_completes :
    let c := engC { core := some (heldE (quoinW 1)) }
    c.engines.length = 64 ∧ (c.engine 0).core = some (heldE (quoinW 1)) ∧ slugOp (quoinW 1) = 0 ∧ c.sessionError (heldE (quoinW 1)) = none ∧
    (c.engine 0).earlierRuns 0 = false ∧ fld (quoinW 1) 70 68 ≠ 5 ∧ bit (quoinW 0) 71 = false ∧ bit (quoinW 1) 71 = true ∧ fld (quoinW 1) 73 72 = 0 ∧
    (∀ b ∈ addrRange (fld (quoinW 1) 191 128) 8, c.accessError 0 b = none) ∧
    ({ qMove := [{ id := 0, slug := 0 }] } : Engine).earlierRuns 1 = true := by decide
theorem witness_wait_ends :
    let c := engC { core := some (heldE (waitW 0)) }
    (c.engine 0).core = some (heldE (waitW 0)) ∧ slugOp (waitW 0) = 1 ∧ (∀ b ∈ addrRange (fld (waitW 0) 191 128) 8, c.accessError 0 b = none) ∧
    bit (waitW 0) 74 = false ∧ fld (waitW 0) 255 192 ≤ c.seenWord 0x1000 8 ∧ ¬ fld (waitW 1) 255 192 ≤ c.seenWord 0x1000 8 ∧
    fld (waitW 1) 95 80 ≠ 0 := by decide

theorem witness_call_part :
    let p : CallPart := { leader := 1, id := 0, entry := heldE nopW, items := [{ slug := nopW }] }
    let c := engC { callParts := [p] }
    c.formesUp = true ∧ (c.engine 0).callParts = [p] ∧ c.admits 0 = true := by decide

/-- A NOP that has ended with SUCCESS, its record asked for, and one that met a fault. -/
def cmplF : Finish := { entry := { id := 0, slug := BitVec.ofNat 512 (9 + 1 <<< 55) }, status := .success }
def faultF (mute : Bool) : Finish := { entry := { id := 0, slug := 9, mute }, status := .addrUnmapped }
def ringAt : CRing := { base := 0x2000, log2 := 4, dflt := false }
theorem witness_completion :
    let c := engC { finishing := [cmplF], cring := ringAt }
    c.engines.length = 64 ∧ (c.engine 0).finishing = [cmplF] ∧ cmplF.entry.call = none ∧ cmplF.status = .success ∧ slugCmpl cmplF.entry.slug = true ∧
    cmplF.entry.mute = false ∧ cmplF.entry.ring = false ∧ ringAt.broken = false ∧ ringAt.head - ringAt.seen < 2 ^ ringAt.log2 ∧
    (∀ b ∈ addrRange (ringAt.base + 16 * (ringAt.head % 2 ^ ringAt.log2)) 16, c.accessError 0 b = none) ∧
    slugCmpl (faultF true).entry.slug = false := by decide
theorem witness_full_ring : 2 ^ ringAt.log2 ≤ ({ ringAt with head := 16 } : CRing).head - ringAt.seen ∧
    ∃ n, upC.readConsumed 0 { ringAt with head := 16 } = .ok n ∧ 2 ^ ringAt.log2 ≤ 16 - n := ⟨by decide, _, rfl, by decide⟩
theorem witness_host_completion :
    let f : Finish := { cmplF with entry := { cmplF.entry with ring := true, session := 1 } }
    let c := { ringC with host := { ringC.host with inForce := true, session := 1 }, engines := { ring := some ring0, finishing := [f] } :: List.replicate 63 {} }
    (c.engine 0).finishing = [f] ∧ f.entry.ring = true ∧ (c.engine 0).ring = some ring0 ∧ c.host.inForce = true ∧ f.entry.session = c.host.session ∧
    c.hostAvail = true ∧ (ring0.cqWritten - ring0.cqConsumed).toNat ≠ 2 ^ ring0.cqLog2 := by decide
theorem witness_fault_completion :
    (faultF true).status ≠ .success ∧ (faultF true).entry.mute = true ∧ slugContinue (faultF true).entry.slug = false ∧ upC.episodes = [] ∧
    (faultF false).entry.mute = false ∧ (faultF false).entry.ring = false ∧ upC.ue = [] ∧ (upC.engine 0).ring = none := by decide

/-- CALL of XENT over TDs 1 to 5 on one engine. -/
def callW : SlugWord := BitVec.ofNat 512 (9 + 2 <<< 64 + 0x30 <<< 68 + 1 <<< 84 + 1 <<< 96 + 2 <<< 106 + 3 <<< 116 + 4 <<< 126 + 5 <<< 136 + 0x3FF <<< 146 + 0x3FF <<< 156 + 0x3FF <<< 166)
def callC : Chip := engC { stream := [{ slug := callW }], tds := [1, 2, 3, 4, 5].map fun i => (i, tdW (scratch + 64 * i) 0 4) }
theorem witness_call : ∃ c1 c2 q0 blocks, c1 = callC.pumpE 0 ∧ (c1.engine 0).stream = [{ slug := callW }] ∧ c1.admits 0 = true ∧
    (c1.popStream 0).makeEntry 0 { slug := callW } = (q0, c2) ∧ c2.sessionError q0 = none ∧ isCall .xent callW = true ∧
    Chip.checkControl callW = .ok () ∧ fld callW 91 84 = 1 ∧ Chip.tooDeep q0 = false ∧ expandCall .xent { q0 with began := true } = .ok blocks :=
  ⟨_, _, _, _, rfl, rfl, by decide, rfl, by decide, by decide, rfl, by decide, by decide, rfl⟩

/-- A device with one request of engine 0 outstanding. -/
def farC (op : Nat) : Chip :=
  { upC with fab := { reqs := [{ txn := 1, engine := if op = opInval then Chip.fabUnit else 0, entry := 0, thdr := BitVec.ofNat 256 op, payload := [], orphan := true }] } }
/-- A QUOIN whose earlier slug left a WRITE unanswered, or whose device's INVAL waits for its RESPONSE; and one in HOST scope. -/
theorem witness_quoin_scopes : (farC opWrite).farPending 0 1 = true ∧ (farC opInval).farPending 0 1 = true ∧ upC.farPending 0 1 = false ∧
    fld (BitVec.ofNat 512 (4 + 5 <<< 68)) 70 68 = 5 ∧ bit (BitVec.ofNat 512 (4 + 5 <<< 68)) 71 = false ∧ 3 ≤ fld (BitVec.ofNat 512 (4 + 3 <<< 68)) 70 68 ∧
    hostC.hostAvail = true ∧ upC.hostAvail = false ∧ fld (quoinW 1) 70 68 < 3 := by decide
/-- Behind a record that waits, one that needs a record too, and one that needs none. -/
theorem witness_full_ring_rest :
    let g : Finish := { cmplF with entry := { cmplF.entry with id := 1 } }
    let h : Finish := { entry := { id := 1, slug := 9 }, status := .success }
    g.needsRecord = true ∧ g.entry.ring = false ∧ h.status = .success ∧ slugCmpl h.entry.slug = false ∧ h.entry.call = none ∧ h.entry.id ≠ cmplF.entry.id := by decide

/-! ### Witnesses: FABRIC slugs -/

/-- Device 5 with one slug in the FABRIC queue of engine 0, and a group descriptor of that device alone at 0x4000. -/
def fabC (ent : QEntry) : Chip :=
  { engC { qFabric := [ent] } with
    fab := { idValid := true, deviceId := 5, routes := [(6, 0x20)], ports := { state := .up, masked := false } :: List.replicate 15 {} }
    mem := { cells := [(0x4000, 1), (0x4004, 3), (0x4040, 5)] } }
/-- A BROADSHEET TD at a LOCAL address of a device. -/
def bsW (dev a fmt n : Nat) : TDWord := tdW (dev <<< 48 + a) fmt n + BitVec.ofNat 512 (1 <<< 123)
def nulls (l : List Nat) : Nat := (l.map fun b => 0x3FF <<< b).sum
def fabE (w : Nat) (tds : Tab TDWord) : QEntry := { id := 1, slug := BitVec.ofNat 512 (5 + w), tds }

/-- PUT of four FP32 elements to 0x8000 of a device. -/
def putE (dev : Nat) : QEntry := fabE (1 <<< 68 + 2 <<< 78 + nulls [88, 98]) [(1, tdW scratch 0 4), (2, bsW dev 0x8000 0 4)]
theorem witness_put_own : ∃ a d x, Runs (at_ (fabC (putE 5))) 0 .queued .fabric (fabC (putE 5)) (begun (putE 5)) ∧ slugClass (putE 5).slug = 5 ∧
    checkFabric (begun (putE 5)) = .ok (some a, d, x) ∧ slugOp (putE 5).slug = 0 ∧ Untouched (fabC (putE 5)) 0 (begun (putE 5)) ∧
    FabReads (fabC (putE 5)) 0 a ∧ fabNotify (putE 5).slug = false ∧ fabFlagEn (putE 5).slug = false ∧ fabRole (putE 5).slug = false ∧ d.fmt ≠ .int4 ∧
    (∀ i, i < d.count → ∀ b ∈ addrRange (d.addr (coordsOf d.ext i)) d.elemBytes, b >>> 48 = (fabC (putE 5)).fab.deviceId ∧
      (fabC (putE 5)).broadsheetOk (b % 2 ^ 48) = true ∧ (fabC (putE 5)).accessError 0 (b % 2 ^ 48) = none) :=
  ⟨_, _, _, runs_of_head _ _ _ _ rfl rfl rfl rfl (by decide) (by decide), by decide, rfl, by decide, ⟨rfl, nofun, nofun⟩, ⟨rfl, by decide⟩, by decide,
    by decide, by decide, by decide, by decide⟩
theorem witness_put_far : ∃ a d x c2, checkFabric (begun (putE 6)) = .ok (some a, d, x) ∧
    (fabC (putE 6)).fabPutCells 0 1 1 (fabRole (putE 6).slug) (Chip.cellsOf (fun _ => 0)
      (Chip.fabConvert (begun (putE 6)) a d ((List.range a.count).map (rawElem (fabC (putE 6)) a)))) = .ok c2 := ⟨_, _, _, _, rfl, rfl⟩
theorem witness_put_flag :
    let w := BitVec.ofNat 512 (1 <<< 113 + 0x9000 <<< 320)
    let n := BitVec.ofNat 512 (1 <<< 112 + (5 <<< 48 + 0x9000) <<< 128)
    fabFlagEn w = true ∧ fabNotify w = false ∧ (∀ b ∈ addrRange (fabFlagAddr w) 8, upC.accessError 0 b = none) ∧ fabNotify n = true ∧
    fabOp0 n % 2 ^ 48 + 8 ≤ 2 ^ 48 ∧ ∀ b ∈ addrRange (fabOp0 n % 2 ^ 48) 8, upC.broadsheetOk b = true ∧ upC.accessError 0 b = none := by decide
/-- GET of four elements from 0x8000 of a device. -/
def getE (dev : Nat) : QEntry := fabE (1 <<< 64 + 1 <<< 68 + 2 <<< 78 + nulls [88, 98]) [(1, bsW dev 0x8000 0 4), (2, tdW scratch 0 4)]
theorem witness_get_own : ∃ a d x ent1 c2 got, checkFabric (begun (getE 5)) = .ok (some a, d, x) ∧ slugOp (getE 5).slug = 1 ∧
    (fabC (getE 5)).absorb 0 (begun (getE 5)) = (ent1, none, c2) ∧
    c2.fabOwnBytes 0 (fabRole (getE 5).slug) (sortAddrs (a.addrs.flatMap fun x => addrRange x a.elemBytes)) ent1.prog.gotB = .ok got ∧
    ((sortAddrs (a.addrs.flatMap fun x => addrRange x a.elemBytes)).all fun b => (cellAt b got).isSome) = true :=
  ⟨_, _, _, _, _, _, rfl, by decide, rfl, rfl, by decide⟩
theorem witness_get_far : ∃ a d x ent1 c2 got, checkFabric (begun (getE 6)) = .ok (some a, d, x) ∧
    (fabC (getE 6)).absorb 0 (begun (getE 6)) = (ent1, none, c2) ∧
    c2.fabOwnBytes 0 (fabRole (getE 6).slug) (sortAddrs (a.addrs.flatMap fun x => addrRange x a.elemBytes)) ent1.prog.gotB = .ok got ∧
    ((sortAddrs (a.addrs.flatMap fun x => addrRange x a.elemBytes)).all fun b => (cellAt b got).isSome) = false :=
  ⟨_, _, _, _, _, _, rfl, rfl, rfl, by decide⟩
/-- An atomic of one FP32 word at 0x8000 of a device, its old value wanted at TD 3. -/
def atomE (dev : Nat) : QEntry := fabE (2 <<< 64 + 0x3FF <<< 68 + 2 <<< 78 + 3 <<< 88 + nulls [98] + 1 <<< 128) [(2, bsW dev 0x8000 7 1), (3, tdW scratch 7 1)]
theorem witness_atomic : ∃ d y, checkFabric (begun (atomE 5)) = .ok (none, d, some y) ∧ slugOp (atomE 5).slug = 2 ∧ d.count = 1 ∧ y.count = 1 ∧
    fabRole (atomE 5).slug = false ∧ wordAddr d (Chip.atomicSize (fabAtype (atomE 5).slug)) 0 >>> 48 = 5 ∧
    (∀ i ∈ addrRange (wordAddr d (Chip.atomicSize (fabAtype (atomE 5).slug)) 0 % 2 ^ 48) (Chip.atomicSize (fabAtype (atomE 5).slug)),
      (fabC (atomE 5)).broadsheetOk i = true ∧ (fabC (atomE 5)).accessError 0 i = none) ∧
    (∀ i ∈ addrRange (wordAddr y (Chip.atomicSize (fabAtype (atomE 5).slug)) 0) (Chip.atomicSize (fabAtype (atomE 5).slug)),
      (fabC (atomE 5)).accessError 0 i = none) := ⟨_, _, rfl, by decide, by decide, by decide, by decide, by decide, by decide, by decide⟩
theorem witness_atomic_far : ∃ d y k bad c2, checkFabric (begun (atomE 6)) = .ok (none, d, some y) ∧ (begun (atomE 6)).prog.drain = none ∧
    Chip.atomIssue 0 (begun (atomE 6)) none d d.count 0 (fabC (atomE 6)) = (k, bad, c2) ∧ c2.fabWaiting 0 1 = true :=
  ⟨_, _, _, _, _, rfl, rfl, rfl, by decide⟩
/-- An atomic whose operand TD is unmapped, and one whose word has been answered, neither with an old value wanted. -/
def atomNE : QEntry := fabE (2 <<< 64 + 1 <<< 68 + 2 <<< 78 + nulls [88, 98]) [(1, tdW (1 <<< 46) 7 1), (2, bsW 5 0x8000 7 1)]
theorem witness_atomic_bad_operand : ∃ a d k st c2, checkFabric (begun atomNE) = .ok (some a, d, none) ∧
    Chip.atomIssue 0 (begun atomNE) (some a) d d.count 0 (fabC atomNE) = (k, some st, c2) ∧ c2.fabWaiting 0 1 = false :=
  ⟨_, _, _, _, _, rfl, rfl, by decide⟩
theorem witness_atomic_answered :
    let ent := { begun atomNE with prog := { done0 := 1 } }
    let c := { fabC ent with fab := { (fabC ent).fab with reqs := [{ txn := 1, engine := 0, entry := 1, key := Chip.atomKey 0, thdr := BitVec.ofNat 256 opAtomic, payload := [], answer := some (.success, []) }] } }
    ent.prog.drain = none ∧ fabFlagEn ent.slug = false ∧ c.fabWaiting 0 ent.id = false ∧
    (c.fab.reqs.find? (fun r => r.engine == 0 && r.entry == ent.id && r.key == Chip.atomKey 0)).any (fun r => r.answer == some (.success, [])) = true := by decide
/-- MGMT_SEND of the 64 bytes at 0x8000, its response wanted at the scratch. -/
def sendE : QEntry := fabE (7 <<< 64 + 1 <<< 68 + 2 <<< 78 + nulls [88, 98]) [(1, tdW 0x8000 5 64), (2, tdW scratch 5 64)]
theorem witness_mgmt_send : ∃ a d, Runs (at_ (fabC sendE)) 0 .queued .fabric (fabC sendE) (begun sendE) ∧ slugOp sendE.slug = 7 ∧
    Chip.checkMgmt (begun sendE) = .ok (a, d) ∧ sendE.prog.phase = 0 ∧ ∀ b ∈ addrRange a.base 64, (fabC sendE).accessError 0 b = none :=
  ⟨_, _, runs_of_head _ _ _ _ rfl rfl rfl rfl (by decide) (by decide), by decide, rfl, rfl, by decide⟩
/-- REDUCE_SCATTER of four FP32 elements in a group of one, its staging in HBM. -/
def collE : QEntry := fabE (4 <<< 64 + 1 <<< 68 + 2 <<< 78 + 3 <<< 88 + nulls [98] + 0x4000 <<< 256)
  [(1, tdW scratch 0 4), (2, tdW (scratch + 64) 0 4), (3, tdW 0x100000 5 0x100000)]
theorem witness_collective_begins : ∃ a d x g, Runs (at_ (fabC collE)) 0 .queued .fabric (fabC collE) (begun collE) ∧ slugOp collE.slug = 4 ∧
    checkColl (begun collE) = .ok (a, d, x) ∧ (fabC collE).readGroup 0 collE.slug = .ok g ∧ collShape (slugOp collE.slug) g a d = .ok () ∧
    (g.members.any (fabC collE).unreachable) = false ∧ FabReads (fabC collE) 0 a :=
  ⟨_, _, _, _, runs_of_head _ _ _ _ rfl rfl rfl rfl (by decide) (by decide), by decide, rfl, rfl, rfl, by decide, ⟨rfl, by decide⟩⟩
theorem witness_collective_completes :
    let k : Coll := { coll0 with members := [5], elems := 1, led := 1, gsums := [(0, encodeSum .zero)] }
    k.contribs = [] ∧ k.led = ledCount k.members.length k.elems k.rank ∧ k.stage = 0 ∧ Chip.ownReady k = true ∧
    (shardOf k.members.length k.elems k.rank).length = 1 ∧
    (let ent := { begun collE with prog := { phase := 1 } }
     let c := { fabC ent with fab := { (fabC ent).fab with colls := [k] } }
     c.collOf 0 ent.id = some k ∧ c.callEntry 0 ent.id = some ent ∧ c.fabWaiting 0 ent.id = false ∧ c.fabAnswers 0 ent.id = []) := by decide
/-- COMBINE over no role of this device in the same group. -/
def combE : QEntry := fabE (3 <<< 64 + 1 <<< 68 + 0x3FF <<< 78 + nulls [88, 98] + 1 <<< 114 + 0x4000 <<< 256 + 1 <<< 448 + 9 <<< 464 + 1 <<< 480)
  [(1, tdW scratch 0 4 + BitVec.ofNat 512 (1 <<< 120))]
/-- The chip once the call of an all-to-all has been counted, and its record. -/
def a2aBegun (q : QEntry) (t0 : A2ATds) (g : Group) : Chip × A2A :=
  let count := Tab.get 0 (fabC q).fab.calls g.tag
  let k : A2A := { engine := 0, entry := 1, combine := fabCombine q.slug, members := g.members, rank := g.rank, tag := g.tag, count,
                   sig := Chip.a2aSig g q.slug t0.src.fmt (rowLen t0.src.fmt (t0.src.ext.headD 0)), first := fabFirst q.slug, roles := fabRoles q.slug }
  ((fabC q).onFab fun f => { f with calls := Tab.set g.tag (count + 1) f.calls, a2as := f.a2as ++ [k] }, k)
theorem witness_all_to_all_begins : ∃ t0 g rows c2, Runs (at_ (fabC combE)) 0 .queued .fabric (fabC combE) (begun combE) ∧ slugOp combE.slug = 3 ∧
    checkA2A (begun combE) = .ok t0 ∧ (fabC combE).readGroup 0 combE.slug = .ok g ∧ (g.members.any (fabC combE).unreachable) = false ∧
    fabCombine combE.slug = true ∧ 
    (a2aBegun combE t0 g).1.combineRows 0 combE.slug t0 g = .ok rows ∧ (a2aBegun combE t0 g).1.combineSend 0 (a2aBegun combE t0 g).2 t0 g rows = .ok c2 :=
  ⟨_, _, _, _, runs_of_head _ _ _ _ rfl rfl rfl rfl (by decide) (by decide), by decide, rfl, rfl, by decide, by decide, rfl, rfl⟩
theorem witness_all_to_all_completes :
    let k : A2A := { engine := 0, entry := 1, sig := 0, combine := true, members := [5], rank := 0, tag := 3, count := 0, first := 9, roles := 1, marks := [(9, 0)] }
    let ent := { begun combE with prog := { phase := 2 } }
    let c := { fabC ent with fab := { (fabC ent).fab with a2as := [k] } }
    c.a2aOf 0 ent.id = some k ∧ c.marksDone k = true ∧ fabFlagEn ent.slug = false ∧ c.fabWaiting 0 ent.id = false ∧ c.fabAnswers 0 ent.id = [] := by decide
/-- DISPATCH of one row to role 0, which no device has, in the same group. -/
def dispE : QEntry := fabE (3 <<< 64 + 1 <<< 68 + 2 <<< 78 + 3 <<< 98 + nulls [88] + 0x4000 <<< 256 + 1 <<< 448 + 1 <<< 480)
  [(1, tdW scratch 0 4 + BitVec.ofNat 512 (1 <<< 120)), (2, tdW (scratch + 64) 0 4 + BitVec.ofNat 512 (1 <<< 120)),
   (3, tdW (scratch + 128) 7 1 + BitVec.ofNat 512 (1 <<< 120))]
theorem witness_dispatch_begins : ∃ t0 g ix w c2, checkA2A (begun dispE) = .ok t0 ∧ (fabC dispE).readGroup 0 dispE.slug = .ok g ∧ fabCombine dispE.slug = false ∧
    t0.idx = some ix ∧ (a2aBegun dispE t0 g).1.readIndex 0 dispE.slug ix = .ok w ∧
    (a2aBegun dispE t0 g).1.dispatchSend 0 (begun dispE) (a2aBegun dispE t0 g).2 t0 g (Chip.routeRows (fabTopk dispE.slug) w).1
      (Chip.routeRows (fabTopk dispE.slug) w).2 = .ok c2 := ⟨_, _, _, _, _, rfl, rfl, by decide, rfl, rfl, rfl⟩

/-! ### Witnesses: HOST and SPIKE slugs -/

/-- WRITEBACK_ALL, and WRITEBACK and DROP of a HOST tensor of four bytes at 0x140, with line 5 MODIFIED. -/
def hostE (op : Nat) : QEntry :=
  { id := 0, slug := BitVec.ofNat 512 (6 + op <<< 64 + (if op = 1 then 0x3FF else 1) <<< 68), tds := [(1, tdW 0x140 5 4 + BitVec.ofNat 512 (2 <<< 123))], session := 1 }
def hostQC (op : Nat) : Chip :=
  { lineC with
    host := { lineC.host with inForce := true, session := 1 }
    engines := { qHost := [hostE op] } :: List.replicate 63 {} }
theorem witness_writeback_all : Runs (at_ (hostQC 1)) 0 .queued .host (hostQC 1) (begun (hostE 1)) ∧ slugClass (hostE 1).slug = 6 ∧
    Chip.checkHost (begun (hostE 1)) = .ok none ∧ (hostQC 1).formeDown = [] ∧ (hostQC 1).hostAvail = true ∧ slugOp (hostE 1).slug = 1 :=
  ⟨runs_of_head _ _ _ _ rfl rfl rfl rfl (by decide) (by decide), by decide, rfl, rfl, by decide, by decide⟩
theorem witness_writeback_and_drop : ∃ td, Runs (at_ (hostQC 2)) 0 .queued .host (hostQC 2) (begun (hostE 2)) ∧ Chip.checkHost (begun (hostE 2)) = .ok (some td) ∧
    slugOp (hostE 2).slug = 2 ∧ slugOp (hostE 0).slug = 0 ∧ (∀ l ∈ Chip.hostLinesOf td, l < 2 ^ 46) ∧
    ((hostQC 2).host.lines.map (·.1)).Pairwise (· < ·) ∧ risingFrom 0 (hostQC 2).host.mem = true :=
  ⟨_, runs_of_head _ _ _ _ rfl rfl rfl rfl (by decide) (by decide), rfl, by decide, by decide, by decide, by decide, by decide⟩

/-- A SPIKE slug of an operation on frame 0, its TD 1 of four FP32 elements. -/
def spikeE (op : Nat) (more : Nat) : QEntry :=
  { id := 0, slug := BitVec.ofNat 512 (7 + op <<< 64 + (if op ≤ 1 then 1 else if op = 5 then 0x3FF else 0) <<< 68 + more), tds := [(1, tdW scratch 0 4)] }
theorem witness_push : ∃ td, Runs (at_ (qC .spike (spikeE 0 0))) 0 .queued .spike (qC .spike (spikeE 0 0)) (begun (spikeE 0 0)) ∧
    (qC .spike (spikeE 0 0)).checkFrame 0 (spikeE 0 0).slug = .ok () ∧ slugOp (spikeE 0 0).slug = 0 ∧
    (begun (spikeE 0 0)).tdReq (fld (spikeE 0 0).slug 77 68) = .ok td ∧ PlainRead (qC .spike (spikeE 0 0)) 0 td ∧
    (qC .spike (spikeE 0 0)).partUsed 0 + recordSize (payloadBytes td) ≤ (qC .spike (spikeE 0 0)).partSize 0 :=
  ⟨_, runs_of_head _ _ _ _ rfl rfl rfl rfl (by decide) (by decide), rfl, by decide, rfl, by unfold PlainRead; decide, by decide⟩
/-- Frame 0 with one record of four FP32 elements on top. -/
def rec4 : SpikeRec := { header := spikeHeader 0 0 0 (tdOf 1 scratch .fp32 4), payload := List.replicate 16 0 }
def popC : Chip := engC { qSpike := [spikeE 1 0], spike := { frame := [(0, { recs := [rec4], pushes := 1 })] } }
theorem witness_pop : ∃ d r h payload, Runs (at_ popC) 0 .queued .spike popC (begun (spikeE 1 0)) ∧ popC.checkFrame 0 (spikeE 1 0).slug = .ok () ∧
    slugOp (spikeE 1 0).slug = 1 ∧ (begun (spikeE 1 0)).tdReq (fld (spikeE 1 0).slug 77 68) = .ok d ∧ PlainWrite popC 0 d ∧
    (popC.setLayer 0 (spikeE 1 0).slug).topRecord 0 (spikeE 1 0).slug = .ok (r, h, payload) ∧ fld h 32 30 = d.ndim ∧
    (∀ i, i < 6 → fld h (151 + 24 * i) (128 + 24 * i) = d.ext.getD i 1) ∧ (popC.setLayer 0 (spikeE 1 0).slug).recordBad 0 r = none :=
  ⟨_, _, _, _, runs_of_head _ _ _ _ rfl rfl rfl rfl (by decide) (by decide), rfl, by decide, rfl, by unfold PlainWrite; decide, rfl, by decide, by decide, by decide⟩
theorem witness_spike_drop : ∃ x, (popC.setLayer 0 (spikeE 2 0).slug).topRecord 0 (spikeE 2 0).slug = .ok x ∧ slugOp (spikeE 2 0).slug = 2 ∧
    ((qC .spike (spikeE 2 0)).frameOf 0 0).recs = [] := ⟨_, rfl, by decide, rfl⟩
/-- Engine 0 with a record whose spill waits at 0x100000, and one that has been spilled there. -/
def spillC (acked : Bool) : Chip :=
  engC { stopAdm := true, spike := { frame := [(0, { recs := [{ rec4 with spill := some 0x100000, acked }], pushes := 1 })], shareMib := 1, base := 0x100000 } }
theorem witness_spill : ∃ f i r c2, (spillC false).spillingRec 0 = some (f, i, r) ∧ r.spill = some 0x100000 ∧
    (spillC false).writeLocal 0 (some 0) (Chip.cellsAt 0x100000 (recordBytes r.header r.payload)) = .ok c2 ∧
    ((spillC false).engine 0).qSpike = [] ∧ (spillC false).admits 0 = false := ⟨_, _, _, _, rfl, rfl, rfl, rfl, by decide⟩
theorem witness_fill : ∃ r, (spillC true).fillFrame 0 = some 0 ∧
    ((spillC true).frameOf 0 0).recs.zipIdx.find? (fun (r, _) => r.spill.isSome) = some (r, 0) ∧ r.spill = some 0x100000 ∧ r.acked = true ∧ r.lost = false ∧
    (spillC true).partUsed 0 + (spillC true).recSize r ≤ (spillC true).partSize 0 ∧
    (∀ b ∈ addrRange 0x100000 ((spillC true).recSize r), (spillC true).accessError 0 b = none) ∧ (spillC true).ue = [] :=
  ⟨_, by decide, rfl, rfl, rfl, rfl, by decide, by decide, rfl⟩
/-- A record whose spill is still on its way, above one that has been spilled. -/
def spillC2 : Chip :=
  engC { spike := { frame := [(0, { recs := [{ rec4 with spill := some 0x100000, acked := false }, { rec4 with spill := some 0x100080, acked := true }], pushes := 2 })], shareMib := 1, base := 0x100000 } }
theorem witness_fill_waits : ∃ r, spillC2.fillFrame 0 = some 0 ∧
    (spillC2.frameOf 0 0).recs.zipIdx.find? (fun (r, _) => r.spill.isSome) = some (r, 0) ∧ r.acked = false := ⟨_, by decide, rfl, rfl⟩
theorem witness_spike_settings : Chip.spikeReserved (spikeE 3 (1 <<< 192)).slug = false ∧ slugOp (spikeE 3 (1 <<< 192)).slug = 3 ∧
    (qC .spike (spikeE 3 (1 <<< 192))).recCount 0 = 0 ∧ fld (spikeE 3 (1 <<< 192)).slug 191 128 % 0x100000 = 0 ∧
    fld (spikeE 3 (1 <<< 192)).slug 191 128 + (fld (spikeE 3 (1 <<< 192)).slug 113 110 + 1) * fld (spikeE 3 (1 <<< 192)).slug 207 192 * 0x100000 ≤ hbmTop ∧
    Chip.spikeReserved (spikeE 4 (9 <<< 82)).slug = false ∧ slugOp (spikeE 4 (9 <<< 82)).slug = 4 ∧ Chip.spikeReserved (spikeE 5 0).slug = false ∧
    slugOp (spikeE 5 0).slug = 5 ∧ bit (spikeE 5 0).slug 109 = false ∧ Chip.spikeReserved (spikeE 6 0).slug = false ∧ slugOp (spikeE 6 0).slug = 6 ∧
    Chip.spikeReserved (spikeE 7 0).slug = false ∧ slugOp (spikeE 7 0).slug = 7 := by decide
theorem witness_loss_td : ∃ td v c2,
    let ent : QEntry := { id := 0, slug := BitVec.ofNat 512 (7 + 5 <<< 64 + 1 <<< 68 + 1 <<< 109), tds := [(1, tdW scratch 0 1)] }
    Chip.spikeReserved ent.slug = false ∧ bit ent.slug 109 = true ∧ ent.tdReq (fld ent.slug 77 68) = .ok td ∧ td.fmt = .fp32 ∧ td.count = 1 ∧
    td.space = .lcl ∧ (qC .spike ent).loadAt 0 ent td (coordsOf td.ext 0) = (.ok v, c2) := ⟨_, _, _, by decide, by decide, rfl, rfl, by decide, rfl, rfl⟩
theorem witness_poisoned_writeback :
    let c : Chip := { lineC with host := { lineC.host with lines := [(5, { state := .modified, data := 1, ue := true })] } }
    (c.host.lines.map (·.1)).Pairwise (· < ·) ∧ (5, { state := .modified, data := 1, ue := true }) ∈ c.host.lines := by decide
theorem witness_losses : (Chip.lossTest 0 7 0 0 0 1 0x7F800000 = none) ∧ (Chip.lossTest upC.imp.prfK 7 50 0 0 0 0x3F800000).isSome = true := by decide

/-! ### Witnesses: the corrector -/

theorem cellAt_isSome {a : Nat} {cs : List Host.Cell} (h : (cellAt a cs).isSome = true) : ∃ p ∈ cs, p.1 = a := by
  induction cs with
  | nil => simp [cellAt] at h
  | cons p cs ih =>
    obtain ⟨j, b⟩ := p
    simp only [cellAt] at h
    split at h
    · exact ⟨_, List.mem_cons_self, ‹j = a›⟩
    · obtain ⟨q, hq, e⟩ := ih h
      exact ⟨q, List.mem_cons_of_mem _ hq, e⟩
theorem writable_of {c : Chip} {e : EngineNo} {ws : List Chip.EWrite} {away : List Nat} (h1 : c.ue = [])
    (h2 : ∀ p ∈ Chip.cellsOf c.mem.get ws, c.accessError (e.toNat / 16) p.1 = none)
    (h3 : ∀ a ∈ away, cellAt a (Chip.cellsOf c.mem.get ws) = none) : Writable c e ws away :=
  ⟨h1, fun _ h => by obtain ⟨p, hp, rfl⟩ := cellAt_isSome h; exact h2 p hp, h3⟩

/-- An UPDATE slug of an operation: its seven TD references, shard descriptor at scratch + 0x400, more fields. TDs 1 to 7 hold one FP32
element each, 64 bytes apart but for the delta block. -/
def upE (op : Nat) (refs : List Nat) (more : Nat) : QEntry :=
  { id := 0, slug := BitVec.ofNat 512 (8 + op <<< 64 + (refs.zipIdx.map fun (r, i) => r <<< (96 + 10 * i)).sum + (scratch + 0x400) <<< 256 + more),
    tds := [(1, tdW scratch 0 1), (2, tdW (scratch + 64) 0 1), (3, tdW (scratch + 128) 0 1), (4, tdW (scratch + 192) 0 1), (5, tdW (scratch + 256) 1 1),
            (6, tdW (scratch + 0x180) 0 1), (7, tdW (scratch + 0x800) 5 140)],
    began := true }
/-- Engine 0 with that slug in its context. -/
def upX (x : CorCtx) (m : Mem) : Chip :=
  { engC { qUpdate := [x.entry] } with cors := { ctxs := [x] } :: List.replicate 3 {}, mem := m }
theorem upRuns_of (x : CorCtx) (m : Mem) (op : Nat) (h1 : x.engine = 0) (h2 : slugOp x.entry.slug = op) (h3 : x.entry.began = true)
    (h4 : ((upX x m).engine 0).stream = []) (h5 : ((upX x m).engine 0).ring = none) (h6 : (upX x m).tryBegin 0 = upX x m) :
    UpRuns (at_ (upX x m)) 0 .queued op (upX x m) x := by
  refine ⟨rfl, rfl, rfl, h2, h3, ?_, upX x m, x.entry, [], (Chip.pumpE_idle _ _ h4 h5).symm, rfl, rfl, h6.symm⟩
  simp [Chip.ctxOf, upX, Chip.cor, h1]
def applyE : QEntry := upE 0 [1, 2, 3, 0x3FF, 5, 6, 0x3FF] ((scratch + 0x500) <<< 192 + 1 <<< 85 + (scratch + 0x600) <<< 448)
def applyC : Chip := upX { engine := 0, entry := applyE } {}
theorem witness_apply : UpRuns (at_ applyC) 0 .queued 0 applyC { engine := 0, entry := applyE } ∧ applyE.prog = {} ∧ Untouched applyC 0 applyE ∧
    (let c2 := applyC
      let ent := applyE
      let e : EngineNo := 0
      let t := Chip.ctxTds { engine := 0, entry := applyE }
      let h := Hyper.read ({ engine := 0, entry := applyE } : CorCtx).hyper
      let w := memWords c2 t.master
      let o := applyMomentum h (upCarry ent.slug) 0 ((memWords c2 t.grad).zip (w.zip (memWords c2 t.st0)))
      c2.slowTier 0 t = false ∧ AllLocal c2 e t ∧ (∀ g, t.grad = some g → g.count = Chip.masterCount t) ∧ (∀ m, fld ent.slug 69 68 = 0 → t.st0 = some m → m.count = Chip.masterCount t) ∧
      Writable c2 e (byteWrites (upAux ent.slug) (toBytes 8 h.step) ++ optWrites t.st0 (fun td => Chip.wordWrites td 0 o.m) ++
        optWrites t.master (fun td => Chip.wordWrites td 0 o.w) ++ optWrites t.work (fun td => Chip.workWrites ent td 0 o.w) ++
        optWrites t.delta (fun td => (o.c.zipIdx.map fun (v, i) => { addr := td.addr (coordsOf td.ext i), bits := v, fmt := td.fmt, high := false }) ++
          byteWrites (td.base - 64) (toBytes 64 (c2.deltaHeader ent 0 0 h.step (fingerprint o.w)).toNat)) ++
        descWrites ent h.step (fingerprint o.w) (fingerprint o.m) 0) []) := by
  refine ⟨upRuns_of _ _ _ rfl (by decide) rfl rfl rfl rfl, rfl, ⟨rfl, nofun, nofun⟩, by decide, ⟨?_, by decide⟩, by rintro g ⟨⟩; rfl, by rintro m - ⟨⟩; rfl, writable_of rfl (by decide) (by decide)⟩
  intro td htd
  refine ⟨?_, rfl, ?_⟩
  · revert td; decide
  · revert td; decide

/-- A slow-tier APPLY: master and moment on another device, two slots of parking. -/
def slowE : QEntry :=
  { upE 0 [1, 2, 3, 0x3FF, 0x3FF, 0x3FF, 7] ((scratch + 0x500) <<< 192) with
    tds := [(1, tdW scratch 0 1), (2, tdW (3 <<< 48 + 64) 0 1 + BitVec.ofNat 512 (1 <<< 123)), (3, tdW (3 <<< 48 + 128) 0 1 + BitVec.ofNat 512 (1 <<< 123)),
            (7, tdW (scratch + 0x100000) 5 0x100000)] }
def slowC : Chip := upX { engine := 0, entry := slowE } {}
theorem witness_slow_apply : UpRuns (at_ slowC) 0 .queued 0 slowC { engine := 0, entry := slowE } ∧ slowE.prog = {} ∧ Untouched slowC 0 slowE ∧
    (let t := Chip.ctxTds { engine := 0, entry := slowE }
     slowC.slowTier 0 t = true ∧ fld slowE.slug 69 68 = 0 ∧ 0 < Chip.masterCount t ∧
     ∃ ent1 c0 c3, slowC.gather 0 .update slowE [] t.work.toList 256 (Chip.corUnit 0) = (.ready, ent1, c0) ∧
       Chip.parkChunks 64 0 ent1 t (c0.onCtx 0 fun x => { x with started := true, row := [], col := [], entry := ent1 }) = .ok c3) :=
  ⟨upRuns_of _ _ _ rfl (by decide) rfl rfl rfl rfl, rfl, ⟨rfl, nofun, nofun⟩, by decide, by decide, by decide, _, _, _, rfl, rfl⟩
/-- The same once it has started. -/
def slowC2 : Chip := upX { engine := 0, entry := slowE, started := true } {}
theorem witness_slow_apply_goes_on : UpRuns (at_ slowC2) 0 .queued 0 slowC2 { engine := 0, entry := slowE, started := true } ∧
    ∃ c3, Chip.parkChunks 64 0 slowE (Chip.ctxTds { engine := 0, entry := slowE, started := true }) slowC2 = .ok c3 :=
  ⟨upRuns_of _ _ _ rfl (by decide) rfl rfl rfl rfl, _, rfl⟩
/-- An APPLY_DELTA at step 1 whose delta is zero, against a header with a fingerprint. -/
def deltaE : QEntry := upE 1 [0x3FF, 2, 0x3FF, 0x3FF, 5, 6, 0x3FF] (1 <<< 85 + (scratch + 0x600) <<< 448)
def deltaC (fp : Nat) : Chip := upX { engine := 0, entry := deltaE } (({} : Mem).write (scratch + 0x180 - 64) (toBytes 64 (1 <<< 64 + fp <<< 128)))
def deltaAt (n : Nat) : TD := tdOf 6 (scratch + 0x180) .fp32 n
theorem witness_apply_delta (fp : Nat) (h : fp = fingerprint [0] ∨ fp = 5) :
    UpRuns (at_ (deltaC fp)) 0 .queued 1 (deltaC fp) { engine := 0, entry := deltaE } ∧ deltaE.prog = {} ∧ Untouched (deltaC fp) 0 deltaE :=
  ⟨upRuns_of _ _ _ rfl (by decide) rfl rfl rfl (by rcases h with rfl | rfl <;> rfl), rfl, ⟨rfl, nofun, nofun⟩⟩
theorem witness_delta_header (fp : Nat) (hf : fp = fingerprint [0] ∨ fp = 5) :
    let c2 := deltaC fp
    let e : EngineNo := 0
    let ent := deltaE
    let t := Chip.ctxTds { engine := 0, entry := deltaE }
    let dt := deltaAt 1
    let h := BitVec.ofNat 512 (c2.seenWord (dt.base - 64) 64)
    let w1 := ((memWords c2 t.master).zip ((List.range (Chip.masterCount t)).map fun i => c2.rawAt dt (coordsOf dt.ext i))).map fun (w, b) => toF32 (FVal.sub (f32 w) ((dt.fmt.decode b).scale (-(signedOf 8 (fld h 49 42)))))
    let ws := byteWrites (upAux ent.slug) (toBytes 8 (fld h 127 64)) ++
      optWrites t.master (fun td => Chip.wordWrites td 0 w1) ++ optWrites t.work (fun td => Chip.workWrites ent td 0 w1)
    t.delta = some dt ∧ dt.count = Chip.masterCount t ∧ fld h 31 0 = descShard 0 ∧ descStep 0 < fld h 127 64 ∧ fld h 53 50 = dt.fmt.code ∧ dt.fmt = .fp32 ∧
      64 ≤ dt.base ∧ (fingerprint w1 = fld h 191 128 ↔ fp = fingerprint [0]) ∧
      Writable c2 e ws [] ∧ Writable c2 e (ws ++ descWrites ent (fld h 127 64) (fingerprint w1) (descFpS 0) (signedOf 8 (fld h 49 42))) [] ∧
      AllLocal c2 e t ∧ FabReads c2 e (Chip.headerTd dt) := by
  rcases hf with rfl | rfl
  all_goals
    refine ⟨by decide, by decide, by decide, by decide, by decide, rfl, by decide, by decide, writable_of rfl (by decide) (by decide),
      writable_of rfl (by decide) (by decide), ⟨?_, by decide⟩, rfl, by decide⟩
    intro td htd
    refine ⟨?_, rfl, ?_⟩
    · revert td; decide
    · revert td; decide

/-- An FP_EXCHANGE with device 3 at a phase, and with or without recomputation. -/
def fpE (bit86 phase : Nat) : QEntry :=
  { upE 2 [0x3FF, 2, 3, 0x3FF, 0x3FF, 0x3FF, 0x3FF] (bit86 <<< 86 + 1 <<< 85 + 3 <<< 166 + (scratch + 0x600) <<< 448) with prog := { phase } }
def fpX (b p : Nat) : CorCtx := { engine := 0, entry := fpE b p }
theorem witness_exchange : (∀ p < 3, UpRuns (at_ (upX (fpX 0 p) {})) 0 .queued 2 (upX (fpX 0 p) {}) (fpX 0 p) ∧ (fpE 0 p).prog.phase = p ∧ bit (fpE 0 p).slug 86 = false ∧
      (upX (fpX 0 p) {}).fabWaiting 0 0 = false ∧ ∀ r ∈ (upX (fpX 0 p) {}).fabAnswers 0 0, ∃ bs, r.answer = some (Status.success, bs)) ∧
    UpRuns (at_ (upX (fpX 1 0) {})) 0 .queued 2 (upX (fpX 1 0) {}) (fpX 1 0) ∧ (fpE 1 0).prog = {} ∧ bit (fpE 1 0).slug 86 = true ∧
    upPeer (fpE 1 0).slug ≠ (upX (fpX 1 0) {}).fab.deviceId ∧ Untouched (upX (fpX 1 0) {}) 0 (fpE 1 0) ∧
    AllLocal (upX (fpX 1 0) {}) 0 (Chip.ctxTds (fpX 1 0)) ∧ (upX (fpX 1 0) {}).ue = [] := by
  refine ⟨?_, upRuns_of _ _ _ rfl (by decide) rfl rfl rfl rfl, rfl, by decide, by decide, ⟨rfl, nofun, nofun⟩, ⟨?_, by decide⟩, rfl⟩
  · intro p hp
    match p, hp with
    | 0, _ => exact ⟨upRuns_of _ _ _ rfl (by decide) rfl rfl rfl rfl, rfl, by decide, rfl, nofun⟩
    | 1, _ => exact ⟨upRuns_of _ _ _ rfl (by decide) rfl rfl rfl rfl, rfl, by decide, rfl, nofun⟩
    | 2, _ => exact ⟨upRuns_of _ _ _ rfl (by decide) rfl rfl rfl rfl, rfl, by decide, rfl, nofun⟩
  · intro td htd
    refine ⟨?_, rfl, ?_⟩
    · revert td; decide
    · revert td; decide
/-- The same slug in the wait of step 3, with a record in its inbox; the descriptor holds step 2, with LOCKSTEP. -/
def waitX : CorCtx := { fpX 0 3 with waitPeer := true, desc := BitVec.ofNat 1024 (2 <<< 512) }
def waitC (rec : Nat) : Chip := upX waitX (({} : Mem).write (scratch + 0x600) (toBytes 64 rec))
theorem witness_record_arrived : ∀ rec ∈ [1 <<< 448, 3 <<< 448, 2 + 2 <<< 448, 2 + 7 <<< 128 + 2 <<< 448],
    (waitC rec).formesUp = true ∧ (waitC rec).engines.length = 64 ∧ (waitC rec).ctxOf 0 = some waitX ∧ (waitC rec).ue = [] ∧
    (∀ b ∈ addrRange (upAux (fpE 0 3).slug) 64, (waitC rec).accessError 0 b = none) ∧ (fpE 0 3).began = true := by decide
/-- An older seal, another step, one that agrees and one that does not. -/
theorem witness_records :
    let d (_ : Nat) : Desc := waitX.desc
    let rd (r : Nat) : BitVec 512 := BitVec.ofNat 512 ((waitC r).seenWord (upAux (fpE 0 3).slug) 64)
    fld (rd (1 <<< 448)) 511 448 < descStep (d (1 <<< 448)) ∧
    (descStep (d (3 <<< 448)) ≤ fld (rd (3 <<< 448)) 511 448 ∧ fld (rd (3 <<< 448)) 511 448 ≠ descStep (d (3 <<< 448))) ∧
    (let r := 2 + 2 <<< 448
     fld (rd r) 511 448 = descStep (d r) ∧ fld (rd r) 63 0 = descStep (d r) ∧ fld (rd r) 95 64 = descShard (d r) ∧ fld (rd r) 191 128 = 0 ∧
       descLockstep (d r) = true ∧ fld (rd r) 255 192 = 0) ∧
    (let r := 2 + 7 <<< 128 + 2 <<< 448
     fld (rd r) 511 448 = descStep (d r) ∧ fld (rd r) 63 0 = descStep (d r) ∧ fld (rd r) 95 64 = descShard (d r) ∧ fld (rd r) 191 128 ≠ 0) := by decide
/-- A REPAIR from device 3 whose bytes have all come: the peer's descriptor has fingerprints, its master and moment are zero. -/
def repairE : QEntry := upE 3 [0x3FF, 2, 3, 0x3FF, 5, 0x3FF, 0x3FF] (3 <<< 166)
def gotReq (a : Nat) (bs : List Byte) : FabReq :=
  { txn := 0, thdr := BitVec.ofNat 256 (3 <<< 16 + a <<< 64), payload := [], engine := 0, entry := 0, answer := some (.success, bs) }
def repairC (fp : Nat) : Chip :=
  { upX { engine := 0, entry := repairE } {} with
    fab := { reqs := [gotReq (scratch + 64) [0, 0, 0, 0], gotReq (scratch + 128) [0, 0, 0, 0],
                      gotReq (scratch + 0x400) (toBytes 128 (fp <<< 576 + fp <<< 640))] } }
theorem repair_ctxTds : Chip.ctxTds { engine := 0, entry := repairE } =
    { grad := none, master := some (tdOf 2 (scratch + 64) .fp32 1), st0 := some (tdOf 3 (scratch + 128) .fp32 1), st1 := none,
      work := some (tdOf 5 (scratch + 256) .bf16 1), delta := none, park := none } := rfl
theorem repair_runs (fp : Nat) : UpRuns (at_ (repairC fp)) 0 .queued 3 (repairC fp) { engine := 0, entry := repairE } := by
  refine ⟨rfl, rfl, rfl, by decide, rfl, rfl, repairC fp, repairE, [], (Chip.pumpE_idle _ _ rfl rfl).symm, rfl, rfl, rfl⟩
/-- A computation ends with the value given. -/
def okIs {α : Type} [DecidableEq α] (x : Except Status α) (v : α) : Bool := match x with | .ok w => decide (w = v) | .error _ => false
theorem okIs_eq {α : Type} [DecidableEq α] {x : Except Status α} {v : α} (h : okIs x v = true) : x = .ok v := by
  cases x with
  | ok w => simpa [okIs] using h
  | error _ => simp [okIs] at h
theorem gather_eq {g : Chip.Gather × QEntry × Chip} (h : g.1 = .ready) : g = (.ready, g.2.1, g.2.2) := Prod.ext h rfl
/-- The slug with the bytes, and the chip, after the gather of that REPAIR. -/
def repairE1 (fp : Nat) : QEntry :=
  { repairE with prog := { gotB := Chip.cellsAt (3 <<< 48 + scratch + 64) [0, 0, 0, 0] ++ Chip.cellsAt (3 <<< 48 + scratch + 128) [0, 0, 0, 0] ++
                             Chip.cellsAt (3 <<< 48 + scratch + 0x400) (toBytes 128 (fp <<< 576 + fp <<< 640)) } }
def repairC1 (fp : Nat) : Chip := { upX { engine := 0, entry := repairE } {} with engines := { qUpdate := [repairE1 fp] } :: List.replicate 63 {} }
theorem witness_repair_runs (fp : Nat) : UpRuns (at_ (repairC fp)) 0 .queued 3 (repairC fp) { engine := 0, entry := repairE } ∧ repairE.prog = {} ∧
    upPeer repairE.slug = 3 ∧ ∀ td ∈ (Chip.ctxTds { engine := 0, entry := repairE }).all, td.space = .lcl := ⟨repair_runs fp, rfl, by decide, by decide⟩
theorem repair_ready : (repairC 5).gather 0 .update repairE [Chip.descTd 3 (scratch + 0x400), Chip.onPeer 3 (tdOf 2 (scratch + 64) .fp32 1),
    Chip.onPeer 3 (tdOf 3 (scratch + 128) .fp32 1)] [tdOf 5 (scratch + 256) .bf16 1] 256 (Chip.corUnit 0) = (.ready, repairE1 5, repairC1 5) := by decide +kernel
theorem repair_ready_agrees : (repairC (fingerprint [0])).gather 0 .update repairE [Chip.descTd 3 (scratch + 0x400), Chip.onPeer 3 (tdOf 2 (scratch + 64) .fp32 1),
    Chip.onPeer 3 (tdOf 3 (scratch + 128) .fp32 1)] [tdOf 5 (scratch + 256) .bf16 1] 256 (Chip.corUnit 0) =
    (.ready, repairE1 (fingerprint [0]), repairC1 (fingerprint [0])) := by decide +kernel
theorem repair_reads : ∀ fp ∈ [fingerprint [0], 5],
    okIs ((repairC1 fp).corBytes 0 (repairE1 fp) (Chip.descTd 3 (scratch + 0x400)) 0 128) (toBytes 128 (fp <<< 576 + fp <<< 640)) = true ∧
    okIs ((repairC1 fp).shardWords 0 (repairE1 fp) (some (Chip.onPeer 3 (tdOf 2 (scratch + 64) .fp32 1)))
      (some (Chip.onPeer 3 (tdOf 3 (scratch + 128) .fp32 1))) none) ([0], [0], [], repairC1 fp) = true := by decide +kernel
theorem witness_repair_gathers (fp : Nat) (hf : fp ∈ [fingerprint [0], 5]) :
    (repairC1 fp).corBytes 0 (repairE1 fp) (Chip.descTd 3 (scratch + 0x400)) 0 128 = .ok (toBytes 128 (fp <<< 576 + fp <<< 640)) ∧
    (repairC1 fp).shardWords 0 (repairE1 fp) (some (Chip.onPeer 3 (tdOf 2 (scratch + 64) .fp32 1)))
      (some (Chip.onPeer 3 (tdOf 3 (scratch + 128) .fp32 1))) none = .ok ([0], [0], [], repairC1 fp) ∧
    (repairC1 fp).fab.deviceId ≠ 3 ∧ (repairC1 fp).fabWaiting 0 0 = false ∧ (repairC1 fp).fabAnswers 0 0 = [] := by
  have h := repair_reads fp hf
  exact ⟨okIs_eq h.1, okIs_eq h.2, nofun, rfl, rfl⟩
def repairWs (fp : Nat) : List Chip.EWrite :=
  Chip.wordWrites (tdOf 2 (scratch + 64) .fp32 1) 0 [0] ++ Chip.wordWrites (tdOf 3 (scratch + 128) .fp32 1) 0 [0] ++
    Chip.workWrites (repairE1 fp) (tdOf 5 (scratch + 256) .bf16 1) 0 [0]
def repairDesc (fp : Nat) : Desc := BitVec.ofNat 1024 (fp <<< 576 + fp <<< 640)
theorem repair_prints : ∀ fp ∈ [fingerprint [0], 5],
    (descFpW (repairDesc fp) = fingerprint [0] ∧ descFpS (repairDesc fp) = fingerprint ([0] ++ []) ↔ fp = fingerprint [0]) := by decide +kernel
theorem witness_repair (fp : Nat) (hf : fp ∈ [fingerprint [0], 5]) :
    (descFpW (repairDesc fp) = fingerprint [0] ∧ descFpS (repairDesc fp) = fingerprint ([0] ++ []) ↔ fp = fingerprint [0]) ∧
    Writable (repairC1 fp) 0 (repairWs fp) [] ∧
    Writable (repairC1 fp) 0 (repairWs fp ++ descWrites repairE (descStep (repairDesc fp)) (descFpW (repairDesc fp)) (descFpS (repairDesc fp))
      (signedOf 8 (fld (repairDesc fp) 711 704))) [] := by
  have h := repair_prints fp hf
  simp only [List.mem_cons, List.not_mem_nil, or_false] at hf
  rcases hf with rfl | rfl
  · exact ⟨h, writable_of rfl (by decide +kernel) nofun, writable_of rfl (by decide +kernel) nofun⟩
  · exact ⟨h, writable_of rfl (by decide +kernel) nofun, writable_of rfl (by decide +kernel) nofun⟩

/-! ### Witnesses: images, chunks, the begin of updates -/

/-- EXPORT and IMPORT of master and moment through the image of TD 7. -/
def imageE (op : Nat) : QEntry := upE op [0x3FF, 2, 3, 0x3FF, if op = 5 then 5 else 0x3FF, 7, 0x3FF] 0
def imageX (op : Nat) : CorCtx := { engine := 0, entry := imageE op }
def imageTd : TD := tdOf 7 (scratch + 0x800) .int8 140
theorem witness_export : UpRuns (at_ (upX (imageX 4) {})) 0 .queued 4 (upX (imageX 4) {}) (imageX 4) ∧ (imageE 4).prog = {} ∧
    Untouched (upX (imageX 4) {}) 0 (imageE 4) ∧ (Chip.ctxTds (imageX 4)).delta = some imageTd ∧ imageTd.fmt = .int8 ∧
    AllLocal (upX (imageX 4) {}) 0 (Chip.ctxTds (imageX 4)) ∧
    (let c2 := upX (imageX 4) {}
     let t := Chip.ctxTds (imageX 4)
     let bytes := toBytes 128 (Chip.imageHeader 0 t (fingerprint [0]) (fingerprint [0])).toNat ++ wordBytes ([0] ++ [0] ++ [])
     memWords c2 t.master = [0] ∧ memWords c2 t.st0 = [0] ∧ memWords c2 t.st1 = [] ∧
     Writable c2 0 (bytes.zipIdx.map fun (b, i) => { addr := imageTd.addr (coordsOf imageTd.ext i), bits := b.toNat, fmt := .int8, high := false }) []) := by
  refine ⟨upRuns_of _ _ _ rfl (by decide) rfl rfl rfl rfl, rfl, ⟨rfl, nofun, nofun⟩, by decide, rfl, ⟨?_, by decide⟩, by decide, by decide, by decide,
    writable_of rfl (by decide +kernel) nofun⟩
  intro td htd
  refine ⟨?_, rfl, ?_⟩
  · revert td; decide
  · revert td; decide
/-- An image of zeros whose header matches, with fingerprints. -/
def importC (fp : Nat) : Chip :=
  upX (imageX 5) (({} : Mem).write (scratch + 0x800) (toBytes 128 (Chip.imageHeader 0 (Chip.ctxTds (imageX 5)) fp fp).toNat))
def importBytes (fp i n : Nat) : List Byte := (List.range n).map fun k => BitVec.ofNat 8 ((importC fp).rawAt imageTd (coordsOf imageTd.ext (i + k)))
theorem import_runs (fp : Nat) : UpRuns (at_ (importC fp)) 0 .queued 5 (importC fp) (imageX 5) :=
  ⟨rfl, rfl, rfl, by decide, rfl, rfl, importC fp, imageE 5, [], (Chip.pumpE_idle _ _ rfl rfl).symm, rfl, rfl, rfl⟩
def importHead (fp : Nat) : Desc := Chip.imageHeader 0 (Chip.ctxTds (imageX 5)) fp fp
theorem import_head : ∀ fp ∈ [fingerprint [0], 5], BitVec.ofNat 1024 (ofBytes (importBytes fp 0 128)) = importHead fp ∧
    Chip.imageMatches (importHead fp) 0 (Chip.ctxTds (imageX 5)) = true ∧
    (List.range 1).map (fun k => BitVec.ofNat 32 (ofBytes (importBytes fp (128 + 4 * k) 4))) = [0] ∧
    (List.range 1).map (fun k => BitVec.ofNat 32 (ofBytes (importBytes fp (132 + 4 * k) 4))) = [0] ∧
    (descFpW (importHead fp) = fingerprint [0] ∧ descFpS (importHead fp) = fingerprint [0] ↔ fp = fingerprint [0]) := by decide +kernel
def importWs : List Chip.EWrite :=
  Chip.wordWrites (tdOf 2 (scratch + 64) .fp32 1) 0 [0] ++ Chip.wordWrites (tdOf 3 (scratch + 128) .fp32 1) 0 [0] ++
    Chip.workWrites (imageE 5) (tdOf 5 (scratch + 256) .bf16 1) 0 [0]
theorem import_tds : ∀ fp ∈ [fingerprint [0], 5], ∀ td ∈ (Chip.ctxTds (imageX 5)).all, td.space = .lcl ∧ (importC fp).ue = [] ∧
    ∀ i, i < td.count → ∀ b ∈ addrRange (td.addr (coordsOf td.ext i)) td.elemBytes, (importC fp).accessError ((0 : EngineNo).toNat / 16) b = none := by decide +kernel
theorem import_writes : ∀ fp ∈ [fingerprint [0], 5],
    (importC fp).ue = [] ∧ (∀ p ∈ Chip.cellsOf (importC fp).mem.get importWs, (importC fp).accessError ((0 : EngineNo).toNat / 16) p.1 = none) ∧
    (let ws := importWs ++ descWrites (imageE 5) (descStep (importHead fp)) (descFpW (importHead fp)) (descFpS (importHead fp)) (signedOf 8 (fld (importHead fp) 711 704))
     ∀ p ∈ Chip.cellsOf (importC fp).mem.get ws, (importC fp).accessError ((0 : EngineNo).toNat / 16) p.1 = none) := by decide +kernel
theorem witness_import (fp : Nat) (hf : fp ∈ [fingerprint [0], 5]) :
    UpRuns (at_ (importC fp)) 0 .queued 5 (importC fp) (imageX 5) ∧ (imageE 5).prog = {} ∧ Untouched (importC fp) 0 (imageE 5) ∧
    (Chip.ctxTds (imageX 5)).delta = some imageTd ∧ imageTd.fmt = .int8 ∧ 128 + imagePayload (Chip.ctxTds (imageX 5)) ≤ imageTd.count ∧
    AllLocal (importC fp) 0 (Chip.ctxTds (imageX 5)) ∧
    Writable (importC fp) 0 importWs [] ∧
    Writable (importC fp) 0 (importWs ++ descWrites (imageE 5) (descStep (importHead fp)) (descFpW (importHead fp)) (descFpS (importHead fp))
      (signedOf 8 (fld (importHead fp) 711 704))) [] := by
  have h := import_writes fp hf
  exact ⟨import_runs fp, rfl, ⟨rfl, nofun, nofun⟩, by decide, rfl, by decide, ⟨import_tds fp hf, by decide⟩, writable_of h.1 h.2.1 nofun,
    writable_of h.1 h.2.2 nofun⟩
/-- An APPLY at the head of its queue, engine 0 next in turn. -/
def headC : Chip := { engC { qUpdate := [{ applyE with began := false }] } with cors := { turn := 15 } :: List.replicate 3 {} }
theorem witness_update_begins : headC.cors.length = 4 ∧ (headC.cor 0).turn = (0 + 15) % 16 ∧ (headC.cor 0).ctxs = [] ∧ headC.formeDown = [] ∧ headC.prf.hold = false ∧
    headC.slotRoom (Chip.corUnit 0) ≠ 0 ∧ headC.readyHead 0 .update = some { applyE with began := false } ∧ headC.sessionError applyE = none ∧
    checkUpdate headC 0 applyE = .ok (Chip.ctxTds { engine := 0, entry := applyE }, 0) ∧ headC.gateMet 0 applyE.slug = .ok true ∧ slugOp applyE.slug = 0 ∧
    headC.readHyper 0 applyE.slug = .ok 0 ∧ headC.beginApply 0 (upLayer applyE.slug) (upCarry applyE.slug) 0 = some (0, headC) ∧
    ({ upC with prf := { hold := true } } : Chip).prf.hold = true :=
  ⟨rfl, by decide, rfl, rfl, rfl, by decide, rfl, by decide, okIs_eq (by decide), rfl, by decide, okIs_eq (by decide), rfl, rfl⟩
def expC : Chip := { upC with cors := { layers := [(2, { s := 4, lmax := some 3 })] } :: List.replicate 3 {} }
theorem witness_layer_exponents : 3 < (expC.layerOf 0 2).s.toNat ∧ 4 = (expC.layerOf 0 2).s.toNat ∧ (expC.layerOf 0 2).s.toNat < 5 ∧
    (expC.layerOf 0 2).lmax = some 3 := by decide

/-- A slow-tier slug with a chunk whose state has come. -/
def chunkE : QEntry := { slowE with slug := (upE 0 [1, 2, 3, 0x3FF, 5, 0x3FF, 7] ((scratch + 0x500) <<< 192)).slug, tds := Tab.set 5 (tdW (scratch + 256) 1 1) slowE.tds }
def chunkX : CorCtx := { engine := 0, entry := chunkE, remote := true, started := true, next := 1, chunks := [{ idx := 0, slot := 0 }] }
def chunkC : Chip :=
  { upX chunkX {} with fab := { reqs := [{ gotReq 64 [0, 0, 0, 0] with key := 100 }, { gotReq 128 [0, 0, 0, 0] with key := 100 }] } }
theorem witness_chunk_arrives : chunkC.formesUp = true ∧ chunkC.ctxOf 0 = some chunkX ∧ chunkX.fail = false ∧
    chunkX.chunks.find? (fun k => !k.puts && chunkC.keyDone 0 chunkE.id (Chip.getKey k.idx)) = some { idx := 0, slot := 0 } ∧
    chunkC.keyBad 0 chunkE.id (Chip.getKey 0) = none ∧
    ∃ c1, chunkC.chunkCompute 0 chunkE (Chip.ctxTds chunkX) chunkX { idx := 0, slot := 0 } = .ok c1 := ⟨rfl, rfl, rfl, rfl, rfl, _, rfl⟩
def farTd (id off : Nat) : TD := { tdOf id (3 <<< 48 + off) .fp32 1 with space := .broadsheet }
theorem coordsOf_ones (i : Nat) : coordsOf [1, 1, 1, 1, 1, 1] i = [0, 0, 0, 0, 0, 0] := by simp [coordsOf, Nat.mod_one]
theorem witness_slow_chunk :
    let m := farTd 2 64
    let st := farTd 3 128
    fld chunkE.slug 69 68 = 0 ∧ { idx := 0, slot := 0 } ∈ chunkX.chunks ∧
    (Chip.ctxTds chunkX).delta = none ∧ (Chip.ctxTds chunkX).work = some (tdOf 5 (scratch + 256) .bf16 1) ∧ (Chip.ctxTds chunkX).master = some m ∧
    (Chip.ctxTds chunkX).st0 = some st ∧ (∀ td ∈ [m, st], td.space = .broadsheet ∧ ∀ i, td.addr (coordsOf td.ext i) >>> 48 ≠ chunkC.fab.deviceId) ∧
    (let entG := { chunkE with prog := { chunkE.prog with gotB := chunkC.chunkCells 0 chunkE.id (Chip.getKey 0) } }
     chunkC.corWords 0 entG m (Chip.chunkIdx 1 0) = .ok [0] ∧ chunkC.corWords 0 entG st (Chip.chunkIdx 1 0) = .ok [0]) ∧
    ∃ c0 gs, chunkC.slotState 0 (Chip.ctxTds chunkX) 0 0 [0] [0] = .ok c0 ∧ c0.slotGrad 0 (Chip.ctxTds chunkX) 0 0 1 = .ok gs := by
  refine ⟨by decide, by decide, rfl, by decide, by decide, by decide, ?_, ⟨okIs_eq (by decide), okIs_eq (by decide)⟩, _, _, rfl, rfl⟩
  intro td htd
  simp only [List.mem_cons, List.not_mem_nil, or_false] at htd
  rcases htd with rfl | rfl
  · exact ⟨rfl, fun i => (congrArg (fun cs => (farTd 2 64).addr cs >>> 48 ≠ chunkC.fab.deviceId) (coordsOf_ones i)).mpr (by decide)⟩
  · exact ⟨rfl, fun i => (congrArg (fun cs => (farTd 3 128).addr cs >>> 48 ≠ chunkC.fab.deviceId) (coordsOf_ones i)).mpr (by decide)⟩
/-- A slow-tier slug of two chunks whose first is put and acknowledged. -/
def ackE : QEntry :=
  { slowE with tds := [(1, tdW scratch 0 4097), (2, tdW (3 <<< 48) 0 4097 + BitVec.ofNat 512 (1 <<< 123)), (3, tdW (3 <<< 48 + 0x10000) 0 4097 + BitVec.ofNat 512 (1 <<< 123)),
                       (7, tdW (scratch + 0x100000) 5 0x100000)] }
def ackX : CorCtx := { engine := 0, entry := ackE, remote := true, started := true, next := 1, chunks := [{ idx := 0, slot := 0, puts := true }] }
theorem witness_chunk_acknowledged : (upX ackX {}).slowTier (slugOp ackE.slug) (Chip.ctxTds ackX) = true ∧
    ackX.chunks.find? (fun k => k.puts && (upX ackX {}).keyDone 0 ackE.id (Chip.putKey k.idx)) = some { idx := 0, slot := 0, puts := true } ∧
    (upX ackX {}).keyBad 0 ackE.id (Chip.putKey 0) = none ∧ ackX.doneCh + 1 < chunksOf (Chip.masterCount (Chip.ctxTds ackX)) ∧
    ∃ c2, Chip.parkChunks 64 0 ackE (Chip.ctxTds ackX) (((upX ackX {}).dropKey 0 ackE.id (Chip.putKey 0)).onCtx 0 fun x =>
      { x with doneCh := x.doneCh + 1, chunks := x.chunks.filter fun q => q.idx != 0 }) = .ok c2 := ⟨by decide, rfl, rfl, by decide, _, rfl⟩

/-! ### Witnesses: the data service -/

/-- A running chip whose data service is as given; port 12 is an Ethernet port that is up. -/
def dsC (d : DataSvc) : Chip :=
  { upC with fab := { ports := List.replicate 12 {} ++ [{ state := .ethernet }, {}, {}, {}] }, ds := { d with ethUp := [true, false, false, false] } }
def jobW (op more : Nat) : JobWord := BitVec.ofNat 1024 (op + more)
/-- A job at its start, and the chip on which it runs in slot 0. -/
def begunJob (w : JobWord) : Job := { ring := 0, order := 0, word := w }
def jobsC (d : DataSvc) (j : Job) : Chip := dsC { d with jobs := [(0, j)] }
theorem jobRuns_of (d : DataSvc) (j : Job) (h1 : j.ring = 0) (h2 : j.stage = .begun) (h3 : d.stopped = false) (h4 : (jobsC d j).jobError j.word = none) :
    JobRuns (at_ (jobsC d j)) 0 .queued 0 j (jobsC d { j with stage := .running }) := by
  refine ⟨rfl, ?_, rfl, h3, h4, ?_⟩
  · simp [Chip.placeJob, JobSrc.word, Chip.nextJob, at_, jobsC, dsC, h1, h2]
  · simp [Chip.placeJob, JobSrc.word, Chip.onJob, Chip.onDs, at_, jobsC, dsC]
/-- A controller that is live, its block size of namespace 1 known or not. -/
def ctl : Ctrl := { target := 0, portMask := 1, numIoq := 1, qdepth := 4, phase := .live, qps := [{ port := 12, depth := 4 }, { port := 12, depth := 4 }] }
def ctlB : Ctrl := { ctl with blocks := [(1, 9)] }
def connectW : JobWord := jobW 1 (1 <<< 196 + 1 <<< 200 + 2 <<< 207 + scratch <<< 256)
theorem witness_nop_and_connect : JobRuns (at_ (jobsC {} (begunJob 0))) 0 .queued 0 (begunJob 0) (jobsC {} { begunJob 0 with stage := .running }) ∧
    (∃ bs, let c1 := jobsC {} { begunJob connectW with stage := .running }
      JobRuns (at_ (jobsC {} (begunJob connectW))) 0 .queued 0 (begunJob connectW) c1 ∧ jobOp connectW = 1 ∧ Tab.find? (jobCtrl connectW) c1.ds.ctrls = none ∧
      c1.readLocal 3 (addrRange (jobAddrA connectW) 288) = .ok bs ∧ c1.upPorts (fld connectW 199 196) = [12] ∧
      (c1.ds.ctrls.map fun q => q.2.numIoq).sum + fld connectW 206 200 ≤ 64) :=
  ⟨jobRuns_of _ _ rfl rfl rfl (by decide), _, jobRuns_of _ _ rfl rfl rfl (by decide), by decide, rfl, rfl, by decide, by decide⟩
/-- A CONNECT of a controller that is open, and one whose port mask names no port that is up. -/
def connectNW : JobWord := jobW 1 (1 <<< 200 + 2 <<< 207 + scratch <<< 256)
theorem witness_connect_fails :
    (let c1 := jobsC { ctrls := [(0, ctl)] } { begunJob connectW with stage := .running }
     JobRuns (at_ (jobsC { ctrls := [(0, ctl)] } (begunJob connectW))) 0 .queued 0 (begunJob connectW) c1 ∧ (Tab.find? (jobCtrl connectW) c1.ds.ctrls).isSome = true) ∧
    (∃ bs, let c1 := jobsC {} { begunJob connectNW with stage := .running }
      JobRuns (at_ (jobsC {} (begunJob connectNW))) 0 .queued 0 (begunJob connectNW) c1 ∧ jobOp connectNW = 1 ∧ Tab.find? (jobCtrl connectNW) c1.ds.ctrls = none ∧
      c1.readLocal 3 (addrRange (jobAddrA connectNW) 288) = .ok bs ∧ c1.upPorts (fld connectNW 199 196) = []) :=
  ⟨⟨jobRuns_of _ _ rfl rfl rfl (by decide), by decide⟩, _, jobRuns_of _ _ rfl rfl rfl (by decide), by decide, rfl, rfl, by decide⟩
def discC (cmds : List NCmd) : DataSvc := { ctrls := [(0, ctl)], cmds }
theorem witness_disconnect : (∀ cmds, JobRuns (at_ (jobsC (discC cmds) (begunJob (jobW 2 0)))) 0 .queued 0 (begunJob (jobW 2 0)) (jobsC (discC cmds) { begunJob (jobW 2 0) with stage := .running }) ∧
      Tab.find? (jobCtrl (jobW 2 0)) (discC cmds).ctrls = some ctl) ∧ jobOp (jobW 2 0) = 2 ∧
    (discC []).cmds.any (fun q => q.ctrl == 0 && q.slot.isSome) = false ∧
    (discC [{ ctrl := 0, qp := 1, cmd := { cid := 1, op := .read 0 1 }, slot := some 3 }]).cmds.any (fun q => q.ctrl == 0 && q.slot.isSome) = true :=
  ⟨fun _ => ⟨jobRuns_of _ _ rfl rfl rfl rfl, rfl⟩, by decide, rfl, rfl⟩
def readW : JobWord := jobW 3 (1 <<< 224 + scratch <<< 256 + 100 <<< 320 + 600 <<< 384)
theorem witness_read_job : (∀ x ∈ [ctl, ctlB], JobRuns (at_ (jobsC { ctrls := [(0, x)] } (begunJob readW))) 0 .queued 0 (begunJob readW)
      (jobsC { ctrls := [(0, x)] } { begunJob readW with stage := .running }) ∧ x.phase = .live ∧ x.closing = false ∧ 0 < x.numIoq) ∧ jobOp readW = 3 ∧
    (jobsC {} (begunJob readW)).rangeMapped (jobAddrA readW) (fld readW 415 384) = true ∧ Tab.find? (jobNsid readW) ctl.blocks = none ∧
    Tab.find? (jobNsid readW) ctlB.blocks = some 9 := by
  refine ⟨?_, by decide, by decide, by decide, by decide⟩
  intro x hx
  simp only [List.mem_cons, List.not_mem_nil, or_false] at hx
  rcases hx with rfl | rfl
  · exact ⟨jobRuns_of _ _ rfl rfl rfl (by decide), rfl, rfl, by decide⟩
  · exact ⟨jobRuns_of _ _ rfl rfl rfl (by decide), rfl, rfl, by decide⟩
/-- Identify of a namespace, and Get Log Page of 16 bytes. -/
def adminW (log : Bool) : JobWord := jobW 4 (scratch <<< 256 + if log then 1 <<< 210 + 3 <<< 432 else 0)
theorem witness_admin : (∀ b, JobRuns (at_ (jobsC { ctrls := [(0, ctl)] } (begunJob (adminW b)))) 0 .queued 0 (begunJob (adminW b))
      (jobsC { ctrls := [(0, ctl)] } { begunJob (adminW b) with stage := .running })) ∧ jobOp (adminW false) = 4 ∧ jobOp (adminW true) = 4 ∧
    fld (adminW false) 211 210 = 0 ∧ fld (adminW true) 211 210 = 1 ∧ logBytes (adminW true) = 16 ∧ ctl.phase ≠ .connecting ∧
    (jobsC {} (begunJob 0)).rangeMapped scratch 4096 = true := by
  refine ⟨?_, by decide, by decide, by decide, by decide, by decide, by decide, by decide⟩
  intro b
  cases b
  · exact jobRuns_of _ _ rfl rfl rfl (by decide)
  · exact jobRuns_of _ _ rfl rfl rfl (by decide)
/-- A channel's descriptor: one grey BF16 pixel, an input ring of 4 KiB, a frame ring of two slots of 128 bytes in the platen. -/
def descNat : Nat :=
  1 <<< 17 + 1 <<< 20 + 1 <<< 48 + 2 <<< 112 + 2 <<< 128 + 1 <<< 144 + 1 <<< 160 + 1 <<< 176 + 1 <<< 182 + 1 <<< 448 + 0x200000 <<< 480 + 0x1000 <<< 544 +
    (scratch + 64) <<< 576 + 128 <<< 640 + 2 <<< 672
def descW : BitVec 1024 := BitVec.ofNat 1024 descNat
def openW : JobWord := jobW 6 (1 <<< 204 + scratch <<< 256)
def openC (stage : JobStage) : Chip := { jobsC {} { begunJob openW with stage } with mem := ({} : Mem).write scratch (toBytes 128 descNat) }
theorem witness_channel_open : JobRuns (at_ (openC .begun)) 0 .queued 0 (begunJob openW) (openC .running) ∧ jobOp openW = 6 ∧
    (openC .running).chan? (jobChannel openW) = none ∧ jobAddrA openW % 64 = 0 ∧
    (openC .running).readLocal 3 (addrRange (jobAddrA openW) 128) = .ok (toBytes 128 descNat) ∧ descOk (openC .running) descW = true ∧ bit openW 204 = true ∧
    (openC .running).readerLoad (openC .running).leastReader < 64 :=
  ⟨⟨rfl, rfl, rfl, rfl, by decide, rfl⟩, by decide, rfl, by decide, okIs_eq (by decide +kernel), by decide, by decide, by decide⟩
def chan (samples : List Sample) : Channel := { desc := descW, reader := 0, samples }
def closeW (drain : Nat) : JobWord := jobW 7 (drain <<< 205)
theorem witness_channel_close : (∀ b < 2, JobRuns (at_ (jobsC { chans := [(0, chan [⟨0, 0, 188⟩])] } (begunJob (closeW b)))) 0 .queued 0 (begunJob (closeW b))
      (jobsC { chans := [(0, chan [⟨0, 0, 188⟩])] } { begunJob (closeW b) with stage := .running }) ∧ jobOp (closeW b) = 7 ∧ jobChannel (closeW b) = 0 ∧
      (bit (closeW b) 205 = true ↔ b = 1) ∧ Chip.loadNames { begunJob (closeW b) with stage := .running } 0 = false) ∧
    (chan [⟨0, 0, 188⟩]).closing = none ∧ (chan [⟨0, 0, 188⟩]).samples ≠ [] := by
  refine ⟨fun b hb => ?_, rfl, nofun⟩
  match b, hb with
  | 0, _ => exact ⟨jobRuns_of _ _ rfl rfl rfl (by decide), by decide, by decide, by decide, by decide⟩
  | 1, _ => exact ⟨jobRuns_of _ _ rfl rfl rfl (by decide), by decide, by decide, by decide, by decide⟩
/-- LOAD_SAMPLES of one sample of one through the table at scratch; its entry names controller 0, namespace 1, 188 bytes. -/
def loadW : JobWord := jobW 5 (1 <<< 201 + scratch <<< 256 + 1 <<< 384 + 1 <<< 464)
def entryNat : Nat := 188 <<< 64 + 1 <<< 96
def loadC (stage : JobStage) : Chip :=
  { jobsC { chans := [(0, chan [])], ctrls := [(0, ctlB)] } { begunJob loadW with stage } with mem := ({} : Mem).write scratch (toBytes 32 entryNat) }
theorem witness_load : JobRuns (at_ (loadC .begun)) 0 .queued 0 (begunJob loadW) (loadC .running) ∧ jobOp loadW = 5 ∧ 0 < jobCount loadW ∧ 0 < jobChCount loadW ∧
    jobTableNvme loadW = false ∧ (loadC .running).jobBusy 0 = false ∧ (loadC .running).chanOpen 0 = true ∧ jobChannel loadW = 0 ∧ jobChCount loadW = 1 ∧
    shuffleIndex (jobJ0 loadW) (jobN loadW) (jobSeed loadW) (jobEpoch loadW) = 0 ∧
    (loadC .running).readLocal 3 (addrRange (jobAddrA loadW) 32) = .ok (toBytes 32 entryNat) ∧ (loadC .running).chan? 0 = some (chan []) ∧
    Chip.entryBad (BitVec.ofNat 256 entryNat) (ChanDesc.read descW).inBytes = false ∧ fld (BitVec.ofNat 256 entryNat) 95 64 ≤ (ChanDesc.read descW).inBytes ∧
    fld (BitVec.ofNat 256 entryNat) 131 128 = 0 ∧ fld (BitVec.ofNat 256 entryNat) 127 96 = 1 ∧ ctlB.closing = false ∧ Tab.find? 1 ctlB.blocks = some 9 :=
  ⟨⟨rfl, rfl, rfl, rfl, by decide, rfl⟩, by decide, by decide, by decide, by decide, rfl, rfl, by decide, by decide, by decide +kernel,
    okIs_eq (by decide +kernel), rfl, by decide, by decide, by decide, by decide, rfl, rfl⟩
/-- The same job once its bytes have landed, and a job that has ended, with and without record and flag. -/
def landedJ : Job := { begunJob loadW with stage := .running, load := .reading, entry := BitVec.ofNat 256 entryNat }
def endedJ (cmpl flag : Bool) : Job :=
  { begunJob (jobW 0 (cmpl.toNat <<< 21 + flag.toNat <<< 20 + scratch <<< 64)) with stage := .ended }
/-- The same job among the jobs of a closing channel; and one whose table stands on controller 0, namespace 1. -/
def lostC (stage : JobStage) : Chip :=
  dsC { chans := [(0, chan [])], jobs := [(0, { begunJob (closeW 0) with stage }), (1, { begunJob loadW with ring := 1, stage := .running, load := .reading })] }
theorem witness_close_loses : JobRuns (at_ (lostC .begun)) 0 .queued 0 (begunJob (closeW 0)) (lostC .running) ∧ (lostC .running).chan? 0 = some (chan []) ∧
    ∃ k, Tab.find? 1 (lostC .running).ds.jobs = some k ∧ Chip.loadNames k 0 = true ∧ k.stage = .running ∧ k.status = .success ∧
      ∀ q ∈ (lostC .running).ds.cmds, q.slot = some 1 → q.sent = false :=
  ⟨⟨rfl, rfl, rfl, rfl, by decide, rfl⟩, rfl, _, rfl, by decide, rfl, rfl, nofun⟩
def loadNW : JobWord := jobW 5 (1 <<< 201 + 1 <<< 211 + 1 <<< 224 + 96 <<< 256 + 1 <<< 384 + 1 <<< 464)
def loadNC (stage : JobStage) : Chip := jobsC { chans := [(0, chan [])], ctrls := [(0, ctlB)] } { begunJob loadNW with stage }
theorem witness_nvme_table : JobRuns (at_ (loadNC .begun)) 0 .queued 0 (begunJob loadNW) (loadNC .running) ∧ jobOp loadNW = 5 ∧ 0 < jobCount loadNW ∧
    0 < jobChCount loadNW ∧ jobTableNvme loadNW = true ∧ (loadNC .running).jobBusy 0 = false ∧ (loadNC .running).chanOpen 0 = true ∧ jobChannel loadNW = 0 ∧
    jobChCount loadNW = 1 ∧ Tab.find? (jobTableCtrl loadNW) (loadNC .running).ds.ctrls = some ctlB ∧ ctlB.phase = .live ∧ ctlB.closing = false ∧
    Tab.find? (jobNsid loadNW) ctlB.blocks = some 9 :=
  ⟨⟨rfl, rfl, rfl, rfl, by decide, rfl⟩, by decide, by decide, by decide, by decide, rfl, rfl, by decide, by decide, by decide, rfl, rfl, by decide⟩
theorem witness_samples_and_ends : (jobsC { chans := [(0, chan [])] } landedJ).jobBusy 0 = false ∧ Chip.loadChannel landedJ = 0 ∧ landedJ.status = .success ∧
    (∀ b f, (endedJ b f).stage = .ended ∧ (endedJ b f).status = .success ∧ jobCmpl (endedJ b f).word = b ∧ jobFlag (endedJ b f).word = f ∧
      jobFlagAddr (endedJ b f).word % 8 = 0) := by decide
/-- The job's ring with room for its record, and without. -/
def endRing (n : Nat) : DataSvc := { rings := [{ base := scratch + 0x1000, log2 := 2, enable := true, cqWritten := BitVec.ofNat 32 n }, {}, {}, {}] }
theorem witness_job_records : (∀ n ∈ [3, 4], ((jobsC (endRing n) (endedJ true true)).ring 0).space = 0 ∧
      okIs ((jobsC (endRing n) (endedJ true true)).readLocal 3 (addrRange (((jobsC (endRing n) (endedJ true true)).ring 0).base - 128) 8)) (List.replicate 8 0) = true ∧
      (jobsC (endRing n) (endedJ true true)).ds.held = [] ∧ 0 < (endRing n).rings.length) ∧
    ((BitVec.ofNat 32 4) - (BitVec.ofNat 32 (ofBytes (List.replicate 8 0) >>> 32))).toNat = 2 ^ 2 ∧
    ((BitVec.ofNat 32 3) - (BitVec.ofNat 32 (ofBytes (List.replicate 8 0) >>> 32))).toNat ≠ 2 ^ 2 := by decide
/-- A failing job's ring in host memory, of the session in force and of none, with room and full. -/
def hostEnd (inForce : Bool) (n : Nat) : Chip :=
  let c := jobsC { rings := [{ base := 0x1000, log2 := 2, enable := true, space := 2, cqWritten := BitVec.ofNat 32 n }, {}, {}, {}] } { endedJ false false with status := .targetLost }
  { c with host := { hostC.host with inForce } }
theorem witness_host_job_records : ((hostEnd true 4).ring 0).space = 2 ∧ (hostEnd true 4).host.inForce = true ∧ (endedJ false false).session = (hostEnd true 4).host.session ∧
    (hostEnd true 4).hostAvail = true ∧ (((hostEnd true 4).ring 0).cqWritten - ((hostEnd true 4).ring 0).cqConsumed).toNat = 2 ^ ((hostEnd true 4).ring 0).log2 ∧
    (((hostEnd true 3).ring 0).cqWritten - ((hostEnd true 3).ring 0).cqConsumed).toNat ≠ 2 ^ ((hostEnd true 3).ring 0).log2 ∧
    (hostEnd false 3).host.inForce = false ∧ Status.targetLost ≠ .success ∧ jobCmpl (endedJ false false).word = false ∧ (hostEnd true 3).ds.held = [] := by decide
theorem witness_shuffle : 0 < 2 ^ 48 ∧ 2 ^ 48 ≤ 2 ^ 48 := by decide

/-! ### Witnesses: targets, streams, banks and bonds -/

/-- A READ job in slot 0 with one command sent on queue pair 1 of controller 0. -/
def sentCmd (retried : Bool) : NCmd :=
  { ctrl := 0, qp := 1, cmd := { cid := 7, op := .read 0 2, nsid := 1, key := 5, len := 1024 }, slot := some 0, dest := .local_ scratch 100 600, sent := true, retried }
def targetC (retried : Bool) (x : Ctrl) : Chip :=
  dsC { jobs := [(0, { begunJob readW with stage := .running })], ctrls := [(0, x)], cmds := [sentCmd retried], nextCid := 8 }
theorem witness_completions : (∀ r, (targetC r ctl).formesUp = true ∧ ((targetC r ctl).ds.jobs.map (·.1)).Nodup ∧
      (targetC r ctl).ds.cmds.find? (fun k => k.ctrl == (0 : BitVec 4).toNat && k.cmd.cid == (7 : BitVec 16).toNat && k.sent) = some (sentCmd r) ∧ jobOp readW = 3 ∧
      (sentCmd r).slot = some 0 ∧ (sentCmd r).cmd.op = .read 0 2 ∧ (sentCmd r).dest = .local_ scratch 100 600 ∧ (sentCmd r).retried = r) ∧
    (0x80#15 ≠ 0 ∧ (0x80#15).getLsbD 14 = false) ∧ (0x4080#15).getLsbD 14 = true := by decide
/-- A step of a CONNECT that its target fails. -/
def connC : Chip :=
  dsC { jobs := [(0, { begunJob connectW with stage := .running })], ctrls := [(0, { ctl with phase := .connecting })],
        cmds := [{ ctrl := 0, qp := 0, cmd := { cid := 7, op := .identify 1 }, slot := some 0, dest := .staging, sent := true }] }
theorem witness_connect_step_fails : ∃ k j, connC.formesUp = true ∧ (connC.ds.jobs.map (·.1)).Nodup ∧
    connC.ds.cmds.find? (fun k => k.ctrl == (0 : BitVec 4).toNat && k.cmd.cid == (7 : BitVec 16).toNat && k.sent) = some k ∧ k.slot = some 0 ∧
    Tab.find? 0 connC.ds.jobs = some j ∧ j.stage = .running ∧ j.status = .success ∧ jobOp j.word = 1 ∧ jobCtrl j.word = 0 ∧ ∀ first n, k.cmd.op ≠ .read first n :=
  ⟨_, _, rfl, by decide, rfl, rfl, rfl, rfl, rfl, by decide, by decide, nofun⟩
/-- A command that waits for its controller's queue pair. -/
theorem witness_waits_for_reconnect : let k : NCmd := { sentCmd false with sent := false }
    k.ctrl = 0 ∧ k.qp ≤ ctl.numIoq ∧ k.sent = false ∧ k.cmd.len ≠ 0 ∧ (∀ b ∈ (dsC {}).ds.paused, b = false) ∧ k.cmd.key < 6 ∧ 6 + 1 < 2 ^ 32 := by decide
/-- Its controller lost, and a CONNECT whose controller is lost. -/
def reconn : Ctrl := { ctl with phase := .reconnecting, qps := [] }
theorem witness_connections : Tab.find? 0 (targetC false ctl).ds.ctrls = some ctl ∧ ctl.phase = .live ∧
    (let c := dsC { jobs := [(0, { begunJob connectW with stage := .running })], ctrls := [(0, { ctl with phase := .connecting })] }
     Tab.find? 0 c.ds.jobs = some { begunJob connectW with stage := .running } ∧ jobOp connectW = 1 ∧ jobCtrl connectW = 0 ∧
       (c.ds.jobs.map (·.1)).Nodup ∧ c.formesUp = true) ∧
    reconn.phase = .reconnecting ∧ (targetC false reconn).upPorts reconn.portMask = [12] ∧ (∀ r ∈ (targetC false reconn).ds.cmds, r.cmd.cid < (targetC false reconn).ds.nextCid) ∧
    jobUses { begunJob readW with stage := .running } 0 = true := by decide
theorem witness_rdma :
    (let live (k : NCmd) : Bool := k.ctrl == 0 && k.qp == 1 && k.sent && k.cmd.key == 5 && decide (k.cmd.len ≠ 0 ∧ 1020 + ([1, 2, 3, 4] : List Byte).length ≤ k.cmd.len)
     (targetC false ctl).ds.cmds.find? live = some (sentCmd false) ∧ (targetC false ctl).ds.held = [] ∧ (targetC false ctl).ue = [] ∧
      ∀ b ∈ addrRange scratch 600, (targetC false ctl).accessError 3 b = none) ∧
    (targetC false ctl).ds.cmds.find? (fun k => k.ctrl == 0 && k.qp == 1 && k.sent && k.cmd.key == 6 && decide (k.cmd.len ≠ 0 ∧ 0 ≤ k.cmd.len)) = none ∧
    (dsC {}).ds.cmds.find? (fun k => k.ctrl == 0 && k.qp == 1 && k.sent && k.cmd.key == 6 && decide (k.cmd.len ≠ 0 ∧ 0 ≤ k.cmd.len)) = none ∧
    Tab.find? 0 (dsC {}).ds.ctrls = none := by decide
/-- A congestion notification that names queue pair 0 of controller 0, another RoCE frame, an ARP request for the port's own address, all
of them for the port; PFC frames; another frame; and a solicitation for a port's IPv6 address. -/
def roceF (op : Byte) : List Byte :=
  upC.dsMac 12 ++ List.replicate 6 0 ++ [0x08, 0, 0x45] ++ List.replicate 8 0 ++ [17] ++ List.replicate 6 0 ++ [10, 0, 0, 1] ++ [0, 0, 0x12, 0xB7, 0, 0, 0, 0] ++
    [op, 0, 0, 0, 0, 0, 0, 1]
def arpF : List Byte := List.replicate 12 0 ++ [0x08, 0x06, 0, 1, 8, 0, 6, 4, 0, 1] ++ List.replicate 16 0 ++ [10, 0, 0, 1]
def pfcF (en : Byte) : List Byte := List.replicate 12 0 ++ [0x88, 0x08, 0x01, 0x01, 0, en] ++ List.replicate 42 0
def ndF : List Byte := List.replicate 12 0 ++ [0x86, 0xDD] ++ List.replicate 6 0 ++ [58] ++ List.replicate 33 0 ++ [135] ++ List.replicate 7 0 ++ List.replicate 15 0 ++ [1]
def netC : Chip := { dsC { ctrls := [(0, ctl)] } with imp := { upC.imp with dsIps := [4 + (10 + 1 <<< 24) <<< 104, 0, 0, 0] } }
def net6C : Chip := { netC with imp := { upC.imp with dsIps := [6 + 1 <<< 128, 0, 0, 0] } }
theorem witness_network : netC.ethPortUp 12 = true ∧ netC.ethPortUp 13 = false ∧
    (∀ op ∈ ([0x81, 0x0A, 0x20] : List Byte), netC.toPort 12 (roceF op) = true) ∧
    ((Chip.rocePayload (roceF 0x81)).map fun b => (byteAt b 0, beAt b 5 3)) = some (0x81, Chip.qpn 0 0) ∧
    ((Chip.rocePayload (roceF 0x0A)).map fun b => byteAt b 0) = some 0x0A ∧ ((Chip.rocePayload (roceF 0x20)).map fun b => byteAt b 0) = some 0x20 ∧
    1 < (ctl.qps.headD { port := 0, depth := 0 }).rate ∧
    (Chip.rocePayload arpF = none ∧ beAt arpF 12 2 = 0x0806 ∧ 42 ≤ arpF.length ∧ beAt arpF 20 2 = 1 ∧ (netC.dsIp 12).1 = true ∧
      (arpF.drop 38).take 4 = (netC.dsIp 12).2.drop 12) := by decide
theorem witness_pfc : (∀ en : Byte, Chip.rocePayload (pfcF en) = none ∧ beAt (pfcF en) 12 2 = 0x8808 ∧ beAt (pfcF en) 14 2 = 0x0101) ∧
    nbits (beAt (pfcF 0) 16 2) netC.imp.dsPfcPrio 1 = 0 ∧ nbits (beAt (pfcF 0xFF) 16 2) netC.imp.dsPfcPrio 1 = 1 :=
  ⟨fun _ => ⟨rfl, rfl, rfl⟩, by decide, by decide⟩
theorem witness_nd_and_other : (net6C.ethPortUp 12 = true ∧ beAt ndF 12 2 = 0x86DD ∧ byteAt ndF 20 = 58 ∧ byteAt ndF 54 = 135 ∧ (net6C.dsIp 12).1 = false ∧
      (ndF.drop 62).take 16 = (net6C.dsIp 12).2) ∧
    (Chip.rocePayload (List.replicate 60 0) = none ∧ beAt (List.replicate 60 0) 12 2 ≠ 0x0806 ∧ beAt (List.replicate 60 0) 12 2 ≠ 0x86DD ∧
      beAt (List.replicate 60 0) 12 2 ≠ 0x8808) := by decide
/-- A channel whose sample begins with a packet of its video, and one whose sample holds no whole packet. -/
def muxC (len : Nat) : Chip :=
  { dsC { chans := [(0, { chan [⟨0, 0, len⟩] with demux := { video := some 0x100 } })] } with mem := ({} : Mem).write 0x200000 [0x47, 1, 0, 0x10] }
theorem witness_demux : (muxC 377).ds.stopped = false ∧ (muxC 377).chan? 0 = some { chan [⟨0, 0, 377⟩] with demux := { video := some 0x100 } } ∧
    (muxC 377).readLocal 3 ((List.range 377).map fun i => (ChanDesc.read descW).inAddr + (0 + (0 + i)) % (ChanDesc.read descW).inBytes) =
      .ok ([0x47, 1, 0, 0x10] ++ List.replicate 373 0) ∧
    (let p : List Byte := (([0x47, 1, 0, 0x10] ++ List.replicate 373 0 : List Byte).drop 0).take 188
     ([0x47, 1, 0, 0x10] ++ List.replicate 373 0 : List Byte).takeWhile (· ≠ 0x47) = [] ∧ p.length = 188 ∧ byteAt p 1 < 128 ∧ byteAt p 3 < 64 ∧ beAt p 1 2 % 8192 = 0x100) ∧
    (muxC 100).chan? 0 = some { chan [⟨0, 0, 100⟩] with demux := { video := some 0x100 } } ∧
    (muxC 100).readLocal 3 ((List.range 100).map fun i => (ChanDesc.read descW).inAddr + (0 + (0 + i)) % (ChanDesc.read descW).inBytes) =
      .ok ([0x47, 1, 0, 0x10] ++ List.replicate 96 0) :=
  ⟨rfl, rfl, okIs_eq (by decide +kernel), by decide, rfl, okIs_eq (by decide +kernel)⟩
/-- A channel with an access unit, and what decoding it gives. -/
def unitX (data : List Byte) : Channel := { chan [⟨0, 0, 188⟩] with demux := { codec := 2 }, units := [⟨0, data⟩], used := 100 }
def pic22 : Picture := { width := 2, height := 2, luma := [1, 2, 3, 4], cb := [5], cr := [6] }
def decU (damaged : Bool) (release : Nat) : DecUnit := { pic := pic22, codedW := 16, codedH := 16, damaged, release }
def readC (data : List Byte) : Chip := dsC { chans := [(0, unitX data)] }
/-- An MPEG-2 sequence header and intra picture. -/
def rapB : List Byte := [0, 0, 1, 0xB3, 0, 0, 1, 0, 0, 8]
theorem witness_reader : (∀ a, (readC a).ds.lastChan.getD 0 511 = (0 + 511) % 512 ∧ (readC a).chan? 0 = some (unitX a) ∧ (unitX a).reader = 0 ∧
      (unitX a).used < 188 ∧ (unitX a).skip = false ∧ (unitX a).dropping = true ∧ (unitX a).outs = 0 ∧ (unitX a).frames = 0 ∧
      (unitX a).held = [] ∧ (unitX a).leading = false) ∧
    (∀ a ∈ [[], rapB], (readC a).eligible (unitX a) = true) ∧ (∀ r n, unitSupported (ChanDesc.read descW) 2 (decU r n) = unitSupported (ChanDesc.read descW) 2 (decU false 1)) ∧
    unitSupported (ChanDesc.read descW) 2 (decU false 1) = true ∧ cropFits (ChanDesc.read descW) pic22 = true ∧ (ChanDesc.read descW).split = false ∧
    0 < (ChanDesc.read descW).weight ∧ isRap 2 [] = false ∧ isRap 2 rapB = true ∧ (decU true 0).damaged = true ∧ (decU false 1).damaged = false ∧
    (ChanDesc.read descW).maxFrames ≠ 1 :=
  ⟨fun _ => ⟨rfl, rfl, rfl, show 100 < 188 by decide, rfl, rfl, rfl, rfl, rfl, rfl⟩, by decide, fun _ _ => rfl, by decide, by decide, by decide, by decide, by decide, by decide, rfl, rfl,
    by decide⟩
/-- An HEVC leading picture after a random access point. -/
theorem witness_leading : isRasl 0x24 [0, 0, 1, 16, 0] = true ∧ unitSupported (ChanDesc.read descW) 0x24 (decU false 0) = true ∧
    ({ unitX [0, 0, 1, 16, 0] with demux := { codec := 0x24 }, leading := true } : Channel).leading = true := by decide
def spaceC : Chip := dsC { chans := [(0, { chan [] with waiting := [(List.replicate 64 0, [1, 2])] })] }
theorem witness_frame_ring : spaceC.chan? 0 = some { chan [] with waiting := [(List.replicate 64 0, [1, 2])] } ∧ (chan []).closing = none ∧
    spaceC.ringConsumed (ChanDesc.read descW).ring = some 0 ∧ (chan []).records - 0 < (ChanDesc.read descW).nslots ∧ spaceC.ds.held = [] ∧ spaceC.ue = [] ∧
    64 ≤ (ChanDesc.read descW).ring ∧
    (∀ b ∈ addrRange ((ChanDesc.read descW).ring - 64) 8 ++ addrRange ((ChanDesc.read descW).ring + 0 % (ChanDesc.read descW).nslots * (ChanDesc.read descW).slot) 66,
      spaceC.accessError 3 b = none) := ⟨rfl, rfl, by decide, by decide, rfl, rfl, by decide, by decide⟩

theorem witness_operand_blocks : (up.chip.pumpE 0).readyHead 0 .move = none ∧
    ((qC .move (entW (slugW 0 0))).pumpE 0).readyHead 0 .move = some (entW (slugW 0 0)) ∧ isMove 0 (slugW 0 0) = true ∧ slugOp (slugW 0 0) ≤ 3 := by decide
/-- Heads of the vector, FABRIC and UPDATE queues, the others' being those of `witness_copy` and its like. -/
theorem witness_operand_heads : ((qC .vector (vecE (vecW 2))).pumpE 0).readyHead 0 .vector = some (vecE (vecW 2)) ∧
    ((fabC dispE).pumpE 0).readyHead 0 .fabric = some dispE ∧ slugClass dispE.slug = 5 ∧ slugOp dispE.slug = 3 ∧ (upC.engine 0).qUpdate = [] := by decide
def bankC (q h : Nat) : Chip := engC { banks := [(0, { queued := q, held := h })] }
theorem witness_banks : (Tab.get {} ((bankC 1 1).engine 0).banks 0).held = 1 ∧ (Tab.get {} ((bankC 2 0).engine 0).banks 0).queued = 2 ∧
    (Tab.get {} ((bankC 1 0).engine 0).banks 0).queued = 1 ∧ (Tab.get {} (upC.engine 0).banks 0).queued = 0 ∧
    (bankC 1 1).bankNext 0 = some 0 ∧ (bankC 2 0).bankNext 0 = some 0 ∧ (bankC 1 0).bankNext 0 = some 0 ∧ (bankC 1 0).bankNext 0 ≠ some 5 := by decide
/-- Engine 0's bundle 0 (data) and bundle 102 (control) as given. -/
def bondC (b k : Bundle) : Chip := { upC with bonds := [(Chip.bundleKey 0 0, b), (Chip.bundleKey 0 102, k)] }
theorem witness_bonds : (upC.engine 0).retired = false ∧ (bundleKind 0).isCtl = false ∧ (bundleKind 102).isCtl = true ∧ (upC.bundle 0 0).lost = false ∧
    upC.episodes = [] ∧ (upC.bundle 0 102).transient = none ∧ (upC.bundle 0 0).half = false ∧
    (let failing (t : BundleTest) := (List.range (bundleKind 0).lanes).filter fun l => bit t.centre l || decide ((t.windows.getD l 100).toNat < 10)
     let weak (t : BundleTest) := (List.range (bundleKind 0).lanes).filter fun l => !bit t.centre l && decide (10 ≤ (t.windows.getD l 100).toNat ∧ (t.windows.getD l 100).toNat < 25)
     failing { bundle := 0, centre := 1 } = [0] ∧ weak { bundle := 0, centre := 1 } = [] ∧ failing { bundle := 0, windows := [9] } = [0] ∧
     failing { bundle := 0, windows := [10] } = [] ∧ weak { bundle := 0, windows := [10] } = [0] ∧ weak { bundle := 0, windows := [25] } = []) ∧
    (addLanes [] [0]).length ≤ 2 ∧ ((bondC { out := [1, 2] } {}).bundle 0 0).out = [1, 2] ∧ 2 < (addLanes [1, 2] [0]).length ∧
    (bundleKind 0).halfNeeds ≤ (bundleKind 0).lanes - (addLanes [1, 2] [0]).length ∧
    ((bondC { out := addLanes [] ((List.range 18).map (· + 1)), half := true } {}).bundle 0 0).half = true ∧
    (bundleKind 0).lanes - (addLanes ((List.range 18).map (· + 1)) [0]).length < (bundleKind 0).halfNeeds ∧
    ((bondC { out := [1, 2], weak := [0] } {}).bundle 0 0).weak.contains 0 = true ∧ upC.imp.bondProactive = true := by decide
theorem witness_crc_bursts : let b : Bundle := { crcTimes := List.replicate 17 0 }
    ((bondC b {}).bundle 0 0).crcTimes.length = 17 ∧ 16 < (b.crcTimes.filter fun x => decide (upC.ovs.time ≤ x + 200000)).length ∧
    (upC.bundle 0 0).crcTimes.length ≤ 16 := by decide
/-- The control bundles of engine 0 after its error: none fails, or one lane of bundle 102 does. -/
def ctlC (centre : BitVec 66) : Chip := upC.measure 0 { bundle := 102, centre }
theorem witness_control_errors : (∀ j, j < 180 → lanesIn ((ctlC 0).condition 0 j) (bundleKind j) .weak = []) ∧ (∀ j, j < 180 → (ctlC 0).mapFails 0 j = []) ∧
    (∀ j, j < 180 → lanesIn ((ctlC 1).condition 0 j) (bundleKind j) .weak = []) ∧ (∀ j, j < 180 → j ≠ 102 → (ctlC 1).mapFails 0 j = []) ∧
    (ctlC 1).mapFails 0 102 = [0] ∧ (upC.bundle 0 102).out.length < 2 ∧ ((bondC {} { transient := some 0 }).bundle 0 102).transient = some 0 ∧
    upC.ovs.time ≤ 0 + 24 * 3600 * 200000000 ∧ (1 : Nat) ∈ [1] := by decide
/-- Bank 0 of engine 0 with a request that waits for a slot. -/
theorem witness_late_requests : (let c := engC { banks := [(0, { queued := 2, late := 1 })] }
    (Tab.get {} (c.banksOf 0) 0).late = 1 ∧ c.bankNext 0 = some 0 ∧
    List.find? (fun p : Nat × BankQ => decide (0 < p.2.late)) (c.banksOf 0) = some (0, { queued := 2, late := 1 }) ∧ 0 < c.bankRoom 0) := by decide

/-! ### Witnesses: resets, power pins, start and restart -/

/-- A running chip with resets as given. -/
def rstC (r : Resets) : Chip := { upC with rst := r }
theorem witness_engine_reset : (rstC {}).engineAsked 63 = false ∧ (rstC { engines := [63] }).engineAsked 63 = true ∧
    ((rstC { engines := [63] }).engine 63).retired = false := by decide
/-- A bed-domain reset of one domain at a stage. -/
def bedC (code : Nat) (clear : Bool) (stage : BedStage) : Chip := { rstC { beds := [{ code, clear, stage }] } with domDown := [code] }
theorem witness_bed_resets :
    (∀ d ∈ [0, 15], ∀ b, (bedC d b .marked).rst.beds.find? (fun x => x.code == d && x.stage == .marked) = some { code := d, clear := b, stage := .marked }) ∧
    (∀ d ∈ [16, 19], (bedC d true .marked).rst.beds.find? (fun x => x.code == d && x.stage == .marked) = some { code := d, clear := true, stage := .marked } ∧
      (bedC d true .marked).fab.ports.length = 16 ∧ (∀ e, e < 64 → ((bedC d true .marked).engine e).qFabric = []) ∧ (bedC d true .marked).ds.ctrls = []) ∧
    (bedC 20 true .marked).rst.beds.find? (fun x => x.code == 20 && x.stage == .marked) = some { code := 20, clear := true, stage := .marked } ∧
    (rstC {}).rst.beds.any (fun x => x.code == 3 && x.stage == .marked) = false ∧ (rstC {}).rst.beds.any (fun x => x.code == 20 && x.stage == .waiting) = false ∧
    (bedC 20 true .waiting).rst.beds.any (fun x => x.code == 20 && x.stage == .waiting) = true := by decide
/-- A forme reset of forme 3. -/
def formeC (forced : Bool) (stage : FormeStage) : Chip := rstC { formes := [{ forme := 3, forced, stage }] }
/-- The same with work in an engine of the forme. -/
def busyC (stage : FormeStage) : Chip :=
  { formeC false stage with engines := List.replicate 63 {} ++ [{ qMove := [{ id := 0, slug := 0 }] }] }
theorem witness_forme_resets : upC.handlings = [] ∧ upC.cors.length = 4 ∧ upC.rst.device = false ∧ (busyC .asked).drained 3 = false ∧
    (∀ f, (formeC f .asked).rst.formes = [{ forme := 3, forced := f, stage := .asked }]) ∧ (formeC false .asked).drained 3 = true ∧
    ((formeC false .quiescing).cor 3).ctxs = [] ∧ (formeC false .quiescing).ds.chans = [] ∧ (formeC false .quiescing).ds.jobs = [] ∧
    (formeC false .quiescing).ds.ctrls = [] ∧ (formeC false .quiescing).rst.beds = [] ∧ (formeC false .waiting).pwr.stop = .none_ := by decide
theorem witness_nothing_shared : NothingShared (formeC false .asked) ∧ (formeC false .asked).fab.roleAcks = [] ∧ (formeC false .asked).ds.chans = [] :=
  ⟨⟨rfl, rfl, by decide⟩, rfl, rfl⟩
theorem witness_device_reset :
    let c := rstC { device := true, formes := (List.range 4).map fun f => { forme := f, forced := true, device := true } }
    c.rst.device = true ∧ (∀ g, g < 4 → ∃ r ∈ c.rst.formes, r.forme = g) ∧ (c.rst.formes.map FormeReset.forme).Nodup ∧
    (∀ r ∈ c.rst.formes, r.forced = true ∧ r.stage ≠ .waiting ∧ r.forme < 4) ∧ c.pwr.stop = .none_ ∧ c.engines.length = 64 := by decide
theorem witness_power_pins : State.reset.chip.standby = true ∧ State.reset.chip.waitCold = true ∧ upC.standby = true ∧ upC.waitCold = false ∧
    ({ upC with standby := false } : Chip).standby = false ∧ upC.folioOk = true ∧ ({} : State).board.folio.first.length < 1024 ∧
    ({ upC with evr := { mirror := [7] } } : Chip).evr.mirror = [7] := by decide
/-- A blank board has no image to start; that an image verifies rests on keys and signatures that the model leaves open (log entry 31), so that
clause of the statement has no closed witness. -/
theorem witness_cold_start : (State.reset.chip.standby && State.reset.chip.waitCold) = true ∧ (upC.standby && upC.waitCold) = false ∧
    State.reset.chip.ovs.state = .rom ∧ State.reset.chip.formesUp = false ∧
    ∃ k, bootSlot ({} : Fuses) {} State.reset.chip.flashOk = (k, none) := ⟨by decide, by decide, by decide, by decide, _, rfl⟩
theorem witness_warm_restart : State.reset.chip.ovs.state = .rom ∧ upC.ovs.state ≠ .rom ∧ upC.standby = true ∧ upC.ovs.lastWarm = none ∧
    (let c := { upC with ovs := { state := .running, time := 100, lastWarm := some 50 } }; c.ovs.lastWarm = some 50 ∧ c.ovs.time + 1000000 ≤ 50 + 200000000) ∧
    (let c := { upC with ovs := { state := .running, time := 200000000, lastWarm := some 50 } }; c.ovs.lastWarm = some 50 ∧ 50 + 200000000 < c.ovs.time + 1000000) := by
  decide

/-! ### Witnesses: temperature, power, errors, the overseer -/

/-- A running chip with a power state, and with an overseer. -/
def pwrC (p : Power) : Chip := { upC with pwr := p }
def ovsC (o : Ovs) : Chip := { upC with ovs := o }
theorem witness_thermal_trip : upC.standby = true ∧ upC.pwr.thermtrip = false ∧ degrees 115 ≤ (BitVec.ofNat 12 (degrees 115)).toNat ∧
    (BitVec.ofNat 12 (degrees 114)).toNat < degrees 115 ∧ ({ upC with standby := false } : Chip).standby = false ∧ (pwrC { thermtrip := true }).pwr.thermtrip = true := by decide
theorem witness_refresh : upC.pwr.refresh2.length = 16 ∧ upC.pwr.hbm.length = 16 ∧ degrees 85 < (BitVec.ofNat 12 (degrees 86)).toNat := by decide
theorem witness_stop_deadline : upC.pwr.stop ≠ .draining ∧ (pwrC { stop := .draining }).pwr.stop = .draining ∧ (pwrC { stop := .draining, deviceStop := true }).pwr.deviceStop = true ∧
    (let c := { pwrC { stop := .draining } with host := { inForce := true, lines := [(3, { state := .modified, data := 7 }), (9, { state := .shared, data := 0 })] } }
     c.host.inForce = true ∧ (c.host.lines.map Prod.fst).Pairwise (· < ·) ∧ ∀ e, e < 64 → (c.engine e).ring = none) := by decide
theorem witness_lost_lock : upC.rst.formes = [] ∧ upC.rst.device = false ∧ upC.rst.beds = [] ∧ upC.pwr.stop = .none_ ∧
    (22 : BitVec 5).toNat = 22 ∧ 24 < (25 : BitVec 5).toNat ∧ (24 : BitVec 5).toNat ≤ 24 ∧ (0 : BitVec 5).toNat ≤ 24 := by decide
def lowC : Chip := pwrC { formes := [{ low := true }, {}, {}, {}] }
theorem witness_low_press : (upC.formePower 0).low = false ∧ (lowC.formePower 0).low = true ∧ lowC.pwr.formes.length = 4 ∧ 0 ∉ lowC.formeDown ∧
    lowC.pwr.thermtrip = false ∧ 0 ∈ ({ lowC with formeDown := [0] } : Chip).formeDown := by decide
/-- The fast loop below its target and between its bounds; the estimate is left open (log entry 29), so a power above the target is shown for any
part whose estimate is not zero. -/
def fastC (eff : Nat) : Chip := pwrC { formes := [], cap := 100, eff }
theorem witness_fast_loop : (fastC (2 * Config.powerFixed + 1)).aboveTarget = false ∧ (fastC (2 * Config.powerFixed + 1)).belowTarget 97 = true ∧
    (fastC Config.powerFixed).aboveTarget = false ∧ (fastC Config.powerFixed).belowTarget 97 = false ∧
    (0 < Config.powerFixed → (fastC 0).aboveTarget = true) ∧ (fastC 0).pwr.mode = .normal ∧ (fastC 0).pwr.cap < 240 ∧
    (pwrC { mode := .floor }).pwr.mode = .floor ∧ (pwrC { mode := .measuredOnly }).pwr.window = false := by
  have he (n : Nat) : (fastC n).controlled = ((0 + Config.powerFixed) * 1, n * 1) := rfl
  simp only [Chip.aboveTarget, Chip.belowTarget, he, decide_eq_false_iff_not, decide_eq_true_eq]
  exact ⟨by omega, by omega, by omega, by omega, fun h => by omega, rfl, by decide, rfl, rfl⟩
theorem witness_lease : (∀ l ∈ upC.pwr.leases, ¬(l.sender = 3 ∧ l.left = some 0)) ∧
    (∃ l ∈ (pwrC { leases := [{ sender := 3, limit := 1500, left := some 0 }, { sender := 4, limit := 1200, left := none }] }).pwr.leases, l.sender = 3 ∧ l.left = some 0) ∧
    (∀ l ∈ upC.pwr.leases, l.sender = 3 → l.left = some 0 ∨ l.slack = 0 ∨ l.since < l.slack) ∧
    (∃ l ∈ (pwrC { leases := [{ sender := 3, limit := 1500, left := none, slack := 10, since := 10 }] }).pwr.leases, l.sender = 3 ∧ l.left ≠ some 0 ∧ l.slack ≠ 0 ∧ l.slack ≤ l.since) := by
  decide
/-- A report that has a path, some pacer cycles of the last report's time spent in FABRIC_RECV. -/
def slackC : Chip :=
  { pwrC { leases := [{ sender := 5, limit := 1500, left := none, slack := 10, since := 10 }], slack := { recv := 3, cycles := 4 } } with fab := { idValid := true, deviceId := 5 } }
theorem witness_slack_report : slackC.fab.idValid = true ∧ slackC.unreachable 5 = false ∧ slackC.pwr.eff < 2 ^ 16 ∧
    (slackC.pwr.leases.map fun l => ((Slack.since slackC.pwr.slack l.slackAt).recv, (Slack.since slackC.pwr.slack l.slackAt).cycles)) = [(3, 4)] ∧ upC.fab.idValid = false ∧
    (pwrC { mode := .measuredOnly, window := true }).pwr.window = true := by decide
def pvidC (n : Nat) (held : Bool) : Chip := pwrC { formes := [{ pvidTries := n, heldAt := held }, {}, {}, {}] }
theorem witness_pvid : (upC.formePower 0).pvidTries = 0 ∧ ((pvidC 1 true).formePower 0).heldAt = true ∧ ((pvidC 3 false).formePower 0).pvidTries < 4 ∧
    ((pvidC 3 false).formePower 0).pvidTries ≠ 0 ∧ 4 ≤ ((pvidC 4 false).formePower 0).pvidTries ∧ ((pvidC 4 false).formePower 0).heldAt = false ∧
    (pvidC 4 false).pwr.formes.length = 4 := by decide
theorem witness_windows : upC.pwr.unmetRun < 5 ∧ 5 ≤ (pwrC { unmetRun := 5 }).pwr.unmetRun ∧ (pwrC { unmetRun := 5 }).pwr.unmet = false ∧
    upC.pwr.disagree < 5 ∧ (pwrC { disagree := 5 }).pwr.mode = .normal ∧ 5 ≤ (pwrC { disagree := 5 }).pwr.disagree := by decide

theorem witness_unit_errors : State.reset.chip.formesUp = false ∧ unitSeverity 0 = none ∧ (unitSeverity evBondCtrlError).isSome = true ∧ evBondCtrlError ≠ evClkLockLost ∧
    placeOf 0xFFFFFFFFFFFF = .nowhere ∧ placeOf 0 = .hbm 0 ∧ (upC.engine 0).findLine 0 (0 / 128 * 128) = none ∧
    (let l : PLine := { space := 0, addr := 128, way := 0, data := 0, state := .demand, td := 1, nu := none, recency := 0 }
     ((engC { cache := [l] }).engine 0).findLine 0 (200 / 128 * 128) = some l) := by decide
theorem witness_galley_word : ((engC { galley := [tile7] }).engine 0).galley[0]? = some tile7 ∧ upC.formesUp = true := by decide
/-- The three cases of an episode: none covers the domain, an address that has counted, and one that counts. -/
def epC (count : Nat) : Chip := { upC with episodes := [{ num := 1, dom := .engine 3, level := .fatalEngine, count, addrs := [0x80] }] }
theorem witness_episodes : upC.covering (.engine 3) = none ∧ ((epC 1).covering (.engine 3)).isSome = true ∧
    ((epC 1).covering (.engine 3)).all (fun ep => ep.addrs.contains 0x80 && !ep.addrs.contains 0x100) = true := by decide
theorem witness_recorder : ({ upC with evq := List.replicate 3 { code := 0x111, sev := .note, source := 64, dom := .device, ticks := 0 } } : Chip).evq.length ≤ 4096 := by decide
/-- Both stores within their bounds, a trial that waits to be confirmed. -/
def warmC : Chip := ovsC { state := .running, confirm := true, folioTemp := degrees 20, i3c := { flashAge := some 0, flashTemp := degrees 20 } }
theorem witness_deferred_writes : upC.standby = true ∧ upC.ovs.state ≠ .rom ∧ warmC.folioOk = true ∧ warmC.flashOk = true ∧ warmC.ovs.confirm = true ∧
    (ovsC { state := .running, folioTemp := 0 }).folioOk = false ∧
    (({} : State).board.folio.first.length + upC.evr.mirror.length ≤ 1024) ∧ ({ upC with evr := { mapDirty := true } } : Chip).evr.mapDirty = true := by decide
def hotIn : LoopIn := { temps := List.replicate 112 (BitVec.ofNat 12 (degrees 105)), rails := List.replicate 13 [], folioTemp := 512, tickKhz := [] }
theorem witness_loop : upC.standby = true ∧ upC.ovs.state = .running ∧ upC.formesUp = true ∧ State.reset.chip.ovs.state = .rom ∧
    (hotIn.temps.map BitVec.toNat)[111]? = some (degrees 105) ∧ degrees 105 ≤ degrees 150 ∧ upC.pwr.badSensors.contains 111 = false ∧ upC.pwr.stop = .none_ ∧
    (let c := { ovsC { state := .recovery } with formesUp := false, host := { attachOp := 1 } }
     c.ovs.state = .recovery ∧ c.ovs.upd.stage = .idle ∧ c.ovs.upd.asked = false ∧ c.ovs.clr.stage = .idle ∧ c.ovs.clr.asked = false ∧ c.host.attachOp = 1) := by decide

/-! ### Witnesses: what resets leave -/

theorem witness_survives : resetRow (.engineReset 0) = true ∧ resetRow .deviceReset = true ∧ State.reset.chip.engines.length = 64 := by decide

/-! ### A spill region in use (R223) -/

/-- An engine whose frame 0 holds a record, with one MiB of spill region per frame. -/
def spilledC (recs : List SpikeRec) : Chip := engC { ({} : Engine) with spike := { base := 0x100000, shareMib := 1, frame := [(0, { recs })] } }
theorem test_spill_region_in_use (a : Nat) (h : 0x100000 ≤ a ∧ a < 0x1100000) :
    (spilledC [{ header := 0, payload := [] }]).seen a = Config.spillByte a := by
  have hr : (spilledC [{ header := 0, payload := [] }]).spillRegions = [(0x100000, 0x1000000)] := by decide +kernel
  simp only [Chip.seen, hr, List.any_cons, List.any_nil, Bool.or_false, decide_eq_true_eq]
  exact if_pos ⟨h.1, by omega⟩
theorem test_spill_region_not_in_use : (spilledC []).spillRegions = [] := by decide

/-! ### Witnesses: further cases of the statements -/

theorem witness_machine_invariant : State.reset.wf = true ∧ ∃ t, step State.reset = .next t := ⟨by decide, _, rfl⟩
theorem witness_window_open : upC.windowUp = true ∧ State.reset.chip.windowUp = false ∧ upC.host.busy = false ∧
    (ovsC { state := .recovery }).windowUp = true ∧ (ovsC { state := .recovery }).ovs.state ≠ .running := by decide
/-- A requested reset of engine 0 that has not ended, and one of the device whose last forme has just come up. -/
theorem witness_busy_reset_requests :
    let c := rstC { wants := [{ kind := 1, target := 0, busy := true }], engines := [0] }
    let d := rstC { wants := [{ kind := 4, target := 0, busy := true }] }
    c.rst.busy = true ∧ (c.engine 5).retired = false ∧ c.spanBusy 1 5 = false ∧ c.spanBusy 2 3 = false ∧ c.widens 2 3 = false ∧ c.spanBusy 3 20 = false ∧
    d.rst.busy = true ∧ d.spanBusy 4 0 = false ∧ d.widens 4 0 = false := by decide

/-- A PREFETCH of two lines where one request slot is free. -/
def prefE2 : QEntry := { id := 0, slug := prefW, tds := [(1, tdW 0x1000 0 64)] }
def prefC2 : Chip := engC { qMove := [prefE2], banks := [(0, { queued := 255 })] }
theorem witness_prefetch_batches : Runs (at_ prefC2) 0 .queued .move prefC2 (begun prefE2) ∧ checkPrefetch (begun prefE2) = .ok (tdOf 1 0x1000 .fp32 64) ∧
    (tdOf 1 0x1000 .fp32 64).barred = false ∧ (Chip.sourceLines (tdOf 1 0x1000 .fp32 64)).all (prefC2.ownLine (tdOf 1 0x1000 .fp32 64)) = true ∧
    (prefC2.engine 0).sets ≠ 0 ∧ prefC2.prefetchBatch 0 < (Chip.sourceLines (tdOf 1 0x1000 .fp32 64)).length :=
  ⟨runs_of_head _ _ _ _ rfl rfl rfl rfl (by decide) (by decide), rfl, by decide, by decide, by decide, by decide⟩
/-- A reduction into TD 3, and the rows of SOFTMAX_FWD, that nothing holds back. -/
def redMW : SlugWord := BitVec.ofNat 512 (2 + 0x40 <<< 64 + 1 <<< 117 + 2 <<< 127 + 3 <<< 148 + 0x3FF <<< 158 + 0x3FF <<< 168)
def redME : QEntry := { id := 0, slug := redMW, tds := [(1, tdW scratch 0 4), (2, tdW (scratch + 64) 0 4), (3, tdW (scratch + 128) 0 1)] }
theorem witness_reduction_reached : ∃ v a d, checkVector none ((qC .vector redME).engine 0) (begun redME) = .ok v ∧ v.srcs.head? = some (.td a) ∧
    v.dst = some d ∧ ∀ i, i < (redExt a v.redDim).foldl (· * ·) 1 → Reached (qC .vector redME) 0 (begun redME) ((begun redME).redUsesAt 0 a d v.redDim i) :=
  by
    refine ⟨_, _, _, rfl, rfl, rfl, ?_⟩
    unfold Reached; decide
theorem witness_fused_reached : ∃ f x, checkFused none (begun softE) = .ok f ∧ f.rowTd = some x ∧
    ∀ r, r < f.rows → Reached (qC .vector softE) 0 (begun softE) ((begun softE).fusedUsesAt 0 x r) := by
    refine ⟨_, _, rfl, rfl, ?_⟩
    unfold Reached; decide

/-- CRING_SET onto a word of an operand buffer that an earlier COPY writes. -/
def cringBW : SlugWord := BitVec.ofNat 512 (9 + 4 <<< 64 + (bufferOf 0 + 0x40) <<< 128 + 4 <<< 192)
def cringBC : Chip :=
  engC { stream := [{ slug := cringBW }], qMove := [({ id := 0, slug := slugW 0 0, tds := [(1, tdW scratch 0 4), (2, tdW (bufferOf 0) 1 4)] } : QEntry)], nextId := 1 }
theorem witness_cring_set_waits : ∃ (c2 : Chip) (q0 : QEntry), TakesCore (at_ cringBC) 0 .queued c2 { slug := cringBW } { q0 with began := true } ∧
    Chip.checkControl cringBW = .ok () ∧ slugOp cringBW = 4 ∧ c2.coreBlocked 0 { q0 with began := true } (fld cringBW 191 128 - 8) 8 true = true :=
  ⟨_, _, ⟨rfl, rfl, _, [], _, rfl, rfl, by decide, rfl, by decide, rfl⟩, rfl, by decide, by decide⟩
theorem witness_core_parked :
    let c (w : SlugWord) := engC { parked := true, core := some (heldE w) }
    ((c listW).engine 0).parked = true ∧ ((c listW).engine 0).core = some (heldE listW) ∧ slugClass listW = 9 ∧ slugClass (quoinW 1) = 4 ∧
    upC.ringAvail 0 = false ∧ hostC.ringAvail 0 = true ∧
    ((engC { core := some (heldE cringW) }).coreBlocked 0 (heldE cringW) (fld cringW 191 128 - 8) 8 true = false) ∧ 8 ≤ fld cringW 191 128 := by decide
/-- A host ring's record whose line is not owned, and one whose line is. -/
def hostWC (lines : Tab HLine) : Chip := { ringC with host := { ringC.host with inForce := true, session := 1, lines } }
theorem witness_host_record_waits :
    let bs := toBytes 16 (Chip.phased 0 4 0)
    ((hostWC []).hostCtlWrite ring0.cqBase bs).1 = false ∧ ((hostWC [(0x80, { state := .exclusive, data := 0 })]).hostCtlWrite ring0.cqBase bs).1 = true ∧
    (hostWC []).hostShut 0 = false ∧ (hostWC []).host.closing = false ∧
    ((hostEnd true 3).hostCtlWrite 0 bs).1 = false ∧
    (let c := hostEnd true 3
     (({ c with host := { c.host with lines := [(0, { state := .exclusive, data := 0 })] } } : Chip).hostCtlWrite 0 bs).1 = true) := by decide

/-- Two frames with resident records, the second opened later, and a part that is full. -/
def fullC : Chip :=
  engC { spike := { frame := [(0, { recs := [rec4], pushes := 1, opened := 1 }), (3, { recs := [rec4, rec4], pushes := 2, opened := 2 })], shareMib := 1,
                    base := 0x100000, opens := 2 } }
theorem witness_room_is_made :
    let need := fullC.partSize 0 - 2 * recordSize 16
    fullC.partSize 0 < fullC.partUsed 0 - fullC.freeing 0 + need ∧ (Chip.makeRoom 8 0 need fullC).isSome = true ∧ fullC.spillFrame 0 = some 3 ∧
    (fullC.startSpill 0 3).isSome = true ∧ ((fullC.spikeOf 0).frame.map (·.1)).Pairwise (· < ·) := by decide +kernel

theorem witness_read_domain_down : JobRuns (at_ { openC .begun with domDown := [20] }) 0 .queued 0 (begunJob openW) { openC .running with domDown := [20] } ∧
    ({ openC .running with domDown := [20] } : Chip).domDown.contains 20 = true ∧ (openC .running).domDown.contains 20 = false :=
  ⟨⟨rfl, rfl, rfl, rfl, by decide, rfl⟩, by decide, by decide⟩
/-- No other LOAD_SAMPLES runs. -/
theorem witness_one_load : (∀ p ∈ (loadC .running).ds.jobs, p.1 ≠ 0 → jobOp p.2.word = 5 → p.2.stage ≠ .running) ∧
    (∀ p ∈ (jobsC {} { begunJob readW with stage := .running }).ds.jobs, jobOp p.2.word = 5 → p.2.stage ≠ .running) := by decide

/-- Every bundle of engine 63 sound, and a lane of its bundle 0 failing. -/
theorem witness_reset_tests :
    let c := rstC { engines := [63] }
    let d := { c with lanes := [(Chip.bundleKey 63 0, { bundle := 0, centre := 1 })] }
    (∀ i, i < bundlesPerEngine → c.mapFails 63 i = [] ∧ lanesIn (c.condition 63 i) (bundleKind i) .weak = []) ∧ (d.bundle 63 0).lost = false ∧
    ((d.bundle 63 0).repair (bundleKind 0) (d.mapFails 63 0)).2 = .remapped ∧ d.mapFails 63 0 = [0] ∧
    lanesIn { bundle := 0, centre := 1 } (bundleKind 0) .weak = [] := by decide
theorem witness_bed_ready : (bedC 19 false .ready).rst.beds = [{ code := 19, clear := false, stage := .ready }] ∧ upC.pwr.stop ≠ .stopped := by decide
theorem witness_device_reset_ends :
    let w : FormeReset := { forme := 3, forced := true, stage := .waiting }
    let c := rstC { device := true, formes := [w] }
    let d := rstC { device := true, formes := [w, { forme := 2, forced := true }] }
    c.rst.device = true ∧ c.rst.formes = [w] ∧ (d.rst.formes.any fun r => r.stage != .waiting) = true := by decide
theorem witness_warm_store : upC.storeOk = true ∧ (ovsC { state := .running, badWords := [(.imposition, 0)] }).storeOk = false := by decide
/-- A part whose bundles are sound under an empty map. -/
theorem witness_start_tests : ∀ i, i < bundlesPerEngine → lanesIn (State.reset.chip.condition 0 i) (bundleKind i) .weak = [] ∧
    lanesIn (State.reset.chip.condition 0 i) (bundleKind i) .failing = [] := by decide

theorem witness_faulty_readings : readingOk (degrees 115) = true ∧ readingOk (degrees 151) = false ∧ degrees 115 ≤ degrees 151 ∧ 5 ∉ upC.pwr.badSensors ∧
    5 ∈ (pwrC { badSensors := [5] }).pwr.badSensors ∧ hbmSensor 3 ∈ (pwrC { badSensors := [115] }).pwr.badSensors ∧
    (pwrC { stop := .stopped, formes := [{ low := true }, {}, {}, {}] }).pwr.stop = .stopped := by decide
theorem witness_stop_waits :
    let c (l0 : Bool) := { pwrC { stop := .draining } with host := { inForce := true, l0, bme := true, cxlCache := true, lines := [(3, { state := .modified, data := 7 })] } }
    (c false).stopWaits = true ∧ (c true).stopWaits = false ∧ (c true).engines.length = 64 := by decide
theorem witness_overseer_words : (∀ m w b, UnitErr.corrected 0 ≠ .ovsWord m w b) ∧ (ovsC { state := .recovery }).standby = true ∧
    (ovsC { state := .recovery }).ovs.state ≠ .rom ∧ State.reset.chip.formesUp = false := ⟨nofun, rfl, nofun, rfl⟩
/-- A rail that has read one value for 100 windows while its load changed. -/
theorem witness_rail_fault : upC.pwr.rails.length = 13 ∧ (let r := Chip.railWindow { value := 5, run := 99, moved := true } (Chip.railMicroW [(5, 1)]) false
    100 ≤ r.run ∧ r.moved = true) := by decide
theorem witness_sound_bonds : ∀ k, k < bundlesPerEngine → State.reset.chip.mapFails 63 k = [] ∧ lanesIn (State.reset.chip.condition 63 k) (bundleKind k) .weak = [] := by decide

end Sys2Proof.Tests
end

section
/-!
PROOFS. The state right after reset: what its registers read, and that its units are idle.
-/
namespace Sys2Proof.Machine

/-! ### The path of a register read -/

/-- A read depends on its path only through the selectors and the snapshot of that path (R513). -/
theorem Chip.chipReg_congr_path (c : Chip) {p q : Path} (h : c.pathRegs p = c.pathRegs q) (r : Reg) : c.chipReg p r = c.chipReg q r := by
  unfold Chip.chipReg
  rw [h]

theorem Chip.readReg_congr_path (c : Chip) (b : Board) {p q : Path} (h : c.pathRegs p = c.pathRegs q) (r : Reg) :
    c.readReg b p r = c.readReg b q r := by
  unfold Chip.readReg
  simp only [c.chipReg_congr_path h]

theorem Chip.readSlot_congr_path (c : Chip) (b : Board) {p q : Path} (h : c.pathRegs p = c.pathRegs q) (o : Nat) :
    c.readSlot b p o = c.readSlot b q o := by
  unfold Chip.readSlot
  simp only [c.readReg_congr_path b h]

/-! ### Registers after reset -/

@[simp] theorem pathRegs_reset (path : Path) : State.reset.chip.pathRegs path = {} := by
  cases path <;> rfl

/-- The host's reads meet the Reset columns: the finite table, one register after another. -/
theorem readSlot_reset_host : ∀ x ∈ resetColumn, State.reset.chip.readSlot State.reset.board .host x.1 = x.2 := by
  decide +kernel

/-- No path has written a selector yet, so every path reads what the host reads. -/
theorem readSlot_reset (path : Path) : ∀ x ∈ resetColumn, State.reset.chip.readSlot State.reset.board path x.1 = x.2 := fun x hx =>
  have same : State.reset.chip.pathRegs path = State.reset.chip.pathRegs .host := by simp
  (State.reset.chip.readSlot_congr_path State.reset.board same x.1).trans (readSlot_reset_host x hx)

/-! ### Units after reset -/

@[simp] theorem Engine.queue_default (q : QId) : ({} : Engine).queue q = [] := by
  cases q <;> rfl

theorem eq_default_of_mem_engines_reset {x : Engine} (h : x ∈ State.reset.chip.engines) : x = {} :=
  List.eq_of_mem_replicate (n := 64) h

theorem eq_default_of_mem_ports_reset {p : Port} (h : p ∈ State.reset.chip.fab.ports) : p = {} :=
  List.eq_of_mem_replicate (n := 16) h

/-- Settles O60: the registers by their table, the engines and the ports because each is its type's default, the rest by the definition
of the reset state. -/
theorem resetLeavesTheManualsValues : Obligations.reset_leaves_the_manuals_values := by
  refine ⟨readSlot_reset, rfl, rfl, rfl, List.length_replicate, ?engines, List.length_replicate, ?ports, rfl, rfl, rfl, Mem.wf_empty⟩
  case engines =>
    intro x hx
    obtain rfl := eq_default_of_mem_engines_reset hx
    exact ⟨Engine.queue_default, rfl, rfl, rfl, rfl, rfl, rfl⟩
  case ports =>
    intro p hp
    obtain rfl := eq_default_of_mem_ports_reset hp
    rfl

end Sys2Proof.Machine
end
